-- ==== Sys2Proof/Word.lean ====
section
/-! DEFINITION. The word types of the engine (R263: registers are 32 bits wide; R274: the internal
address space is of bytes; H32 of spec/00_scope.md) and the sparse-table type that the state is
made of. -/

namespace Sys2Proof

/-- A register, a truss element or an H32 sample: 32 bits (R63, R263). -/
abbrev Word := BitVec 32

/-- One byte of memory (R274). -/
abbrev Byte := BitVec 8

/-- One accumulator element: 80 bits (R63). -/
abbrev Acc := BitVec 80

/-- A sparse table: pairs of key and entry with strictly rising keys. A key that is not listed reads
as the default that the accessor names. -/
abbrev Tab (α : Type) := List (Nat × α)

/-- One block of one signal group: a list of channels, each the list of its samples in time order,
as H32 integers (R28, R138). -/
abbrev Block := List (List Int)

end Sys2Proof
end

