-- ==== Sys2Proof/Syntax.lean ====
section
/-! DEFINITION. The commands of the block: one constructor for each row of spec/opcode_table.json, in
the table's order, with the operands that the environment supplies to that step, and the types those
operands are made of. -/

namespace Sys2Proof

/-- Network port A or B (R318). -/
inductive Port where
  | a | b
deriving DecidableEq, Repr

/-- The three doors of the mailbox (R242). -/
inductive Door where
  | host | network | table
deriving DecidableEq, Repr

/-- The levels sampled at the release of RESET_N (R498, R488, R441). -/
structure Straps where
  bootMode : Fin 4
  pmbAvs : Bool
  twinSeat : Bool
deriving DecidableEq, Repr

/-- An E operation in the E slot, or in the EW slot with an immediate second operand (R126, R128). -/
inductive EArgs where
  | e (d a b : BitVec 5) (pq : BitVec 2) (m : BitVec 4)
  | ew (d a : BitVec 5) (pq : BitVec 2) (imm : BitVec 16)
deriving DecidableEq, Repr

/-- The fields of an operation that only the EW slot has (R126, R128). -/
structure EWArgs where
  d : BitVec 5
  a : BitVec 5
  b : BitVec 5
  c : BitVec 5
  pq : BitVec 2
  imm : BitVec 16
deriving DecidableEq, Repr

/-- The fields of one memory slot, less its op field: MA and MB (R129), ML (R130). -/
inductive MemArgs where
  | ma (space : BitVec 2) (v : BitVec 5) (ptr pattern pm : BitVec 3)
  | mb (space : BitVec 2) (v : BitVec 5) (ptr pattern pm : BitVec 3)
  | ml (space : BitVec 3) (v : BitVec 5) (ptr : BitVec 4) (pattern : BitVec 3) (idx : BitVec 5)
      (pmk : BitVec 2) (pmv : BitVec 8)
deriving DecidableEq, Repr

/-- What a bridge flit carries once its CRC is good (the channels of "The die-to-die bridge"). -/
inductive Flit where
  | keepAlive
  | sample (c : Fin 16) (x : Word)
  | boostTarget (g : Fin 4) (vc : Nat)
  | senseAmp (c : Fin 16) (ipk : Nat) (dc : BitVec 16)
  | senseBoost (g : Fin 4) (rail vin : Nat)
  | register
deriving DecidableEq, Repr

/-- The check of orders 1 and 3–5 that a speculative block failed (R33, R43). -/
inductive SpecCheck where
  | frame | crc | seq | misalign | late | early
deriving DecidableEq, Repr

/-- An ECC error that a read finds: the word's internal byte address, and whether two bits are wrong (R480). -/
structure Ecc where
  addr : Word
  double : Bool
deriving DecidableEq, Repr

/-- An ECC error that a read of the Joinery finds, with the object that it reads for (R480): its entry kind of R137, 1 to 4, and
its index. -/
structure JoinEcc where
  ecc : Ecc
  kind : Fin 5
  object : Fin 4096
deriving DecidableEq, Repr

/-- A received block or packet as it reaches a kitty (R26–R33, R329–R331). `rtpOk` says that the RTP
header fits the stream's declared format. -/
inductive Packet where
  | brizu (bytes : List Byte)
  | rtp (rtpOk : Bool) (seq : BitVec 16) (ts : Word) (payload : List Byte)
deriving DecidableEq, Repr

/-- One entry of the change queue: the five staged words of R169. -/
structure Change where
  t64 : Nat
  kind : Nat
  a : Nat
  b : Nat
  value : Int
  len : Nat
  law : Bool
deriving DecidableEq, Repr

/-- A record prepared in a staging slot of the state area (R169, R178). -/
inductive Staged where
  | none
  | hpf (bytes : List Byte)
  | limiter (bytes : List Byte)
  | delay (d : Nat)
deriving DecidableEq, Repr

/-- Where an input kitty takes its blocks from. -/
inductive Source where
  | brizu (ports : List Port)
  | rtp (ports : List Port) (offset : Nat) (perPacket : Nat) (delay : Nat)
  | gnogo
  | sap (n : Fin 32) (delay : Nat)
  | aes (i : Fin 8) (delay : Nat)
deriving DecidableEq, Repr

/-- The deal's settings of an input kitty (R27, R32, R37, R38, R42): `hold` is none where the plan names no hold limit, and
`base` is the deck address of its ring of slots (R32, R55, R214); `lining` is the length in blocks of the lining buffer ahead
of it, 0 for none (R209). -/
structure InCfg where
  src : Source
  streamId : Nat
  chans : Nat
  fmt : Nat
  depth : Nat
  d : Nat
  hold : Option Nat
  spec : Bool
  gmac : Bool
  own : Bool
  base : Nat
  lining : Nat
deriving DecidableEq, Repr

/-- Where an output kitty sends its blocks. -/
inductive Sink where
  | brizu (ports : List Port)
  | rtp (ports : List Port) (offset seqOff ssrc ptype perPacket : Nat)
  | gnogo (dst : Nat)
  | sap (n : Fin 32)
  | aes (j : Fin 8)
  | amp (firstChan : Fin 16)
deriving DecidableEq, Repr

/-- The deal's settings of an output kitty (R25, R32, R38, R46, R198, R448): `extNs` is the external latency after the
sink, `comp` its output compensation in samples (R198), `gen` the presentation delay in samples of the generator that
alone feeds it (R23), none where received blocks reach it, and `base` the deck address of its ring of slots. -/
structure OutCfg where
  sink : Sink
  streamId : Nat
  chans : Nat
  fmt : Nat
  depth : Nat
  hold : Option Nat
  extNs : Nat
  comp : Nat
  gen : Option Nat
  base : Nat
  specMask : List Nat
  gmac : Bool
  hashed : Bool
  limited : List Nat
deriving DecidableEq, Repr

/-- One tap of a delay module: channel buffer written, tap control record, remote window or none, and
the hold limit of the tap's sink (R175, R177, R190, R191). -/
structure TapCfg where
  outBuf : Nat
  tap : Nat
  remote : Bool
  hold : Nat
  sinkKitty : Nat
deriving DecidableEq, Repr

/-- One path of a FIR group: channel buffers read and written, number of taps N, path number, the deck addresses of its
coefficient banks, the second none where the path is not steerable, and of its input history (R179, R182, R184, R187). -/
structure FirPath where
  inBuf : Nat
  outBuf : Nat
  taps : Nat
  path : Nat
  bank0 : Nat
  bank1 : Option Nat
  hist : Nat
deriving DecidableEq, Repr

/-- The segments of a FIR group that a task computes (R179, R180): the direct one with the sum, level 1 and level 2. -/
structure FirPart where
  direct : Bool
  level1 : Bool
  level2 : Bool
deriving DecidableEq, Repr

/-- A module instance bound to a task list entry: a library module of R200 or custom code. `maxDelay` is the maximum delay
of the module's line (R173); the phases are the closing ticks of the levels of a FIR group modulo 4 and 16 (R180); levels
are in units of 1/256 dBFS (R192, R193; DEDUCED, log entry 67); `tau` is an averaging time constant in ms, 0 for the linear
average over `frames` (R194). -/
inductive Module where
  | custom
  | delay (inBuf : Nat) (maxDelay : Nat) (taps : List TapCfg) (fractional : Bool)
  | fir (paths : List FirPath) (part : FirPart) (phase1 : Fin 4) (phase2 : Fin 16)
  | noise (outBuf : Nat) (seed : Word) (pink : Bool) (level : Int) (n0 : Nat)
  | sweep (outBuf : Nat) (f1 f2 : Nat) (k : Nat) (level : Int) (start : Nat) (rep : Bool)
  | transfer (refBuf measBuf : Nat) (k : Nat) (frames : Nat) (tau : Nat)
  | library (mtype : Nat) (inBufs outBufs : List Nat)
deriving DecidableEq, Repr

/-- A task of the deal: core, task list entry, module, record it came from, priority (R198, R227),
group cycles and the speculative streams it consumes (R48). -/
structure TaskCfg where
  core : Fin 10
  entry : Fin 32
  module : Module
  recId : Nat
  priority : Nat
  peak : Nat
  streams : List Nat
  outKitties : List Nat
deriving DecidableEq, Repr

/-- A receive stream entry of a port: destination address and port, optional source address, kitty
(R320). -/
structure RxEntry where
  port : Port
  dstIp : Word
  dstPort : Nat
  srcIp : Option Word
  kitty : Nat
deriving DecidableEq, Repr

/-- One engine's share of a deal as PREPARE carries it (R219–R223). `mem` and `shadow` are written when
the share is prepared; `atSwitch` holds the register values a commit writes at the switch tick (R260). -/
structure Share where
  number : Nat
  rate : Fin 6
  blk : Fin 4
  switchAt : Nat
  digest : Word
  mem : List (Nat × List Byte)
  shadow : List (Nat × Word)
  staging : List (Nat × Staged)
  stages : List (Nat × List Change)
  atSwitch : List (Nat × Word)
  inKitties : List (Nat × InCfg)
  outKitties : List (Nat × OutCfg)
  tasks : List TaskCfg
  rx : List RxEntry
  buses : List Nat
  taps : List (Nat × Nat)
  limiters : List Nat
  filters : List Nat
  exports : List (Nat × Nat × Nat)
  carriers : List (Nat × Nat)
  txGroups : List (Fin 8 × Fin 8) := []
deriving DecidableEq, Repr

/-- The register-bus master IDs of R288, R280: crossbar masters 0x00–0x18, the host port 0x3E and the
test access port 0x3F. -/
abbrev Master := BitVec 6

/-- Access sizes of R264. -/
inductive Size where
  | b8 | b16 | b32 | b64
deriving DecidableEq, Repr

/-- One received Ethernet frame, as the MAC sees it (R319–R321). -/
inductive FrameKind where
  | pause
  | ptp
  | udp (src dst : Word) (srcPort dstPort : Nat) (payload : List Byte)
  | arp | icmpEcho | igmpQuery
  | ipv6 | fragment | options | other
deriving DecidableEq, Repr

/-- A frame with the codewords that RS-FEC corrected in it (R345). -/
structure Frame where
  fcsOk : Bool
  fecOk : Bool
  length : Nat
  tag : Option (BitVec 12 × BitVec 3)
  kind : FrameKind
  corrected : Nat := 0
deriving DecidableEq, Repr

/-- A PTP message as the peg core handles it (R335–R337): an Announce with its rank under the profile's
best master clock algorithm (lower is better) and clockClass, or an event exchange that measures θ in
units of 2^−16 ns; `eventOnly` is an event message that completes no measurement. -/
inductive PtpMsg where
  | announce (master rank clockClass : Nat)
  | measure (master : Nat) (theta : Int)
  | eventOnly (master : Nat)
  | delayReq
deriving DecidableEq, Repr

/-- The PTP messages the peg core sends (R335). -/
inductive PtpSend where
  | sync | announce | delayReq
deriving DecidableEq, Repr

/-- A message of an enrolment (R508): certificate, ephemeral key, nonce, signature; `seat` and `key` are
the seat index and table key record of ENROL_FINISH. -/
structure EnrolMsg where
  cert : List Byte
  pub : List Byte
  nonce : List Byte
  sig : List Byte
deriving DecidableEq, Repr

/-- A Gnogo frame's link header as received (R356, R357): `ok` is a good CRC and a well-formed frame. -/
structure Link where
  link : Fin 13
  ok : Bool
  seq : BitVec 16
  ack : BitVec 16
  len : Nat
deriving DecidableEq, Repr

/-- The routing header of a CTRL message (R366) in its frame, with the outcome of its AES-GCM check. -/
structure Ctrl where
  link : Link
  ttl : Nat
  dst : Nat
  src : Nat
  dstRole : Nat
  dstTwin : Nat
  epoch : Word
  keyId : Word
  counter : Nat
  tagOk : Bool
deriving DecidableEq, Repr

/-- A cause record as a CAUSE_SUMMARY brings it (R379): its key, reporters, count, first and last T64, state of the subject. -/
structure Cause where
  subject : Nat
  cls : Nat
  stream : Word
  reporters : Word
  count : Nat
  first : Nat
  last : Nat
  state : Nat
deriving DecidableEq, Repr

/-- A Proed command header and body (R249, R251) as a door presents it. -/
structure Cmd where
  opcode : BitVec 16
  flags : BitVec 16
  seq : BitVec 16
  epoch : Word
  tagLen : Nat
  rsvOk : Bool
  body : List Byte
deriving DecidableEq, Repr

/-- The COMMIT TLV of R251. -/
structure CommitAt where
  t64 : Nat
  law : Bool
  len : Nat
deriving DecidableEq, Repr

/-- One TARGET and PARAM pair (R251, R259): target record, index, parameter ID, value bytes. -/
structure ParamArg where
  recId : Nat
  index : Nat
  paramId : Word
  value : List Byte
deriving DecidableEq, Repr

/-- The RANGE TLV of R251. -/
structure Range where
  first : Nat
  count : Nat
deriving DecidableEq, Repr

/-- The seat list and settings of TABLE_ENROL (R369). -/
structure Enrol where
  tableIdx : Fin 16
  priority : BitVec 8
  seats : List (Nat × List Byte)
deriving DecidableEq, Repr

/-- The identity of a manager in an ANNOUNCE or HOUSE_BEAT (R373). -/
structure HouseId where
  priority : Nat
  engine : Nat
  serial : List Byte
deriving DecidableEq, Repr

/-- The body of a TWIN_BEAT (R447). -/
structure Beat where
  tick : Nat
  deal : Nat
  digest : Word
  active : Bool
  inService : Bool
  selected : Bool
  synced : Bool
  startB : Nat
  hashes : List Word
  concealed : List Bool
deriving DecidableEq, Repr

/-- The body of a TWIN_HEALTH (R447). -/
structure TwinHealth where
  sysState : Word
  cls : Nat
  fenced : BitVec 16
  testSeat : Nat
  lastTest : Word
  tj : BitVec 16
deriving DecidableEq, Repr

/-- One measurement of a reference by the selector (R409–R410): whether a loss condition holds, its
frequency offset in ppb, and its quality source (clockClass, manager quality or AES11 grade). -/
structure RefSample where
  ref : Fin 15
  lost : Bool
  ppb : Int
  grade : Nat
deriving DecidableEq, Repr

/-- The outcome of one BIST item (R518). -/
structure BistItem where
  index : Nat
  result : Fin 5
  misr : BitVec 64
  fails : Nat
  firstInst : Nat
  addr : Word
deriving DecidableEq, Repr

/-- The commands. Each constructor names its row of spec/opcode_table.json in LAWS.json. -/
inductive Instr where
  -- power, reset, boot
  | powerOn
  | resetPin
  | resetRelease (straps : Straps) (pufOk : Bool)
  | sillPowerReset
  | bootReady
  | bootChunk
  -- bridge and emergency controls
  | flitReceive (crcOk : Bool) (flit : Flit)
  | bridgeDown
  | keepAliveFlit
  | sillSafeState
  | sillSafeExit
  | muteNEdge (level : Bool)
  | hostMute (value : Word)
  | ampOffNEdge (level : Bool)
  | ampMasterEn (value : Word)
  -- tick, kitties, speculation, trace
  | blockTick (eccs : List JoinEcc)
  | taskStart (core : Fin 10)
  | joinEntryStart
  | taskBudget (core : Fin 10)
  | blockAdmit (kitty : Fin 4096) (port : Option Port) (frameOk : Bool) (pkt : Packet)
  | streamResync (kitty : Fin 4096)
  | specConfirm (kitty : Fin 4096) (port : Option Port) (n : Nat)
  | specSquash (kitty : Fin 4096) (port : Option Port) (n : Nat) (check : SpecCheck)
  | specExitDeadline
  | kittyRelease (kitty : Fin 4096)
  | streamSilent (kitty : Fin 4096)
  | traceFreeze
  | servoStatusRecord
  -- truss slots
  | trussLoad (core : Fin 10) (m : MemArgs) (ecc : Option Bool)
  | trussStore (core : Fin 10) (m : MemArgs)
  | farLoadReturn (core : Fin 10) (v : BitVec 5) (err : Bool)
  | immBundle (core : Fin 10) (dest : BitVec 6) (imm : Word)
  | mpy (core : Fin 10) (x : EArgs)
  | mac (core : Fin 10) (x : EArgs)
  | msu (core : Fin 10) (x : EArgs)
  | fma (core : Fin 10) (x : EArgs)
  | fmpy (core : Fin 10) (x : EArgs)
  | ext (core : Fin 10) (x : EArgs)
  | ald (core : Fin 10) (x : EArgs)
  | add (core : Fin 10) (x : EArgs)
  | sub (core : Fin 10) (x : EArgs)
  | and (core : Fin 10) (x : EArgs)
  | or (core : Fin 10) (x : EArgs)
  | xor (core : Fin 10) (x : EArgs)
  | abs (core : Fin 10) (x : EArgs)
  | neg (core : Fin 10) (x : EArgs)
  | min (core : Fin 10) (x : EArgs)
  | max (core : Fin 10) (x : EArgs)
  | shl (core : Fin 10) (x : EArgs)
  | shra (core : Fin 10) (x : EArgs)
  | shrl (core : Fin 10) (x : EArgs)
  | cmp (core : Fin 10) (x : EArgs)
  | fadd (core : Fin 10) (x : EArgs)
  | fsub (core : Fin 10) (x : EArgs)
  | fmul (core : Fin 10) (x : EArgs)
  | fmin (core : Fin 10) (x : EArgs)
  | fmax (core : Fin 10) (x : EArgs)
  | cvt (core : Fin 10) (x : EArgs)
  | bexp (core : Fin 10) (x : EArgs)
  | bexpa (core : Fin 10) (x : EArgs)
  | acc (core : Fin 10) (x : EArgs)
  | fma3 (core : Fin 10) (x : EWArgs)
  | macx (core : Fin 10) (x : EWArgs)
  | sel (core : Fin 10) (x : EWArgs)
  | maxi (core : Fin 10) (x : EWArgs)
  | mini (core : Fin 10) (x : EWArgs)
  | shuf (core : Fin 10) (x : EWArgs)
  | red (core : Fin 10) (x : EWArgs)
  | ldi (core : Fin 10) (x : EWArgs)
  | ldih (core : Fin 10) (x : EWArgs)
  | fromp (core : Fin 10) (x : EWArgs)
  | b (core : Fin 10) (cond n : BitVec 4) (target : BitVec 14)
  | loop (core : Fin 10) (src : Bool) (count : BitVec 16) (off : BitVec 8)
  | lexit (core : Fin 10)
  | sleep (core : Fin 10)
  | signal (core : Fin 10) (flag : BitVec 4)
  | softTrap (core : Fin 10)
  | brk (core : Fin 10)
  | qop (core : Fin 10) (qd qa qb : BitVec 2) (fn : BitVec 3) (hi lo : BitVec 5)
  | stw (core : Fin 10) (p : BitVec 4)
  | str (core : Fin 10) (fld : BitVec 2) (p : BitVec 4)
  | stclr (core : Fin 10) (flags : BitVec 6) (bexp : Bool)
  | padd (core : Fin 10) (pd pa : BitVec 4) (imm : BitVec 16)
  -- truss core control
  | trussTrap (core : Fin 10) (cause : BitVec 5)
  | trussStep (core : Fin 10)
  | trussHaltReq (core : Fin 10) (halt : Bool)
  | trussTlSwap (core : Fin 10)
  | bentFreqChangeReq (bent : Fin 2) (code : BitVec 4)
  | bentPllRetune (bent : Fin 2)
  | bentRetuneDone (bent : Fin 2)
  -- Joinery
  | joinSchedSwap
  | changePush
  | scarfEnd
  | meterSnapshot
  -- host port and doors
  | hostRead (addr : BitVec 24) (words : Nat)
  | hostWrite (addr : BitVec 24) (words : List Word) (partialBytes : Fin 4)
  | hostBadOpcode (opcode : Byte)
  | mbxDoorbell
  | netCmdReceive (port : Port) (ip : Word) (udp : Nat) (keyId : Word) (counter : BitVec 64)
      (tagOk : Bool) (cmd : Cmd)
  | netSessionOpen (port : Port) (ip : Word) (udp : Nat) (msg : EnrolMsg)
  | commandComplete
  | mbxTimeout
  -- Proed commands, as the dealer core carries them out
  | sysInfo
  | sysStatus
  | sysReset (scope : Nat)
  | planLoad (offset total : Nat)
  | planCheck
  | planCommit (earliest : Option Nat)
  | planMove (recId : Nat) (engine : Nat) (core : Fin 10)
  | dealRead (r : Range)
  | moduleInfo (mtype mver : Nat)
  | paramSet (p : ParamArg) (at? : Option CommitAt)
  | paramGet (recId index : Nat) (paramId : Word)
  | paramSetMulti (ps : List ParamArg) (at? : Option CommitAt)
  | coefLoad (path : Nat) (bank : Bool) (sets : List (List Word))
  | bankSwap (recId : Nat) (paths : Range) (c : CommitAt)
  | meterSnap (r : Range)
  | meterHold (r : Range)
  | meterClear (r : Range) (what : Word)
  | measRead (recId : Nat) (kind : Nat) (r : Range)
  | timeStatus
  | timeRetime
  | clkStatus
  | streamStatus (r : Range)
  | sinkStatus (r : Range)
  | tableStatus
  | tableEnrol (e : Enrol)
  | twinStatus
  | twinSwitch
  | faultRead
  | faultClear (what : Word)
  | traceRead (r : Range)
  | traceCollect
  | traceRelease
  | traceMark (bytes : List Byte)
  | bistRun (mode : Nat) (mask : Word) (force : Nat)
  | fwUpdate (image : List Byte)
  | certRead
  | debugChallenge
  | debugUnlock (pub : List Byte) (lifetime : Nat) (sig : List Byte)
  | regRead (addr : Word) (count : Nat)
  | regWrite (addr : Word) (words : List Word)
  | ownerKeyProgram (pub : List Byte)
  | netKeySet (keyId : Word) (key : List Byte)
  -- commit messages
  | prepare (share : Share)
  | ready (engine : Nat) (digest : Word)
  | unready (engine : Nat) (reason : Nat)
  | prepareDeadline
  | commit (number : Nat)
  | abort (number : Nat)
  | ack (engine : Nat) (stage : Nat)
  | prepareTimeout
  | stagePush
  | liveRedealWarmEnd
  | testSeatRotate
  -- debug and registers
  | debugRelock
  | debugLifetimeEnd
  | pinmuxWrite (ball : Fin 1444) (value : Word)
  | registerWrite (m : Master) (size : Size) (addr : Word) (value : BitVec 64)
  | regAccessTimeout (m : Master) (addr : Word) (write : Bool)
  -- crossbar
  | xbarBurstRequest (m : Fin 25) (write lock unlock : Bool) (addr : Word) (beats : Nat)
      (data : List Byte)
  | xbarPieceGrant (t : Fin 51)
  | xbarPieceResponse (t : Fin 51) (ecc : Option Bool)
  | lockBreak (t : Fin 51)
  | lockRetry (t : Fin 51) (m : Fin 25)
  | lockWaitExpire (t : Fin 51) (m : Fin 25)
  | masterResetDuringBurst (m : Fin 25)
  | windowTimeout (w : Fin 16) (tag : Nat)
  | winStatClear (w : Fin 16)
  -- DMA
  | dmaChEnable (c : Fin 16) (m : Master) (value : Word)
  | dmaDoorbell (c : Fin 16)
  | dmaDescFetch (c : Fin 16) (err : Bool)
  | dmaDescComplete (c : Fin 16) (outcome : Fin 4) (torn broken : Bool) (ecc : Option Ecc)
  | dmaAbort (c : Fin 16)
  -- network ports
  | netFrameReceive (port : Port) (f : Frame)
  | netLinkDown (port : Port)
  | txEnqueue (port : Port) (q : Fin 8) (launch len : Nat)
  | txFrameStart (port : Port)
  | slotCycleStart (port : Port)
  | slotSwapReq (port : Port)
  | ptpMessage (port : Port) (msg : PtpMsg)
  | ptpAnnounceTimeout (port : Port)
  -- time unit
  | servoMeasurement (ns : Word)
  | servoMeasTimeout
  | servoHold (hold : Bool)
  | servoEnable (en : Bool)
  | retimeStep
  | retimeFlush
  | retimeEnd
  | timerArm (i : Fin 32) (value : Word)
  | eventTimerFire (i : Fin 32)
  | captureEdge (j : Fin 16) (rise : Bool)
  | capturePop (j : Fin 16)
  -- lanes
  | laneStateReq (n : Fin 8) (state : BitVec 2)
  | laneStateDone (n : Fin 8)
  | laneEqSweepDone (n : Fin 8) (errFree : BitVec 16)
  -- Gnogo links
  | gnogoLinkEnable (k : Fin 13) (value : Word)
  | train (l : Link) (engineId : BitVec 16) (linkIdx : Byte) (receivedOk : Bool)
  | trainSend (k : Fin 13)
  | gnogoLinkDown (k : Fin 13)
  | gnogoBlock (l : Link) (dst : Nat) (hops : Nat) (brizu : List Byte)
  | wreq (l : Link) (dst src tag : Nat) (beats : Nat) (off : Nat)
  | wrsp (l : Link) (dst src tag : Nat) (err : Bool) (data : List Byte)
  | credit (l : Link) (vc0 vc1 vc2 : Nat)
  | gnogoCreditSend (k : Fin 13)
  | nak (l : Link) (expected : BitVec 16)
  | gnogoRetransmitTimeout (k : Fin 13)
  | ldm (l : Link) (reply : Bool) (t1 t2 t3 : Nat)
  | ldmRequestSend (k : Fin 13)
  -- control messages, tables, houses
  | topo (c : Ctrl) (links : List (Nat × Nat))
  | topoSend
  | proedCmd (c : Ctrl) (cmd : Cmd)
  | proedRsp (c : Ctrl) (status : BitVec 16) (seq : BitVec 16)
  | staleRole (c : Ctrl) (role twin : Nat) (epoch : Word) (mtype : Nat) (counter : Nat)
  | tableBeatSend
  | tableBeat (c : Ctrl)
  | beatAck (c : Ctrl) (sysState : Word) (deal : Nat) (digest : Word)
  | tableFreeze
  | beatAckTimeout (engine : Nat)
  | healthPoll (c : Ctrl)
  | healthRsp (c : Ctrl)
  | healthPollTimeout (engine : Nat)
  | faultReport (c : Ctrl) (subject cls : Nat) (stream : Word) (count t64 : Nat)
  | reportWindowClose (subject cls : Nat) (stream : Word)
  | causeSummarySend
  | causeSummary (c : Ctrl) (cause : Cause)
  | traceReq (c : Ctrl)
  | traceData (c : Ctrl) (records : List (List Byte))
  | announce (link : Fin 13) (id : HouseId)
  | announceSend
  | houseElectionTimeout
  | houseBeat (link : Fin 13) (id : HouseId)
  | houseBeatSend
  | tableWithdrawEnd
  -- enrolment and keys
  | enrolHello (link : Fin 13) (m : EnrolMsg)
  | enrolReply (link : Fin 13) (m : EnrolMsg)
  | enrolFinish (link : Fin 13) (sig : List Byte) (seat : Nat) (tableIdx : Fin 16)
      (keyId : Word) (key : List Byte)
  | enrolDone (link : Fin 13) (tagOk : Bool)
  | enrolTimeout (link : Fin 13)
  | peerSeen (c : Ctrl) (linkIdx : Nat)
  | imageReq (c : Ctrl)
  | imageData (off : Nat) (bytes : List Byte)
  | gnogoLoadRetry
  | tableKeyRotate
  | tableKeyActivate
  -- SAP, AES3, ASRC
  | sapEnable (n : Fin 32) (value : Word)
  | sapFrame (n : Fin 32) (edge : Nat) (valid : Bool) (slots : List Word)
  | sapClkStop (n : Fin 32)
  | sapRateChange (n : Fin 32) (rate : BitVec 4)
  | sapSlotSwap (n : Fin 32)
  | sapGroupArm (g : Fin 8)
  | sapGroupStart (g : Fin 8)
  | aesRxFrame (i : Fin 8) (edge : Nat) (z : Bool) (par1 par2 v1 v2 c1 c2 u1 u2 : Bool)
      (s1 s2 : BitVec 24)
  | aesRxBlock (i : Fin 8)
  | aesClkStop (i : Fin 8)
  | aesTxFrame (j : Fin 8)
  | aesTxCsSwap (j : Fin 8)
  | asrcEnable (c : Fin 128) (value : Word)
  | asrcLock (c : Fin 128) (ratio : Word)
  | asrcRange (c : Fin 128) (ratio : Word)
  -- references and media clock
  | refMeasure (refs : List RefSample)
  | refLost (r : Fin 15)
  | refWtrExpire (r : Fin 15)
  | refDwellEnd
  | refSwitchComplete (theta : Int)
  | holdoverLimit
  | dpllUnlock
  | clkSelectorEnable (en : Bool)
  | clkOpenLoop (isOpen : Bool)
  | clkForce (en : Bool) (r : BitVec 4)
  -- amplifiers and boost
  | ampChannelEnable (c : Fin 16) (value : Word)
  | ampStart (c : Fin 16)
  | ampOpenLoopHoldEnd (c : Fin 16)
  | ampCloseLoop (c : Fin 16)
  | ampFadeInEnd (c : Fin 16)
  | ampStop (c : Fin 16)
  | ampStopFadeEnd (c : Fin 16)
  | ampGatesOff (c : Fin 16)
  | ampTrip (c : Fin 16)
  | ampDriverFault (c : Fin 16)
  | ampDcTrip (c : Fin 16)
  | ampRetry (c : Fin 16)
  | ampUnlatch (c : Fin 16)
  | boostOvp (g : Fin 4)
  | boostTrack (g : Fin 4)
  | boostThermWarn (g : Fin 4)
  | boostThermTrip (g : Fin 4)
  -- twin
  | twinPeerPin (act health : Bool)
  | healthFall
  | twinClaim
  | twinGateHoldEnd
  | twinBeat (c : Ctrl) (b : Beat)
  | twinBeatTimeout
  | twinTakeover
  | twinHealth (c : Ctrl) (h : TwinHealth)
  | twinHealthSend
  | twinYield (c : Ctrl) (tick cause : Nat)
  | twinSwitchReq (c : Ctrl) (s : Nat)
  | twinSwitchAck (c : Ctrl) (s : Nat)
  | twinSwitchAtTick
  | twinSyncReq (c : Ctrl) (recId off len : Nat)
  | twinSyncData (c : Ctrl) (recId off len : Nat) (data : List Byte) (last : Bool)
  -- faults
  | faultEvent (source : BitVec 8) (code : Byte) (context : BitVec 64)
  | shadowWindowClose (r : Fin 8)
  | quietPeriodEnd (conditionsClear : Bool) (boostOk : BitVec 4)
  | recoveryTestDone (core : Fin 10) (pass : Bool)
  | scrubPeriodEnd (complete : Bool)
  | watchdogExpire (peg : Bool)
  -- adaptive voltage and monitors
  | avsSample (bent : Fin 2) (low high : Bool) (fault : Bool)
  | avsVoutCheck (bent : Fin 2) (mv : Nat) (fault : Bool)
  | bentAvs (bent : Fin 2)
  | monSupply (rail : Fin 14) (mv : Nat)
  | monTj (t16 : Int)
  | ageingMeasure (loss : List Nat)
  | ageingMeasureNow (loss : List Nat)
  -- BIST and test access port
  | bistStart (m : Master) (mode : Bool)
  | bistDone (items : List BistItem) (aborted : Bool)
  | bypass
  | idcode
  | samplePreload (cells : List Bool)
  | extest
  | clamp
  | highz
  | tapBistAccess (write : Bool) (off : BitVec 12) (value : Word)
  | tapEngineReset
  | trstNReset
  -- rows added at the end of the table
  | powerFail
  | sillResetRelease
  | blockLockRegain (n : Fin 8) (fec : Bool)
  | dpllLock
  | boostOvpRelease (g : Fin 4)
  | boostThermClear (g : Fin 4)
  | ptpMessageSend (port : Port) (kind : PtpSend)
  | pairwiseRekey (engine : Nat)
  | prbsSync (n : Fin 8) (gained : Bool) (errs : Nat)
deriving DecidableEq, Repr

end Sys2Proof
end

