-- ==== Sys2Proof/Machine/State.lean ====
section
/-! DEFINITION. The state of the block as plain data: the registers of the register bus as one sparse
file of fields, the memories, the state behind the registers unit by unit, and the queue of waiting
commands; the reasons a step can stop; and the state after reset. -/

namespace Sys2Proof.Machine

/-- Why a command stops the machine. -/
inductive Fault where
  /-- A software write changed a reserved field marked "write back as read", or wrote a field marked
  "written as 0" with another value: R272 gives no behaviour until the block's next reset. Raised by
  the commands that write registers: REGISTER_WRITE, HOST_WRITE, REG_WRITE, XBAR_PIECE_RESPONSE, TRUSS_STORE and TRUSS_STEP.
  Safe: the model stops where the hardware goes on. -/
  | reservedBitsWritten
deriving DecidableEq, Repr

/-- Why the model has no meaning for a command. -/
inductive Refusal where
  /-- The command is not modelled. Raised by the arms of Machine/Dispatch.lean alone. Safe. -/
  | notModelled (mnemonic : String)
deriving DecidableEq, Repr

/-! ### Truss cores (R63, R78, R84–R96) -/

/-- One level of the loop stack: the count left, the first and the last bundle of the body (R78). -/
structure LoopLevel where
  count : Nat
  start : Nat
  stop : Nat
deriving DecidableEq, Repr

/-- A FAR load whose data have not arrived (R73): the V register and, per active lane, the address. -/
structure PendLoad where
  v : Nat
  lanes : List (Nat × Nat)
deriving DecidableEq, Repr

/-- One truss core. V and A are keyed register × 32 + lane; a key that is not listed reads 0. -/
structure Truss where
  v : Tab Word := []
  a : Tab Acc := []
  p : Tab Word := []
  m : Tab Word := []
  l : Tab Word := []
  q : Tab Word := []
  loops : List LoopLevel := []
  st : Word := 0x0000FF00
  pc : Nat := 0
  /-- index of the entry running, if one runs -/
  entry : Option Nat := none
  /-- due entries of the epoch that have not started, in index order -/
  due : List Nat := []
  /-- entries of the epoch that have ended -/
  ended : List Nat := []
  /-- core cycles used by the running task (R88) -/
  cycles : Nat := 0
  /-- the last 16 runs of each entry in core cycles (R89) -/
  runs : Tab (List Nat) := []
  /-- tick indices of the last TASK_BUDGET stops (R97) -/
  budgetTicks : List Nat := []
  /-- halted by BRK or halt_req -/
  halted : Bool := false
  /-- stopped by a trap -/
  trapped : Bool := false
  /-- power-gated: its lane stores are lost and unreachable (R491, R17) -/
  gated : Bool := false
  pend : List PendLoad := []
  /-- addresses at which FAR accesses of the running or last task ended in FAR_ERR (R73, R191) -/
  farErrs : List Nat := []
  /-- entries whose R49 restore waits for the end of the epoch's last task (R96) -/
  restores : List Nat := []
  /-- entries to re-run in the replay in progress (R95) -/
  replay : List Nat := []
  /-- affected entries whose restore and re-run wait for the end of an unaffected task that runs (R95) -/
  redo : List Nat := []
deriving DecidableEq, Repr

/-- A bent rail: the commanded voltage in mV above 500, failed transactions in a row, whether the loop has stopped
lowering it, the samples in a row above the high threshold, since when it has stood at 0.75 V without margin,
T64 of the last sample (R488–R490), a raise waiting for its margin, and the end of a retune in progress (R91). -/
structure Rail where
  vdd : Nat := 250
  fails : Nat := 0
  stuck : Bool := false
  high : Nat := 0
  noMargin : Option Nat := none
  sampled : Option Nat := none
  raising : Bool := false
  retune : Option Nat := none
deriving DecidableEq, Repr

/-! ### The trace ring (R54–R60) -/

structure TraceRec where
  t64 : Nat
  engineId : Nat
  type : Nat
  rflags : Nat
  rseq : Nat
  payload : List Byte
deriving DecidableEq, Repr

/-- The trace ring (R54): its records and the fields of its header. The manual gives it no address in the deck: the
ring is a structure of its own and no deck address reads it (DESIGN CHOICE, log entry 54). -/
structure Ring where
  recs : Tab TraceRec := []
  writeIdx : Nat := 0
  wrapCnt : Nat := 0
  freezeT64 : Nat := 0
  postFreeze : Nat := 0xFFFF
  rseq : Nat := 0
  /-- the post-freeze count of the next arming (R60) -/
  postCount : Nat := 1024
  /-- rings gathered from other engines by TRACE_COLLECT (R61) -/
  gathered : List TraceRec := []
  /-- engines whose ring a merge still waits for, and the house manager that asked for it (R62) -/
  awaited : List Nat := []
  askedBy : Option Nat := none
deriving DecidableEq, Repr

/-! ### The fault unit (R460–R483) -/

structure FaultEvent where
  source : Nat
  code : Nat
  context : Nat
  t64 : Nat
  /-- the stream it concerns, 0xFFFFFFFF for none (R376) -/
  stream : Nat := 0xFFFFFFFF
deriving DecidableEq, Repr

/-- An open shadow window (R469): reaction type, subject, causing entry, opening and closing T64. -/
structure Shadow where
  reaction : Nat
  subject : Nat
  cause : Nat
  opened : Nat
  closes : Nat
deriving DecidableEq, Repr

structure FaultUnit where
  queue : List FaultEvent := []
  shadows : List Shadow := []
  /-- end of the quiet period, while it runs (R477) -/
  quietEnd : Option Nat := none
  /-- SEVERE sources whose reaction put the engine in safe state (R478) -/
  severe : List Nat := []
  /-- T64 of the exits of the last 60 minutes (R479) -/
  exits : List Nat := []
  /-- cores whose exit self-test runs (R478) -/
  testing : List Nat := []
  /-- blocks the dealer is restarting: Gnogo links held DOWN until the T64 (reaction 4) -/
  holds : Tab Nat := []
  /-- network sinks stopped under R467 -/
  netStop : Bool := false
  /-- engine safe state mutes every sink (R466) -/
  safe : Bool := false
  /-- MON_TJ codes 0x01 and 0x02 raised, until the temperature has fallen 5 °C below (R547) -/
  tjWarn : Bool := false
  tjCrit : Bool := false
deriving DecidableEq, Repr

/-! ### Kitties (R32–R52, R552) -/

/-- Speculative state of a block (R43). -/
inductive Spec where
  | native | tentative | confirmed | squashed
deriving DecidableEq, Repr

/-- The other path's copy of a speculative block (R50): its samples, its port, the first check that it is known to
fail, whether its checks have passed, its sequence number, its authenticated bytes and its group tag. -/
structure Alt where
  samples : Block
  port : Option Port := none
  fail : Option SpecCheck := none
  confirmed : Bool := false
  seq : Nat := 0
  auth : List Byte := []
  tag : Option (List Byte) := none
deriving DecidableEq, Repr

/-- A block in a slot: its media sample index N(P), P, its samples, the port that filled it with T64 of its admission
(R35), its speculative state, the first check of orders 1 and 3–5 that it is known to fail (R43), the other path's copy
(R50), its sequence number, authenticated bytes and group tag (R30), and whether it was concealed. -/
structure Slot where
  n : Nat
  p : Nat
  samples : Block
  port : Option Port := none
  admitted : Nat := 0
  spec : Spec := .native
  fail : Option SpecCheck := none
  alt : Option Alt := none
  seq : Nat := 0
  auth : List Byte := []
  tag : Option (List Byte) := none
  concealed : Bool := false
  /-- the samples present, bit i for sample i (R331) -/
  filled : Nat := 0
deriving DecidableEq, Repr

/-- Concealment position of a kitty (R37, R39): the last sample delivered on each channel, the sample held,
the consecutive missing blocks, the samples sent since blocks returned (64: ramp over), the cause. -/
structure Conceal where
  last : List Int := []
  held : List Int := []
  run : Nat := 0
  ret : Nat := 64
  cause : Nat := 0
deriving DecidableEq, Repr

structure InKitty where
  cfg : InCfg
  slots : Tab Slot := []
  /-- N(P0), when the stream runs (R32) -/
  n0 : Option Nat := none
  lastN : Nat := 0
  lastSeq : Nat := 0
  awaiting : Bool := true
  /-- the first block admitted since the kitty began to await, until it is consumed (R552) -/
  firstN : Option Nat := none
  /-- the kitty resynchronises on the next block that passes checks 1–3 (R36) -/
  resync : Bool := false
  /-- consecutive blocks that fail the sequence or window check (R36) -/
  bad : Nat := 0
  conceal : Conceal := {}
  /-- the concealment position before this epoch, for a replay or a concealed squash (R48, R49) -/
  before : Conceal := {}
  /-- samples delivered in this epoch, and whether they were concealed or tentative -/
  cur : Block := []
  curConcealed : Bool := false
  authFail : Bool := false
  skipRun : Nat := 0
  /-- block_seq and authenticated bytes of the admitted blocks of the open GMAC groups (R30) -/
  auths : List (Nat × List Byte) := []
  /-- block_seq[31:3] of the group decided last (R30, R31) -/
  closed : Option Nat := none
  /-- blocks in the lining buffer ahead of the kitty, oldest first, each with its frame check and port (R209) -/
  lining : List (Bool × Option Port × Packet) := []
  /-- blocks of a port in the lining buffer, oldest first -/
  lined : List Slot := []
  /-- multiples of 16 concealed blocks already reported (R376) -/
  silent : Nat := 0
  /-- media sample indices whose block a check discarded, with the code of R58 -/
  causes : List (Nat × Nat) := []
  /-- concealment onset was recorded and has not ended -/
  onset : Bool := false
  cnt : Tab Nat := []
deriving DecidableEq, Repr

/-- A block of an output kitty: `cause` is what conceals it when not 0 (a code of R58, or 42 and 43 for code 4 by R49 or
R96 and by R47), `epoch` the media sample index of the tick of its epoch. -/
structure OutSlot where
  n : Nat
  p : Nat
  samples : Block
  concealed : Bool := false
  cause : Nat := 0
  epoch : Nat := 0
deriving DecidableEq, Repr

/-- Mute of a sink (R240): muting, its end waits for the next tick, samples sent since mute came into
force, and the samples of the return ramp (64: over). -/
structure MuteSt where
  muting : Bool := false
  ending : Bool := false
  pos : Nat := 0
  ret : Nat := 64
deriving DecidableEq, Repr

structure OutKitty where
  cfg : OutCfg
  slots : Tab OutSlot := []
  /-- N(P0): the first block written since the kitty began to await (R32) -/
  n0 : Option Nat := none
  awaiting : Bool := true
  conceal : Conceal := {}
  mute : MuteSt := {}
  seq : Nat := 0
  /-- headers and payloads of the present GMAC group (R30) -/
  groupBytes : List Byte := []
  onset : Bool := false
  /-- N(P) of the last block released, and the samples sent -/
  lastN : Option Nat := none
  sent : Block := []
  sentConcealed : Bool := false
  /-- packets or blocks built at the last release, with their launch T64 (R332) -/
  pkts : List (Nat × List Byte) := []
  /-- samples released that no RTP packet has carried yet, by channel, with the index of the first (R330–R332) -/
  rest : Block := []
  restN : Nat := 0
  started : Bool := false
  cnt : Tab Nat := []
deriving DecidableEq, Repr

/-- The epoch in progress: T64 and media sample index of its tick, the index of the tick, P of its
consumed blocks and whether a block that was present gave it (R24), the ledger of kitties with TENTATIVE blocks (R46),
whether a consumed block was concealed, and the squashed kitties with the way each is handled (true: replay). -/
structure Epoch where
  tick : Nat := 0
  t : Nat := 0
  n : Nat := 0
  p : Option Nat := none
  pExact : Bool := false
  ledger : List Nat := []
  concealed : Bool := false
  squashed : List (Nat × Bool) := []
  /-- code of R58 that the ended speculation of the epoch carries, 0 while it is open or clean -/
  outcome : Nat := 0
  resolved : Bool := true
  /-- its exit deadline has passed (R47) -/
  closed : Bool := false
  /-- an epoch has begun since reset -/
  live : Bool := false
  /-- output kitties whose producing task was stopped, fenced or restarted in the epoch, with the code of R58 -/
  lost : List (Nat × Nat) := []
deriving DecidableEq, Repr

/-! ### The Joinery (R134–R171) -/

/-- One direct form I section with error feedback (R147). -/
structure Biquad where
  x1 : Int := 0
  x2 : Int := 0
  y1 : Int := 0
  y2 : Int := 0
  e : Int := 0
deriving DecidableEq, Repr

/-- A high-pass filter: two sections (R146). -/
structure HpfSt where
  s1 : Biquad := {}
  s2 : Biquad := {}
deriving DecidableEq, Repr

/-- A DC blocker: the 64-bit state and the previous input (R148). -/
structure DcbSt where
  y : Int := 0
  x : Int := 0
deriving DecidableEq, Repr

/-- One remembered input sample of a limiter with its r and h (R555). -/
structure LimHist where
  x : Int
  r : Nat
  h : Nat
deriving DecidableEq, Repr

/-- A limiter (R156): the last 65 inputs newest first, the gain, the hold counter. -/
structure LimSt where
  hist : List LimHist := []
  g : Nat := 16777216
  hold : Nat := 0
  dcb : DcbSt := {}
deriving DecidableEq, Repr

/-- The records of a limiter (R159, R155): lowest gain since the last clear with its T64, and the
lowest gain of the snapshot interval. -/
structure GrSt where
  low : Nat := 16777216
  t64 : Nat := 0
  interval : Nat := 16777216
deriving DecidableEq, Repr

/-- A meter point (R149–R153): peak and true peak in 2^−32 H32 units, mean square in 2^−18 units, clip counter, peak hold with its T64,
clip in the interval, and the last 16 inputs. -/
structure MeterSt where
  p : Nat := 0
  tp : Nat := 0
  ms : Nat := 0
  clip : Nat := 0
  hold : Nat := 0
  holdT64 : Nat := 0
  clipped : Bool := false
  hist : List Int := []
deriving DecidableEq, Repr

/-- A queued change with the order of its push and whether its tick had started (R161). -/
structure Queued where
  c : Change
  order : Nat
deriving DecidableEq, Repr

/-- A running gain ramp (R164): from g0 to g1, the weights it follows (0 new path of the law, 1 old path,
2 equal gain), start index, length, law, and removal at its end. -/
structure Ramp where
  g0 : Int
  g1 : Int
  kind : Nat
  start : Nat
  len : Nat
  law : Bool
  removal : Bool
deriving DecidableEq, Repr

/-- A running record change of a filter or limiter (R164, R555): the old record and state, start, law. -/
structure RecScarf where
  old : List Byte
  start : Nat
  len : Nat
  law : Bool
deriving DecidableEq, Repr

/-- The Joinery state that a replay restores (R160), with the meters it must not. -/
structure JoinDsp where
  hpf : Tab HpfSt := []
  hpfOld : Tab HpfSt := []
  dcb : Tab DcbSt := []
  lim : Tab LimSt := []
  limOld : Tab LimSt := []
  /-- rail models: V_c of each boost group in 2^−16 V, and the demands that each limiter has entered: group and output
  index, in 2^−16 V (R432) -/
  rail : Tab Nat := []
  demands : Tab (List (Nat × Nat)) := []
deriving DecidableEq, Repr

/-- Objects of the Joinery that a stream reaches: destinations, buses, limiters and meter points (R160). -/
structure Reach where
  dsts : List Nat := []
  buses : List Nat := []
  lims : List Nat := []
  points : List Nat := []
deriving DecidableEq, Repr

structure Join where
  queue : List Queued := []
  order : Nat := 0
  /-- ramps keyed by table × 2^20 + place: 0 crosspoints, 1 sends, 2 bus gains -/
  ramps : Tab Ramp := []
  hpfScarf : Tab RecScarf := []
  limScarf : Tab RecScarf := []
  staging : Tab Staged := []
  /-- tap index → deck address of its control record (R177) -/
  tapRec : Tab Nat := []
  dsp : JoinDsp := {}
  /-- the snapshot taken at block start, with the ramp positions (R160). The manual gives the area at JOIN_TBL_BASE[7] no
  layout: the snapshot is a structure of its own and no deck address reads it (DESIGN CHOICE, log entry 57). -/
  snap : JoinDsp := {}
  snapRamps : Tab Ramp := []
  gr : Tab GrSt := []
  meters : Tab MeterSt := []
  /-- the shadow accumulation of the epoch (R46): samples of its meter points, lowest g of its limiters -/
  epochMeters : List (Nat × List Int) := []
  epochGr : List (Nat × Nat) := []
  /-- values of the endpoints and limiters of the epoch -/
  srcVal : Tab (List Int) := []
  dstVal : Tab (List Int) := []
  limIn : Tab (List Int) := []
  limOut : Tab (List Int) := []
  busVal : Tab (List Int) := []
  asrcIn : Tab (List Int) := []
  /-- entries of the epoch that have not completed -/
  todo : List Nat := []
  /-- entries that had completed before a replay, and the objects that the replay runs again (R160) -/
  again : List Nat := []
  redo : Reach := {}
  /-- objects whose signals of this epoch were concealed under R49: the shadow accumulates no more of them (R46) -/
  dead : Reach := {}
  /-- objects whose reads of this epoch found a double-bit error: their outputs are not written (R480) -/
  failed : Reach := {}
  /-- destinations that a ROUTE object of this epoch has written: their ASRC channels take the block (R136) -/
  routed : List Nat := []
  /-- tick indices of the last overruns (R136) -/
  overruns : List Nat := []
  /-- epochs covered by the snapshot in progress, epochs since snap_en, concealment seen -/
  covered : Nat := 0
  covConcealed : Bool := false
  lastResolved : Nat := 0
  /-- snap_en was 1 at the last tick -/
  snapSince : Bool := false
  /-- a snapshot's bytes, gathered when its last epoch resolved and not yet written (R154) -/
  snapReady : Option (Nat × List Byte) := none
  /-- targets of each boost group for the epoch's samples (R432) -/
  targets : Tab (List Nat) := []
  /-- therm_warn of each group as of the last tick (R432) -/
  warm : List Nat := []
  /-- bus headroom codes in force since the last tick (R170) -/
  head : Tab Nat := []
  /-- multiplies of the epoch in progress (R140, R167) -/
  mults : Nat := 0
  /-- clears of the meters that wait for the next tick (R153): meter point and what -/
  clears : List (Nat × Nat) := []
deriving DecidableEq, Repr

/-! ### Library modules (R172–R200) -/

/-- A complex number of two binary32 parts. -/
structure Cx where
  re : Word
  im : Word
deriving DecidableEq, Repr

/-- The outputs of one closed frame of a FIR level: bank, level, first media sample index, words. -/
structure FirOut where
  bank : Bool
  level : Nat
  start : Nat
  y : List Word
deriving DecidableEq, Repr

/-- The accumulators of a FIR level: bank, level, the tick parity of a speculative group's set (R184), and the bins. -/
structure FirAcc where
  bank : Bool
  level : Nat
  parity : Nat
  bins : List Cx
deriving DecidableEq, Repr

/-- A bank swap of a FIR path: the T64 from which it takes effect, and its scarf (R188). -/
structure FirSwap where
  t64 : Nat
  len : Nat
  law : Bool
deriving DecidableEq, Repr

/-- A FIR path (R179–R189): its active bank, the newest input samples, newest first, with the media sample index after the
newest, the accumulators and outputs of its levels, a bank swap that waits, and the start and scarf of the one that runs.
Coefficients and spectra stand in the deck (R184); the working buffers, for which the manual gives no layout in X and Y, are
these fields (DESIGN CHOICE, log entry 67). -/
structure FirSt where
  active : Bool := false
  hist : List Word := []
  histEnd : Nat := 0
  outs : List FirOut := []
  accs : List FirAcc := []
  swap : Option FirSwap := none
  running : Option (Nat × FirSwap) := none
deriving DecidableEq, Repr

/-- One bin of the spectra of a transfer measurement: the auto spectra of the reference and the measured channel and the
cross spectrum, each in units of 2^−32 (R194). -/
structure XferBin where
  xx : Int
  yy : Int
  re : Int
  im : Int
deriving DecidableEq, Repr

/-- A dual-FFT transfer measurement (R194, R195): the samples of the frame in progress, those of the epoch
in progress, whether the frame must be dropped, the frames averaged and dropped, and the spectra, newest first: those of the
frames of a linear average, or the one average of an exponential. -/
structure XferSt where
  ref : List Int := []
  meas : List Int := []
  pendRef : List Int := []
  pendMeas : List Int := []
  bad : Bool := false
  frames : Nat := 0
  dropped : Nat := 0
  spectra : List (List XferBin) := []
  t64 : Nat := 0
deriving DecidableEq, Repr

/-- The concealment of a remote tap: as it stands, and as it stood before the epoch whose tick index is `epoch`, from which a
replay of that epoch starts again; `counted` says that the epoch's CONCEAL has been counted (R191). -/
structure TapConceal where
  now : Conceal := {}
  before : Conceal := {}
  epoch : Option Nat := none
  counted : Bool := false
deriving DecidableEq, Repr

/-- State of the library modules: FIR paths by path number, noise generators by core × 32 + entry (LFSR
state and index reached), transfer measurements, remote tap concealment by tap, and module state words
that only the module's own law reads. -/
structure Mods where
  fir : Tab FirSt := []
  noise : Tab Nat := []
  xfer : Tab XferSt := []
  tapConceal : Tab TapConceal := []
  gen : Tab Nat := []
deriving DecidableEq, Repr

/-! ### The deal -/

/-- The place of one group of a module (R210): its record and number, its engine, core and tick phase. -/
structure GroupPlace where
  recId : Nat
  group : Nat
  engine : Nat
  core : Nat
  phase : Nat
deriving DecidableEq, Repr

/-- The depth of a kitty in slots, the blocks of its lining buffer, and its deck address (R209, R214): its record. -/
structure KittyPlan where
  recId : Nat
  depth : Nat
  lining : Nat
  base : Nat
deriving DecidableEq, Repr

/-- A deal as the manager's placer lays it out (R204–R215): the engine of each module and bus, the presentation delay of each
source in samples, the kitties, the groups, the bents' frequency code of each engine, the sync level of each module, and the
windows: the module that reads through it, the engine read, and its number. -/
structure Placement where
  engines : List (Nat × Nat) := []
  deltas : List (Nat × Nat) := []
  kitties : List KittyPlan := []
  places : List GroupPlace := []
  freqs : List (Nat × Nat) := []
  levels : List (Nat × Nat) := []
  windows : List (Nat × Nat × Nat) := []
deriving DecidableEq, Repr

/-- A commit at the manager (R219–R223): the deal's number, its switch T64, the engines of the table, those that
have answered READY, whether COMMIT was sent, the stages acknowledged (engine, stage), the engines that did not
switch, the switch T64 of every stage, and the plan and its placement. -/
structure MgrCommit where
  number : Nat
  switchAt : Nat
  engines : List Nat
  ready : List Nat := []
  committed : Bool := false
  acks : List (Nat × Nat) := []
  missed : List Nat := []
  stages : List Nat := []
  plan : List Byte := []
  placed : Placement := {}
deriving DecidableEq, Repr

/-- A live re-deal in progress (R224): its module, its old and new core, its target engine when that is another,
the T64 from which the new site runs, the end of its warm-up once known, and the scarf that follows. -/
structure MoveSt where
  recId : Nat
  src : Nat
  dst : Nat
  engine : Option Nat := none
  t0 : Nat
  warm : Nat
  scarfEnd : Option Nat := none
deriving DecidableEq, Repr

/-- A task of a fenced core that waits for its restart (R227): the task, its new core and entry, none while it fits
nowhere, and the media sample index of its restart tick. -/
structure Restart where
  task : TaskCfg
  place : Option (Nat × Nat)
  tick : Nat
deriving DecidableEq, Repr

/-- The deal in force: whether a deal runs and since when, deal number, digest, rate and block size codes (R20, R27; before
any deal the grid is that of 96 kHz and 8 samples, for which the spec gives no reset value: DESIGN CHOICE, log entry 5), the
share in force and the share prepared and not yet switched with whether COMMIT has come, what of it is in force, the stages
not yet applied by switch T64 with the number of the first of them and whether it was pushed, the manager's commit, live
re-deals and restarts, the test seat with the last rotation and its test result (R217, R523), whether a rotating test runs
and the cores whose quick test a re-deal stopped (R521), the plan staging area, and the plan committed last with its
placement. -/
structure Deal where
  running : Bool := false
  since : Nat := 0
  number : Nat := 0
  digest : Word := 0
  rate : Fin 6 := 3
  blk : Fin 4 := 1
  cur : Option Share := none
  prepared : Option Share := none
  committed : Bool := false
  tasks : List TaskCfg := []
  buses : List Nat := []
  taps : List Nat := []
  limiters : List Nat := []
  filters : List Nat := []
  stagesLeft : List (Nat × List Change) := []
  stageNo : Nat := 0
  stagePushed : Bool := false
  mgr : Option MgrCommit := none
  moves : List MoveSt := []
  restarts : List Restart := []
  seat : Option Nat := none
  lastRot : Nat := 0
  lastTest : Nat := 0
  rotTest : Bool := false
  stopped : List Nat := []
  plan : List (Nat × List Byte) := []
  planBytes : List Byte := []
  placed : Placement := {}
deriving DecidableEq, Repr

/-! ### Pins -/

/-- Levels of the input pins that the spec samples, and of the twin outputs. -/
structure Pins where
  resetN : Bool := true
  muteN : Bool := true
  ampOffN : Bool := true
  peerAct : Bool := false
  peerHealth : Bool := false
  twinAct : Bool := false
  health : Bool := false
  bootMode : Nat := 0
  pmbAvs : Bool := false
  twinSeat : Bool := false
deriving DecidableEq, Repr

/-! ### Crossbar (R288–R307) -/

/-- A piece of a burst at an arbiter: its bytes (for a write) or its length, T64 of its first attempt, the
decisions it lost, its place among the guarded, the refusals of its lock request, the origin of its channel (R550), and the T64
at which it reached its arbiter. -/
structure Piece where
  master : Nat
  write : Bool
  lock : Bool
  unlock : Bool
  addr : Nat
  len : Nat
  data : List Byte
  first : Nat := 0
  lost : Nat := 0
  guarded : Option Nat := none
  tries : Nat := 0
  dealer : Bool := false
  arrived : Nat := 0
deriving DecidableEq, Repr

/-- An arbiter: waiting pieces in order of arrival, lock requests in back-off, the piece granted, the lock
with its pieces, its locking address and T64, the masters whose sequences were broken and have not ended, the reservation, and whether
the grant is parked. -/
structure Arb where
  queue : List Piece := []
  refused : List Piece := []
  inFlight : Option Piece := none
  last : Nat := 0
  idle : Bool := true
  owner : Option Nat := none
  lockAddr : Nat := 0
  lockedAt : Nat := 0
  count : Nat := 0
  broken : List Nat := []
  resv : Option Nat := none
  guards : Nat := 0
deriving DecidableEq, Repr

/-- A master's bursts: the pieces not yet requested, the data received, the attributes of the responses of
R306 so far, and whether the last burst has ended. -/
structure BurstSt where
  rest : List Piece := []
  data : List Byte := []
  attr : Nat := 0
  done : Bool := true
deriving DecidableEq, Repr

/-- A remote piece on its way: its window, the piece, and when it was sent (R295, R296). -/
structure RemoteRd where
  window : Nat
  piece : Piece
  sent : Nat
deriving DecidableEq, Repr

structure Xbar where
  arbs : Tab Arb := []
  bursts : Tab BurstSt := []
  remote : Tab RemoteRd := []
  nextTag : Nat := 0
  /-- the T64 of each DMA channel's last event, and whether it was a trigger (R313) -/
  dmaAt : Tab (Nat × Bool) := []
deriving DecidableEq, Repr

/-! ### What has left the engine -/

/-- A message that the engine has sent: a control message by destination and type (R366), a Gnogo frame on a
link by type (R356), a packet of a network port, a flit toward the sill die, or a frame of a port. -/
inductive Sent where
  | ctrl (dst mtype : Nat) (body : List Byte)
  | link (k ftype : Nat) (body : List Byte)
  | net (port : Port) (kind : Nat) (body : List Byte)
  | flit (kind : Nat) (body : List Byte)
deriving DecidableEq, Repr

/-! ### Time and network ports (R318–R345, R551) -/

/-- The time unit behind its registers: the servo's frequency and rate in units of 2^−40, the consecutive
measurements within and beyond the lock thresholds, the LOCKED history as (rate, ns) newest first, the
T64 from which the present rate is in force, T64 and |θ| in ns of the measurements of the last second (R59), T64 of the
last measurement, the latest and the refused θ in 2^−16 ns, the phase of a re-time with its first tick, the T64 of its
flush and of its end (R341), the next firing of each timer,
the end of each pin pulse, the stamps of each capture input (ns × 65,536 + fraction, rising), the
dealer core's interrupt lines (timer i: i; capture j: 64 + j), and the code of the PTP profile (R335; 0 at reset, for which the
spec gives no value: DESIGN CHOICE, log entry 40). -/
structure TimeSt where
  freq : Int := 0
  rate : Int := 0
  inCnt : Nat := 0
  outCnt : Nat := 0
  hist : List (Int × Nat) := []
  since : Nat := 0
  peaks : List (Nat × Nat) := []
  lastMeas : Nat := 0
  theta : Int := 0
  refused : Int := 0
  retPhase : Nat := 0
  retTick : Nat := 0
  retFlush : Nat := 0
  retEnd : Nat := 0
  next : Tab Nat := []
  pulse : Tab Nat := []
  capt : Tab (List (Nat × Bool)) := []
  irq : List Nat := []
  profile : Nat := 0
deriving DecidableEq, Repr

/-- A frame in a transmit queue: its launch T64, 0 for none, its length in bytes (R324), and the UDP payload of a stream
packet (R332). -/
structure TxFrame where
  launch : Nat
  len : Nat
  body : List Byte := []
deriving DecidableEq, Repr

/-- A receive or transmit descriptor: T80 of the frame's arrival or departure, its length in bytes, and the VID and PCP of
the tag removed on receipt (R53, R320). -/
structure FrameDesc where
  stamp : Nat
  len : Nat
  tag : Option (Nat × Nat) := none
deriving DecidableEq, Repr

/-- A network port behind its registers: its transmit queues, the frames sent to each destination of R320
(by order), the frames passed to the peg core in the second in progress, the stamp of the last PTP event
message, the best master heard (master, rank, clockClass), and the start of the last slot cycle. -/
structure MacSt where
  queues : Tab (List TxFrame) := []
  dest : Tab Nat := []
  pegSec : Nat := 0
  pegCnt : Nat := 0
  stamp : Nat := 0
  master : Option (Nat × Nat × Nat) := none
  cycle : Nat := 0
  /-- receive and transmit descriptors, newest first (R53) -/
  rxDesc : List FrameDesc := []
  txDesc : List FrameDesc := []
deriving DecidableEq, Repr

/-! ### Gnogo links (R355–R364) -/

/-- A sequenced frame at the sender: virtual channel, class, body, seq, the times it was sent and when last. -/
structure GnFrame where
  vc : Nat
  cls : Nat
  body : List Byte
  seq : Nat := 0
  tries : Nat := 0
  sentAt : Nat := 0
deriving DecidableEq, Repr

/-- A link: sequence numbers, credits held and owed by virtual channel, frames waiting and in the replay
buffer, the seq from which a retransmission goes on, the last NAK (seq and time), consecutive valid TRAIN frames and those
with received_ok, the last delays measured in 2^−16 ns, and the last unsequenced datagram of a tunnel with the port that
brought it. -/
structure LinkSt where
  txSeq : Nat := 0
  rxSeq : Nat := 0
  credits : List Nat := [256, 1024, 512]
  owed : List Nat := [0, 0, 0]
  waiting : List GnFrame := []
  replay : List GnFrame := []
  resend : Option Nat := none
  nak : Option (Nat × Nat) := none
  trainRun : Nat := 0
  okRun : Nat := 0
  delays : List Int := []
  lastRx : Nat := 0
  plain : Option (Nat × List Byte) := none
  /-- receive and transmit descriptors, newest first (R53) -/
  rxDesc : List FrameDesc := []
  txDesc : List FrameDesc := []
deriving DecidableEq, Repr

/-- A lane behind its registers: the target of a state change in progress, and whether the equaliser sweep of
this bring-up is done. -/
structure LaneSt where
  target : Nat := 2
  eqDone : Bool := false
deriving DecidableEq, Repr

/-! ### Tables and houses (R366–R379, R508, R509) -/

/-- An engine of the table as its manager sees it: serial, state (0 healthy, 1 suspect, 2 lost), unanswered
polls, when the next poll is due, and its last BEAT_ACK. -/
structure Member where
  engine : Nat
  serial : List Byte
  state : Nat := 0
  polls : Nat := 0
  beatAt : Option Nat := none
  pollAt : Nat := 0
  pollDue : Option Nat := none
  sysState : Nat := 0
  deal : Nat := 0
  digest : Word := 0
deriving DecidableEq, Repr

/-- A cause record (R379), with its creation time and whether its summary was sent. -/
structure CauseRec where
  subject : Nat
  cls : Nat
  stream : Nat
  reporters : Nat
  count : Nat
  first : Nat
  last : Nat
  state : Nat := 0
  made : Nat := 0
  told : Bool := false
deriving DecidableEq, Repr

/-- A report window of R377. -/
structure RptWindow where
  subject : Nat
  cls : Nat
  stream : Nat
  count : Nat
  opened : Nat
deriving DecidableEq, Repr

/-- A key: its key_id, bytes and activation T64 (R509). -/
structure KeyRec where
  keyId : Nat
  key : List Byte
  active : Nat := 0
deriving DecidableEq, Repr

/-- An enrolment in progress: its link, the relay with its link index, the messages so far, its stage
(1 HELLO sent, 2 REPLY sent, 3 FINISH sent), the seat and peer serial, the nonces, and its start. -/
structure EnrolSt where
  link : Nat
  relay : Option (Nat × Nat) := none
  stage : Nat := 1
  transcript : List Byte := []
  peer : List Byte := []
  eph : Nat := 0
  pair : List Byte := []
  seat : Nat := 0
  serial : List Byte := []
  salt : List Byte := []
  started : Nat := 0
deriving DecidableEq, Repr

/-- The engine's place in a table and a house. -/
structure TableSt where
  epoch : Nat := 0
  index : Nat := 0
  priority : Nat := 255
  seats : List (Nat × List Byte) := []
  members : List Member := []
  topo : Tab (List (Nat × Nat)) := []
  routes : Tab Nat := []
  lastBeat : Nat := 0
  causes : List CauseRec := []
  unrecorded : Nat := 0
  windows : List RptWindow := []
  /-- the token bucket in ns of credit: a report costs 5,000,000, the depth is 100,000,000 (R378) -/
  bucket : Nat := 100000000
  bucketAt : Nat := 0
  dropped : Nat := 0
  house : Option HouseId := none
  houseBeat : Nat := 0
  higherAt : Nat := 0
  other : Option HouseId := none
  barred : List Nat := []
  withdrawn : Bool := false
  otherAt : Nat := 0
  keys : List KeyRec := []
  nextKey : Option KeyRec := none
  pairs : Tab KeyRec := []
  counters : List ((Nat × Nat) × Nat) := []
  sendCtr : Nat := 0
  staleAt : Tab Nat := []
  staleSeen : List (Nat × Nat × Nat × Nat) := []
  enrols : List EnrolSt := []
  relayLink : Option Nat := none
  summaries : List CauseRec := []
  responses : List (Nat × Nat × Nat) := []
deriving DecidableEq, Repr

/-! ### Audio ports (R382–R403) -/

/-- The sample positions of a port (R388–R393): the last position, the last sample of each slot, consecutive
repeats, samples since the end of a hold (64: ramp over), consecutive valid frames, the index it starts at,
the samples waiting for output by position with their concealed flag, and the words last driven. -/
structure PortSt where
  pos : Option Nat := none
  last : List Int := []
  held : List Int := []
  run : Nat := 0
  ret : Nat := 64
  valid : Nat := 0
  startAt : Nat := 0
  fifo : Tab (Bool × List Int) := []
  outPos : Option Nat := none
  outLast : Bool × List Int := (false, [])
  out : List Nat := []
deriving DecidableEq, Repr

/-- An AES3 receiver beyond its port: consecutive valid frames, stopped, frames since the last Z, and the bits
captured in the block: C and U of each channel. -/
structure AesRxSt where
  port : PortSt := {}
  /-- the last start edge; the standard rate that consecutive periods keep, and how many; the rate confirmed under
  R392 in place of the declared one; the port stands in the rate-changed state -/
  edge : Option Nat := none
  keeps : Nat × Nat := (6, 0)
  nominal : Option Nat := none
  changed : Bool := false
  frames : Nat := 0
  stopped : Bool := false
  sinceZ : Option Nat := none
  bits : List (List Bool) := [[], [], [], []]
deriving DecidableEq, Repr

/-- An ASRC channel: its input history, newest first, the samples it has delivered, its concealment, and the sample
that an output channel last drove outside the range state with its position. -/
structure AsrcSt where
  hist : List Int := []
  count : Nat := 0
  conceal : Conceal := {}
  outLast : Int := 0
  outPos : Nat := 0
deriving DecidableEq, Repr

structure Ports where
  sap : Tab PortSt := []
  aesRx : Tab AesRxSt := []
  aesTx : Tab PortSt := []
  asrc : Tab AsrcSt := []
  /-- the trigger T64 of each armed group, once known, and the start index of each started one -/
  trigger : Tab Nat := []
  startIdx : Tab Nat := []
  /-- since when the steered oscillator's offset is small -/
  vcxoIn : Option Nat := none
  /-- the oscillator code was written or driven since reset (R403) -/
  vcxoDriven : Bool := false
deriving DecidableEq, Repr

/-! ### Reference selection (R407–R421) -/

/-- A check of R410 that fails: since when, and for how many measurements. -/
structure Failing where
  since : Nat
  n : Nat
deriving DecidableEq, Repr

/-- A reference: the checks that fail (hard majority, hard XO, drift), since when every check passes, when its
wait-to-restore began, whether it has qualified since reset, its last offset, its soft window and its quality
before R410. -/
structure RefSt where
  maj : Option Failing := none
  xo : Option Failing := none
  drift : Option Failing := none
  pass : Option Nat := none
  wtr : Option Nat := none
  qualified : Bool := false
  ppb : Option Int := none
  soft : Bool := false
  base : Nat := 15
deriving DecidableEq, Repr

/-- A switch in progress: its target, what it leaves (R420) and its cause. -/
structure Switching where
  target : Nat
  from' : Nat
  cause : Nat
deriving DecidableEq, Repr

/-- The selector behind its registers: the switch in progress, the end of the dwell, when holdover began, whether
the servo has locked since reset, a CLK_CTRL write that waits for a switch, and the cause of the last loss. -/
structure ClkSt where
  /-- CLK_STAT has been updated since reset (R419) -/
  shown : Bool := false
  refs : Tab RefSt := []
  sw : Option Switching := none
  dwell : Nat := 0
  holdSince : Nat := 0
  everLocked : Bool := false
  pend : Option Nat := none
  cause : Nat := 0
deriving DecidableEq, Repr

/-! ### The sill die: bridge, amplifier channels and boost (R12–R14, R422–R440) -/

/-- Where a channel is in the sequences of R429 and R430. -/
inductive AmpStep where
  | off
  /-- R429 step 1: gates low, waiting for the first switching edge -/
  | prepared
  /-- step 2: gates released at 50% duty, the open-loop hold runs -/
  | hold
  /-- step 3: the hold has ended, waiting for the integrator zero -/
  | zero
  /-- step 5: the DAC input fades in -/
  | fadeIn
  /-- step 6 -/
  | running
  /-- R430 step 1: the DAC input fades to zero -/
  | fadeOut
  /-- R430 step 2: open-loop PWM at 50% -/
  | ending
deriving DecidableEq, Repr

/-- An amplifier channel behind its registers: its step and when that began, whether its gates are released, whether a stop
during its start goes straight to the gates (R430), the
sample index of the stop fade and of a fade-in that has not ended, the trips of the last 10 s, the retry's T64, whether it
stopped for heat, its mute and when that came into force, the DAC word, and whether its band must be computed anew at the
next start (R426, R427). -/
structure AmpSt where
  step : AmpStep := .off
  t0 : Nat := 0
  gates : Bool := false
  direct : Bool := false
  fade : Nat := 0
  rise : Option Nat := none
  trips : List Nat := []
  retryAt : Option Nat := none
  therm : Bool := false
  /-- a start at a twin takeover (R452) -/
  quick : Bool := false
  mute : MuteSt := {}
  muteAt : Nat := 0
  dac : Int := 0
  bandDue : Bool := false
deriving DecidableEq, Repr

/-- The sill die: sill safe state, whether its supply holds it in reset, the last valid flit that it received, when the
engine last sent a keep-alive, the failed attempts on the present flit in each direction, since when the bridge has run
without errors, its channels, and the boost targets in 2^−16 V. -/
structure Sill where
  safe : Bool := true
  held : Bool := false
  lastFlit : Nat := 0
  lastKeep : Nat := 0
  retries : Nat := 0
  retriesIn : Nat := 0
  cleanFrom : Option Nat := none
  amps : Tab AmpSt := []
  target : Tab Nat := []
deriving DecidableEq, Repr

/-! ### The twin (R441–R458) -/

/-- One released block of a hashed kitty: the kitty, its hash, and its excuse bit (R448). -/
structure TwinHash where
  kitty : Nat
  hash : Nat
  excused : Bool
deriving DecidableEq, Repr

/-- The twin unit behind its registers: T64 of the last beat and of the last with in_service, the peer's last
beat and health report, own hashes by tick with T64 of the epoch's last release, peer beats by tick, T64 of the last
kitty release, mismatch runs and excuse windows by kitty, compare
events of the last 60 s, the distance of N(P) from the tick, whether the peer yielded, the switch tick, the tick
from which the standby sends on port B, the end of the gate hold, and state received for the following tick. -/
structure TwinSt where
  lastBeat : Nat := 0
  lastServed : Nat := 0
  peer : Option Beat := none
  health : Option TwinHealth := none
  own : Tab (List TwinHash) := []
  ownAt : Tab Nat := []
  beats : Tab Beat := []
  lastRelease : Nat := 0
  runs : Tab Nat := []
  excuse : Tab Nat := []
  events : List Nat := []
  lead : Nat := 0
  yielded : Bool := false
  switchAt : Option Nat := none
  acked : Bool := false
  startB : Option Nat := none
  holdEnd : Option Nat := none
  sync : List (Nat × Nat × List Byte) := []
  syncLast : Bool := false
  /-- selection of the quick test that R451 wants, 0 for none; that test runs; service waits for resynchronisation -/
  diverged : Nat := 0
  divTest : Bool := false
  rejoin : Bool := false
  sendB : Bool := false
  /-- the last tick at which this standby was in service (R446) -/
  servedAt : Nat := 0
deriving DecidableEq, Repr

/-! ### Reset and boot (R492–R505) -/

/-- The engine die's reset and boot: held in reset, the chunks of an image in arrival order (offset, bytes), the
image accepted (type, fw_version, rollback) and its bytes, and T64 of the last Gnogo load attempt. -/
structure BootSt where
  held : Bool := true
  chunks : List (Nat × List Byte) := []
  image : Option (Nat × Nat × Nat) := none
  running : List Byte := []
  retryAt : Nat := 0
deriving DecidableEq, Repr

/-! ### The mailbox (R242–R262, R512, R513) -/

/-- The command that runs: its door (0 host, 1 network, 2 table), opcode and sequence, acceptance T64 and maximum
duration, where its response goes (port, address, UDP port, key; or the engine), its body, the status and body of
its response once the dealer core has them, and the trace ring before its acceptance (R248). -/
structure MbxRun where
  door : Nat
  opcode : Nat
  seq : Nat
  accepted : Nat
  limit : Nat
  port : Port := .a
  ip : Nat := 0
  udp : Nat := 0
  keyId : Nat := 0
  src : Nat := 0
  body : List Byte := []
  result : Option (Nat × List Byte) := none
  atDone : List ParamArg := []
  ringBefore : Option Ring := none
deriving DecidableEq, Repr

/-- A parameter's name: target record, index, param_id (R259). -/
structure ParamKey where
  recId : Nat
  index : Nat
  id : Nat
deriving DecidableEq, Repr

/-- The mailbox unit and what its commands keep: the running command, the network keys installed and the session
keys, the highest counter and the next response counter of each key, the debug challenge with its end and the end of
the unlock, parameter values and those waiting for their tick, the default hold limits of R38 (input kitties, output kitties,
amplifier sinks), the scope of a SYS_RESET that waits for its response, and the
words and the tokens that the host port drove for the last read. -/
structure Mbx where
  run : Option MbxRun := none
  netKeys : List KeyRec := []
  sessions : List KeyRec := []
  counters : Tab Nat := []
  respCtr : Tab Nat := []
  challenge : Option (List Byte × Nat) := none
  unlockEnd : Nat := 0
  params : List (ParamKey × List Byte) := []
  pendParams : List (Nat × ParamKey × List Byte) := []
  holdDef : List Nat := [4, 4, 1]
  resetScope : Option Nat := none
  hostOut : List Nat := []
  hostTokens : List Nat := []
deriving DecidableEq, Repr

/-! ### The test access port (R524) -/

/-- The instruction in force. -/
inductive TapInstr where
  | bypass | idcode | samplePreload | extest | clamp | highz | bist | reset
deriving DecidableEq, Repr

/-- The test access port: its instruction, the boundary register, the word last captured. -/
structure Tap where
  ir : TapInstr := .idcode
  boundary : List Bool := []
  out : Nat := 0
deriving DecidableEq, Repr

/-! ### Output pins (R238, R419, R474, R493) -/

/-- The levels of the output pins as they stand after the last command, a pin that only its pull-up holds counted
high: HOST_IRQ_N, FAULT_N, MUTE_OUT_N, the clock status pins, the amplifier channels and boost groups whose gates
are driven, and the DMA interrupt of the dealer core (R317). TWIN_ACT and HEALTH stand in Pins. -/
structure Outs where
  hostIrqN : Bool := true
  faultN : Bool := false
  muteOutN : Bool := false
  clkLock : Bool := false
  clkHold : Bool := false
  clkFree : Bool := false
  ampGates : List Nat := []
  boostGates : List Nat := []
  dmaIrq : Bool := false
deriving DecidableEq, Repr

/-- The hardware: everything but the queue of commands. -/
structure Hw where
  t64 : Nat := 0
  sub : Nat := 0
  pins : Pins := {}
  regs : Tab Nat := []
  mem : Tab Byte := []
  flash : Tab Byte := []
  otp : Tab Byte := []
  ring : Ring := {}
  cores : Tab Truss := []
  rails : Tab Rail := []
  flt : FaultUnit := {}
  kin : Tab InKitty := []
  kout : Tab OutKitty := []
  epoch : Epoch := {}
  bufs : Tab (List Int) := []
  join : Join := {}
  mods : Mods := {}
  deal : Deal := {}
  /-- register writes that truss cores posted in this step: core, address, value (R73) -/
  posted : List (Nat × Nat × Word) := []
  /-- blocks that the ASRC channels toward the Joinery delivered (R138) -/
  asrcBlk : Tab (List Int) := []
  xbar : Xbar := {}
  /-- the descriptor each DMA channel runs: its eight words as fetched (R309) -/
  dma : Tab (List Nat) := []
  /-- messages sent, oldest first: the model's record of what has left the engine -/
  sent : List Sent := []
  time : TimeSt := {}
  mac : Tab MacSt := []
  links : Tab LinkSt := []
  lanes : Tab LaneSt := []
  table : TableSt := {}
  ports : Ports := {}
  clk : ClkSt := {}
  sill : Sill := {}
  twin : TwinSt := {}
  boot : BootSt := {}
  mbx : Mbx := {}
  tap : Tap := {}
  outs : Outs := {}
  /-- free values drawn so far: the model's own field -/
  fresh : Nat := 0
deriving DecidableEq, Repr

/-- The state: the commands waiting, first in first out, and the hardware. -/
structure State where
  pending : List Instr := []
  hw : Hw := {}
deriving DecidableEq, Repr

/-- The machine after power-on reset: every register at its reset value, no command waiting. -/
def State.reset : State := {}

end Sys2Proof.Machine
end

