-- ==== Sys2Proof/Config.lean ====
section
/-! DEFINITION. What the spec leaves open and what an implementation fixes: opaque constants, of which no
proof can see a value. Each is named in the assumption log. -/

namespace Sys2Proof.Config

/-- A value the spec leaves open, drawn by the counter of the state (DESIGN CHOICE, log entry 3). -/
opaque freeValue : Nat → Nat

/-- The contents of the boot ROM, which the manual does not publish (R274; UNVERIFIED, log entry 7). -/
opaque bootRom : Nat → BitVec 8

/-- The shape β of the Kaiser window of the fractional-delay interpolator in units of 2^−16, and whether coefficient k of
phase f is rounded up to Q1.30: R176 gives the window, the cutoff and the bounds, and neither of these (UNVERIFIED, log
entry 17). -/
opaque kaiserBeta : Nat
opaque delayUp : Nat → Nat → Bool

/-- Coefficients of the true-peak interpolator in Q1.30: factor, branch, tap 0–15 from the newest sample on (R151 bounds the
response and lists none; UNVERIFIED, log entry 17). -/
opaque tpCoef : Nat → Nat → Nat → Int

/-- The impulse response of the pink filter in Q2.30 by rate code, and the gain G that gives the full-band RMS of a level after
it, by rate code and level: R192 bounds the response and lists no coefficient (UNVERIFIED, log entry 17). -/
opaque pinkCoef : Nat → Nat → Int
opaque pinkGain : Nat → Int → Nat

/-- Whether a sample of the sweep generator is rounded up: index in the sweep (R193 leaves the rounding open; UNVERIFIED, log
entry 17). -/
opaque sweepUp : Nat → Bool

/-- Whether a result of the transfer measurement is rounded up: kind, bin (R194 leaves the rounding open; UNVERIFIED, log entry
17). -/
opaque measUp : Nat → Nat → Bool

/-- Output of a library module of the given type whose law the spec bounds but does not list (R200):
module type, instance state, input samples by channel; answers output samples by channel
(UNVERIFIED, log entry 17). -/
opaque libraryOut : Nat → Nat → List (List Int) → List (List Int)

/-- The error of a reported meter level in Q8.8 dB before clamping to ±0.01 dB (R155; UNVERIFIED, log entry
17). -/
opaque meterError : Nat → Nat → Int

/-- What the engines of a table report to its manager's placer, in no message that the manual describes: the fenced cores of
another engine as a mask, and the delay in ns between two others; the last argument is T64 (R201; UNVERIFIED, log entry 68). -/
opaque peerFence : Nat → Nat → Nat
opaque peerDelay : Nat → Nat → Nat → Nat

/-- The share of an engine, as PREPARE carries it (UNVERIFIED, log entry 18). -/
opaque placeShare : List (BitVec 8) → Nat → List (BitVec 8)

/-- The bytes of an engine's running share as DEAL_READ returns them: deal number, digest, engine (R257; UNVERIFIED,
log entry 18). -/
opaque shareBytes : Nat → BitVec 32 → Nat → List (BitVec 8)

/-- The place in R259's list, by class, of the parameter with a subclass and a number, 0 for none: the manual gives no
numbers (UNVERIFIED, log entry 19). -/
opaque paramNo : Nat → Nat → Nat → Nat

/-- The objects of this engine that a target names in a deal, which the placer numbers: deal number, rec_id, index and
class; answers an endpoint, kitty, bus, filter, limiter or meter point, and a second endpoint (R259; UNVERIFIED, log
entry 19). -/
opaque targetObj : Nat → Nat → Nat → Nat → Nat × Nat

/-- The module parameters that MODULE_INFO lists (R259, R261): by mtype and number the length of the encoding, 0 for no
such parameter; whether it is signed; whether a value is in range; and what a setting of the module becomes: mtype,
number, value, which setting, its old value (UNVERIFIED, log entry 19). -/
opaque moduleParamLen : Nat → Nat → Nat
opaque moduleParamSigned : Nat → Nat → Bool
opaque moduleParamOk : Nat → Nat → Nat → Bool
opaque moduleSet : Nat → Nat → Nat → Nat → Nat → Nat

/-- The Solzor device CA certificate in the boot ROM (R507; UNVERIFIED, log entry 21). -/
opaque caCert : List (BitVec 8)

/-- Cost declarations of the library that R200's list does not hold whole: mtype, mver, rate code, block size code; the
empty list for no such type (UNVERIFIED, log entry 18). -/
opaque moduleCost : Nat → Nat → Nat → Nat → List (BitVec 8)

/-- Whether the dealer rounds word j of a high-pass filter's coefficients up to Q2.29: rate code, type, corner (R146 leaves
the rounding open; UNVERIFIED, log entry 17). -/
opaque hpfUp : Nat → Nat → Nat → Nat → Bool

/-- What a code of the network time profile parameter stands for: 0 the AES67 media profile, 1 SMPTE ST 2059-2, 2 IEEE
802.1AS-2020, and 4 more where it selects one-step; the manual gives no codes (R259, R335; UNVERIFIED, log entry 40). -/
opaque ptpProfile : Nat → Nat

/-- Cryptographic results of the security unit over byte strings: the algorithms are named standards
that the manual cites and does not restate (SHA-256, ECDSA P-256, ECDH, AES-GCM, HKDF; UNVERIFIED, log entry 21). -/
opaque sha256 : List (BitVec 8) → List (BitVec 8)
opaque ecdsaOk : List (BitVec 8) → List (BitVec 8) → List (BitVec 8) → Bool
opaque ecdsaSign : List (BitVec 8) → List (BitVec 8)
opaque ecdhPub : Nat → List (BitVec 8)
opaque ecdh : Nat → List (BitVec 8) → List (BitVec 8)
opaque hkdf : List (BitVec 8) → List (BitVec 8) → List (BitVec 8) → List (BitVec 8)
opaque gmacTag : List (BitVec 8) → List (BitVec 8) → List (BitVec 8) → List (BitVec 8)

/-- The AES-128-GCM ciphertext and tag of a control message: key_id, counter, routing header as its source sent it, body
(R366; UNVERIFIED, log entry 21). -/
opaque gcmSeal : Nat → Nat → List (BitVec 8) → List (BitVec 8) → List (BitVec 8)

/-- Whether a certificate chains to the Solzor device CA, and the serial it names (R508; UNVERIFIED, log entry 21). -/
opaque certOk : List (BitVec 8) → Bool
opaque certSerial : List (BitVec 8) → List (BitVec 8)

/-- Sample k that an asynchronous rate converter delivers for an input history, newest first, at a ratio
(R400; UNVERIFIED, log entry 17). -/
opaque asrcOut : Nat → List Int → Nat → Int

/-- The level at a ball that no output of the engine drives, by ball index and T64 (R286; UNVERIFIED, log entry
24). -/
opaque ballLevel : Nat → Nat → Bool

/-- The code of a fault source for which the manual states none (R463; UNVERIFIED, log entry 22). -/
opaque faultCode : Nat → Nat

/-- Whether the fused multiply-add of zero and infinity raises invalid when the addend is a NaN, which
IEEE 754-2019 leaves to the implementation (R111; UNVERIFIED, log entry 23). -/
opaque fmaInvalid : Bool

end Sys2Proof.Config
end

