-- ==== Sys2Proof/Machine/Fixed.lean ====
section
/-! DEFINITION. Exact integer arithmetic that the spec's laws are made of: shifts and saturation of H32
and wider values, and the fixed-point cosine, exponential and logarithm from which R549 quantises
weights and gains. Intermediate values have 96 fractional bits, far below every rounding step of
the laws. -/

namespace Sys2Proof

/-- Arithmetic shift right of an integer. -/
def asr (x : Int) (n : Nat) : Int := x / (2 ^ n : Int)

/-- The nearer of two limits when `x` is beyond them. -/
def clampI (lo hi x : Int) : Int := if x < lo then lo else if hi < x then hi else x

/-- The H32 limits (R144). -/
def satH (x : Int) : Int := clampI (-2147483648) 2147483647 x

/-- A 32-bit two's complement word as an integer. -/
def wordToInt (w : Word) : Int := w.toInt

/-- The low 32 bits of an integer. -/
def intToWord (x : Int) : Word := BitVec.ofInt 32 x

/-- Sign extension of the low `n` bits of a natural number. -/
def sext (n v : Nat) : Int :=
  let u := v % 2 ^ n
  if u < 2 ^ (n - 1) then (u : Int) else (u : Int) - (2 ^ n : Int)

/-- The low `n` bits of an integer as a natural number. -/
def lowBits (n : Nat) (x : Int) : Nat := (x % (2 ^ n : Int)).toNat

/-- Bits [lo + w − 1 : lo] of a natural number. -/
def bitsOf (v lo w : Nat) : Nat := v / 2 ^ lo % 2 ^ w

/-- Bit `i` of a natural number. -/
def bitOf (v i : Nat) : Bool := v / 2 ^ i % 2 == 1

def b2n (b : Bool) : Nat := if b then 1 else 0

/-- Rounding half up of a quotient: round(a / b) with b > 0. -/
def roundDiv (a : Int) (b : Nat) : Int := (2 * a + (b : Int)) / (2 * (b : Int))

def ceilDiv (a b : Nat) : Nat := (a + b - 1) / b

/-- Greatest common divisor through Lean's Nat.gcd, and the least K with 2 ^ K ≥ n. -/
def ceilLog2 : Nat → Nat → Nat
  | 0, _ => 0
  | f + 1, n => if n ≤ 1 then 0 else 1 + ceilLog2 f ((n + 1) / 2)

/-- The scale of the fixed-point functions: 96 fractional bits. -/
def fxOne : Int := 79228162514264337593543950336

/-- π × 2^96, rounded down. -/
def fxPi : Int := 248902613312231085230521944622

def fxMul (a b : Int) : Int := (a * b) / fxOne

/-- Terms of the cosine series from term `k` on; `t` is term k. -/
def cosTerms (x2 : Int) : Nat → Nat → Int → Int
  | 0, _, t => t
  | f + 1, k, t => t + cosTerms x2 f (k + 1) (-(fxMul t x2) / (((2 * k + 1) * (2 * k + 2) : Nat) : Int))

/-- cos x for x in [0, 4), with 96 fractional bits. -/
def fxCos (x : Int) : Int := cosTerms (fxMul x x) 26 0 fxOne

/-- cos(π a / b), for 0 ≤ a / b ≤ 1, with 96 fractional bits. -/
def cosPi (a b : Nat) : Int := fxCos (fxPi * (a : Int) / (b : Int))

/-- sin(π a / b) for 0 ≤ a / b ≤ 1. -/
def sinPi (a b : Nat) : Int :=
  if 2 * a ≤ b then cosPi (b - 2 * a) (2 * b) else cosPi (2 * a - b) (2 * b)

def expTerms (x : Int) : Nat → Nat → Int → Int
  | 0, _, t => t
  | f + 1, k, t => t + expTerms x f (k + 1) (fxMul t x / ((k + 1 : Nat) : Int))

def squareTimes : Nat → Int → Int
  | 0, v => v
  | n + 1, v => squareTimes n (fxMul v v)

/-- e^x for |x| up to 64: the series at x / 2^8, squared eight times. -/
def fxExp (x : Int) : Int := squareTimes 8 (expTerms (x / 256) 24 0 fxOne)

/-- ln 10 / 20 with 96 fractional bits, so that 10^(d / 20) = e^(d × this). -/
def fxLn10o20 : Int := 9121479297532735704506496930

/-- 10^(q / 20) for q in units of 1/n dB, with 96 fractional bits. -/
def fxDb (q : Int) (n : Nat) : Int := fxExp (q * fxLn10o20 / (n : Int))

/-- `n` bits of the fraction of log2 of a mantissa m in [1, 2) held with 96 fractional bits. -/
def log2Frac : Nat → Int → Nat → Nat
  | 0, _, acc => acc
  | n + 1, m, acc =>
    let s := fxMul m m
    if s ≥ 2 * fxOne then log2Frac n (s / 2) (2 * acc + 1) else log2Frac n s (2 * acc)

/-- log2 of a natural number v > 0 with 40 fractional bits. -/
def log2Fix (v : Nat) : Int :=
  let e := Nat.log2 v
  (e : Int) * 2 ^ 40 + (log2Frac 40 ((v : Int) * fxOne / (2 ^ e : Int)) 0 : Int)

/-- 10 log10(a / b) in Q8.8 dB, rounded to nearest; a, b > 0. 10 log10 2 = 3.0102999566398… -/
def dbPow88 (a b : Nat) : Int :=
  asr ((log2Fix a - log2Fix b) * 847324110187280 + 2 ^ 79) 80

/-- 20 log10(a / b) in Q8.8 dB. -/
def dbAmp88 (a b : Nat) : Int :=
  asr ((log2Fix a - log2Fix b) * 1694648220374560 + 2 ^ 79) 80

/-- ln 2 with 96 fractional bits. -/
def fxLn2 : Int := 54916777467707473351141471128

/-- ln v of a natural number v > 0, with 96 fractional bits. -/
def fxLn (v : Nat) : Int :=
  let e := Nat.log2 v
  (((e : Int) * 2 ^ 90 + (log2Frac 90 ((v : Int) * fxOne / (2 ^ e : Int)) 0 : Int)) * fxLn2) / 2 ^ 90

/-- √3 with 96 fractional bits. -/
def fxSqrt3 : Int := 137227202865029797602485611888

/-- cos(2π u) of a fraction u in [0, 1) with 96 fractional bits. -/
def cosTurn (u : Int) : Int := fxCos (2 * fxMul fxPi (if 2 * u ≤ fxOne then u else fxOne - u))

/-- sin(2π u) of a fraction u in [0, 1) with 96 fractional bits. -/
def sinTurn (u : Int) : Int := cosTurn ((u + 3 * fxOne / 4) % fxOne)

/-- Terms of the modified Bessel function I0 from term m on; `y` is the square of half its argument and `t` term m. -/
def besselTerms (y : Int) : Nat → Nat → Int → Int
  | 0, _, t => t
  | f + 1, m, t => t + besselTerms y f (m + 1) (fxMul t y / (((m + 1) * (m + 1) : Nat) : Int))

/-- A law value v with 96 fractional bits quantised to 24: floor(v × 2^24 + 0.5) (R549). -/
def q24 (v : Int) : Nat := (asr (v + 2 ^ 71) 72).toNat

/-- Integer square root by Nat.sqrt. -/
def isqrt (n : Nat) : Nat := Nat.sqrt n

/-! The laws of R549. -/

/-- Fade to zero over F samples: gain of sample k, 0.5 + 0.5 cos(π(k + 1) / F); 0 once past the fade. -/
def fadeOut (F k : Nat) : Nat :=
  if k + 1 ≥ F then 0 else q24 ((fxOne + cosPi (k + 1) F) / 2)

/-- Fade-in over F samples: gain of sample k, 0.5 − 0.5 cos(π(k + 1) / F). -/
def fadeIn (F k : Nat) : Nat :=
  if k + 1 ≥ F then 16777216 else q24 ((fxOne - cosPi (k + 1) F) / 2)

/-- A weight pair (new, old) of a scarf. -/
structure Weights where
  win : Nat
  wout : Nat
deriving DecidableEq, Repr

/-- The scarf weights of R162 and R163: length N (0 is the hard cut), law (true is equal power), sample k. -/
def scarf (N : Nat) (law : Bool) (k : Nat) : Weights :=
  if N = 0 then
    ⟨if k < 4 then 0 else fadeIn 4 (k - 4), if k < 4 then 16777216 - fadeIn 4 k else 0⟩
  else if k + 1 ≥ N then ⟨16777216, 0⟩
  else if law then ⟨q24 (sinPi (k + 1) (2 * N)), q24 (cosPi (k + 1) (2 * N))⟩
  else let w := fadeIn N k; ⟨w, 16777216 - w⟩

/-- Number of samples a scarf of length N runs: a hard cut takes eight (R163). -/
def scarfLen (N : Nat) : Nat := if N = 0 then 8 else N

/-- One sample scaled by a weight (R549). -/
def scale24 (s : Int) (w : Nat) : Int := asr (s * (w : Int) + 8388608) 24

/-- A crossfade of old a and new b (R549), saturated at the H32 limits. -/
def xfade (a b : Int) (w : Weights) : Int := satH (asr (a * (w.wout : Int) + b * (w.win : Int) + 8388608) 24)

/-- A ramped G24 gain (R549). -/
def rampGain (g0 g1 : Int) (win : Nat) : Int := g0 + asr ((g1 - g0) * (win : Int) + 8388608) 24

/-- CRC-32C, one byte at a time (R29). -/
def crcStep : Nat → Nat → Nat
  | 0, c => c
  | n + 1, c => crcStep n (if c % 2 = 1 then Nat.xor (c / 2) 0x82F63B78 else c / 2)

def crc32c (bs : List Byte) : Nat :=
  Nat.xor (bs.foldl (fun c b => crcStep 8 (Nat.xor c b.toNat)) 0xFFFFFFFF) 0xFFFFFFFF

/-! Byte strings. -/

/-- `n` bytes of `v`, least significant first. -/
def leBytes : Nat → Nat → List Byte
  | 0, _ => []
  | n + 1, v => BitVec.ofNat 8 v :: leBytes n (v / 256)

def beBytes (n v : Nat) : List Byte := (leBytes n v).reverse

def leNat : List Byte → Nat
  | [] => 0
  | b :: t => b.toNat + 256 * leNat t

def beNat (bs : List Byte) : Nat := leNat bs.reverse

/-- Bytes [off, off + n) of a byte string; bytes beyond the end read as 0. -/
def sliceB (bs : List Byte) (off n : Nat) : List Byte :=
  let s := (bs.drop off).take n
  s ++ List.replicate (n - s.length) 0

/-- A byte string cut to, or padded with zeros to, n bytes. -/
def padB (n : Nat) (bs : List Byte) : List Byte := (bs.take n) ++ List.replicate (n - bs.length) 0

def nthI (l : List Int) (i : Nat) : Int := l.getD i 0

end Sys2Proof
end

