-- ==== Sys2Proof/Machine/RegMap.lean ====
section
/-! DEFINITION. The registers of the register bus: one named field accessor for every defined field of
every register, and the table of descriptors that a software access goes through. The names, places,
types and reset values are those of the field tables of the spec (the rule is given with each
register). -/

namespace Sys2Proof

/-- A register field: the internal byte address of its register, its lowest bit, its width and the
value it holds at reset. -/
structure RF where
  addr : Nat
  lo : Nat
  w : Nat
  rst : Nat
deriving DecidableEq, Repr

/-- Field access types of R5; `rsv` is a field marked "write back as read" or "written as 0". -/
inductive Access where
  | rw | ro | rwh | rws | w1c | w1s | cnt | rsv
deriving DecidableEq, Repr

/-- One field of a register as its field table gives it. -/
structure FieldD where
  lo : Nat
  w : Nat
  acc : Access
  rst : Nat
deriving DecidableEq, Repr

/-- One register, or an array of them: base address, (count, stride) of each index from the widest
stride down, and its fields. -/
structure RegD where
  base : Nat
  dims : List (Nat × Nat)
  fields : List FieldD
deriving DecidableEq, Repr

/-- Reset of XBAR_PRIO[m].prio: the default priorities of R288 by master ID. -/
def xbarPrioReset (m : Nat) : Nat :=
  if m < 0x0A then 3 else if m < 0x0C then 5 else if m < 0x10 then 7 else if m < 0x12 then 2
  else if m < 0x16 then 6 else if m < 0x18 then 4 else 1

/-- Reset of FAULT_CLASS[s].pin: 1 where R463 lists DEGRADE or above for any code (R482). -/
def faultPinReset (s : Nat) : Nat :=
  if s < 0x0C || (0x10 ≤ s && s ≤ 0x20 && s != 0x1D) || s = 0x28 || s = 0x29
    || (0x38 ≤ s && s ≤ 0x3A) || s = 0x40 || (0x50 ≤ s && s ≤ 0x5E) || s = 0x61 || s = 0x68
    || (0xC0 ≤ s && s ≤ 0xDF) || (0xE4 ≤ s && s ≤ 0xE7) || (0xF0 ≤ s && s ≤ 0xF5)
    || s = 0xF8 || s = 0xF9 || s = 0xFC
  then 1 else 0

namespace Reg

/-- TRUSS_CTRL.run_en (R100), RWH. -/
def TRUSS_CTRL_run_en (i : Nat) : RF := ⟨0x40220000 + i * 0x1000, 0, 1, 0⟩
/-- TRUSS_CTRL.halt_req (R100), RW. -/
def TRUSS_CTRL_halt_req (i : Nat) : RF := ⟨0x40220000 + i * 0x1000, 1, 1, 0⟩
/-- TRUSS_CTRL.step (R100), W1S. -/
def TRUSS_CTRL_step (i : Nat) : RF := ⟨0x40220000 + i * 0x1000, 2, 1, 0⟩
/-- TRUSS_STATUS.state (R101), RO. -/
def TRUSS_STATUS_state (i : Nat) : RF := ⟨0x40220004 + i * 0x1000, 0, 2, 0⟩
/-- TRUSS_STATUS.task (R101), RO. -/
def TRUSS_STATUS_task (i : Nat) : RF := ⟨0x40220004 + i * 0x1000, 2, 5, 0⟩
/-- TRUSS_STATUS.fenced (R101), RO. -/
def TRUSS_STATUS_fenced (i : Nat) : RF := ⟨0x40220004 + i * 0x1000, 7, 1, 0⟩
/-- TRUSS_STATUS.replaying (R101), RO. -/
def TRUSS_STATUS_replaying (i : Nat) : RF := ⟨0x40220004 + i * 0x1000, 8, 1, 0⟩
/-- TRUSS_STATUS.act_wr (R101), W1C. -/
def TRUSS_STATUS_act_wr (i : Nat) : RF := ⟨0x40220004 + i * 0x1000, 9, 1, 0⟩
/-- TRUSS_STATUS.shd_wr (R101), W1C. -/
def TRUSS_STATUS_shd_wr (i : Nat) : RF := ⟨0x40220004 + i * 0x1000, 10, 1, 0⟩
/-- TRUSS_STATUS.skipped (R101), W1C. -/
def TRUSS_STATUS_skipped (i : Nat) : RF := ⟨0x40220004 + i * 0x1000, 11, 1, 0⟩
/-- TRUSS_TL_SWAP.swap_req (R102), W1S. -/
def TRUSS_TL_SWAP_swap_req (i : Nat) : RF := ⟨0x40220008 + i * 0x1000, 0, 1, 0⟩
/-- TRUSS_TL_SWAP.act_sel (R102), RO. -/
def TRUSS_TL_SWAP_act_sel (i : Nat) : RF := ⟨0x40220008 + i * 0x1000, 1, 1, 0⟩
/-- TRUSS_TRAP.cause (R102), RO. -/
def TRUSS_TRAP_cause (i : Nat) : RF := ⟨0x40220010 + i * 0x1000, 0, 5, 0⟩
/-- TRUSS_TRAP.task (R102), RO. -/
def TRUSS_TRAP_task (i : Nat) : RF := ⟨0x40220010 + i * 0x1000, 5, 5, 0⟩
/-- TRUSS_TRAP.valid (R102), W1C. -/
def TRUSS_TRAP_valid (i : Nat) : RF := ⟨0x40220010 + i * 0x1000, 10, 1, 0⟩
/-- TRUSS_TRAP_PC.pc (R102), RO. -/
def TRUSS_TRAP_PC_pc (i : Nat) : RF := ⟨0x40220014 + i * 0x1000, 0, 14, 0⟩
/-- TRUSS_TRAP_T64_LO.t64 (R102), RO. -/
def TRUSS_TRAP_T64_LO_t64 (i : Nat) : RF := ⟨0x40220018 + i * 0x1000, 0, 32, 0⟩
/-- TRUSS_TRAP_T64_HI.t64 (R102), RO. -/
def TRUSS_TRAP_T64_HI_t64 (i : Nat) : RF := ⟨0x4022001C + i * 0x1000, 0, 32, 0⟩
/-- TRUSS_RUN_CYC.max_cyc (R102), RO. -/
def TRUSS_RUN_CYC_max_cyc (i : Nat) (j : Nat) : RF := ⟨0x40220100 + i * 0x1000 + j * 0x4, 0, 20, 0⟩
/-- TRUSS_TL_ACT0.entry_pc (R103), RO. -/
def TRUSS_TL_ACT0_entry_pc (i : Nat) (j : Nat) : RF := ⟨0x40220400 + i * 0x1000 + j * 0x10, 0, 14, 0⟩
/-- TRUSS_TL_ACT0.lane_lo (R103), RO. -/
def TRUSS_TL_ACT0_lane_lo (i : Nat) (j : Nat) : RF := ⟨0x40220400 + i * 0x1000 + j * 0x10, 14, 5, 0⟩
/-- TRUSS_TL_ACT0.lane_hi (R103), RO. -/
def TRUSS_TL_ACT0_lane_hi (i : Nat) (j : Nat) : RF := ⟨0x40220400 + i * 0x1000 + j * 0x10, 19, 5, 0⟩
/-- TRUSS_TL_ACT0.spec (R103), RO. -/
def TRUSS_TL_ACT0_spec (i : Nat) (j : Nat) : RF := ⟨0x40220400 + i * 0x1000 + j * 0x10, 24, 1, 0⟩
/-- TRUSS_TL_ACT0.enable (R103), RO. -/
def TRUSS_TL_ACT0_enable (i : Nat) (j : Nat) : RF := ⟨0x40220400 + i * 0x1000 + j * 0x10, 25, 1, 0⟩
/-- TRUSS_TL_ACT0.signal_en (R103), RO. -/
def TRUSS_TL_ACT0_signal_en (i : Nat) (j : Nat) : RF := ⟨0x40220400 + i * 0x1000 + j * 0x10, 26, 1, 0⟩
/-- TRUSS_TL_ACT0.wait_en (R103), RO. -/
def TRUSS_TL_ACT0_wait_en (i : Nat) (j : Nat) : RF := ⟨0x40220400 + i * 0x1000 + j * 0x10, 27, 1, 0⟩
/-- TRUSS_TL_SHD0.entry_pc (R103), RW. -/
def TRUSS_TL_SHD0_entry_pc (i : Nat) (j : Nat) : RF := ⟨0x40220800 + i * 0x1000 + j * 0x10, 0, 14, 0⟩
/-- TRUSS_TL_SHD0.lane_lo (R103), RW. -/
def TRUSS_TL_SHD0_lane_lo (i : Nat) (j : Nat) : RF := ⟨0x40220800 + i * 0x1000 + j * 0x10, 14, 5, 0⟩
/-- TRUSS_TL_SHD0.lane_hi (R103), RW. -/
def TRUSS_TL_SHD0_lane_hi (i : Nat) (j : Nat) : RF := ⟨0x40220800 + i * 0x1000 + j * 0x10, 19, 5, 0⟩
/-- TRUSS_TL_SHD0.spec (R103), RW. -/
def TRUSS_TL_SHD0_spec (i : Nat) (j : Nat) : RF := ⟨0x40220800 + i * 0x1000 + j * 0x10, 24, 1, 0⟩
/-- TRUSS_TL_SHD0.enable (R103), RW. -/
def TRUSS_TL_SHD0_enable (i : Nat) (j : Nat) : RF := ⟨0x40220800 + i * 0x1000 + j * 0x10, 25, 1, 0⟩
/-- TRUSS_TL_SHD0.signal_en (R103), RW. -/
def TRUSS_TL_SHD0_signal_en (i : Nat) (j : Nat) : RF := ⟨0x40220800 + i * 0x1000 + j * 0x10, 26, 1, 0⟩
/-- TRUSS_TL_SHD0.wait_en (R103), RW. -/
def TRUSS_TL_SHD0_wait_en (i : Nat) (j : Nat) : RF := ⟨0x40220800 + i * 0x1000 + j * 0x10, 27, 1, 0⟩
/-- TRUSS_TL_ACT1.param (R103), RO. -/
def TRUSS_TL_ACT1_param (i : Nat) (j : Nat) : RF := ⟨0x40220404 + i * 0x1000 + j * 0x10, 0, 16, 0⟩
/-- TRUSS_TL_ACT1.wait_flag (R103), RO. -/
def TRUSS_TL_ACT1_wait_flag (i : Nat) (j : Nat) : RF := ⟨0x40220404 + i * 0x1000 + j * 0x10, 16, 4, 0⟩
/-- TRUSS_TL_ACT1.signal_flag (R103), RO. -/
def TRUSS_TL_ACT1_signal_flag (i : Nat) (j : Nat) : RF := ⟨0x40220404 + i * 0x1000 + j * 0x10, 20, 4, 0⟩
/-- TRUSS_TL_ACT1.div_m1 (R103), RO. -/
def TRUSS_TL_ACT1_div_m1 (i : Nat) (j : Nat) : RF := ⟨0x40220404 + i * 0x1000 + j * 0x10, 24, 4, 0⟩
/-- TRUSS_TL_ACT1.phase (R103), RO. -/
def TRUSS_TL_ACT1_phase (i : Nat) (j : Nat) : RF := ⟨0x40220404 + i * 0x1000 + j * 0x10, 28, 4, 0⟩
/-- TRUSS_TL_SHD1.param (R103), RW. -/
def TRUSS_TL_SHD1_param (i : Nat) (j : Nat) : RF := ⟨0x40220804 + i * 0x1000 + j * 0x10, 0, 16, 0⟩
/-- TRUSS_TL_SHD1.wait_flag (R103), RW. -/
def TRUSS_TL_SHD1_wait_flag (i : Nat) (j : Nat) : RF := ⟨0x40220804 + i * 0x1000 + j * 0x10, 16, 4, 0⟩
/-- TRUSS_TL_SHD1.signal_flag (R103), RW. -/
def TRUSS_TL_SHD1_signal_flag (i : Nat) (j : Nat) : RF := ⟨0x40220804 + i * 0x1000 + j * 0x10, 20, 4, 0⟩
/-- TRUSS_TL_SHD1.div_m1 (R103), RW. -/
def TRUSS_TL_SHD1_div_m1 (i : Nat) (j : Nat) : RF := ⟨0x40220804 + i * 0x1000 + j * 0x10, 24, 4, 0⟩
/-- TRUSS_TL_SHD1.phase (R103), RW. -/
def TRUSS_TL_SHD1_phase (i : Nat) (j : Nat) : RF := ⟨0x40220804 + i * 0x1000 + j * 0x10, 28, 4, 0⟩
/-- TRUSS_TL_ACT2.budget (R103), RO. -/
def TRUSS_TL_ACT2_budget (i : Nat) (j : Nat) : RF := ⟨0x40220408 + i * 0x1000 + j * 0x10, 0, 20, 0⟩
/-- TRUSS_TL_SHD2.budget (R103), RW. -/
def TRUSS_TL_SHD2_budget (i : Nat) (j : Nat) : RF := ⟨0x40220808 + i * 0x1000 + j * 0x10, 0, 20, 0⟩
/-- TRUSS_TL_ACT3.ckpt_base (R103), RO. -/
def TRUSS_TL_ACT3_ckpt_base (i : Nat) (j : Nat) : RF := ⟨0x4022040C + i * 0x1000 + j * 0x10, 0, 8, 0⟩
/-- TRUSS_TL_ACT3.ckpt_len (R103), RO. -/
def TRUSS_TL_ACT3_ckpt_len (i : Nat) (j : Nat) : RF := ⟨0x4022040C + i * 0x1000 + j * 0x10, 8, 9, 0⟩
/-- TRUSS_TL_SHD3.ckpt_base (R103), RW. -/
def TRUSS_TL_SHD3_ckpt_base (i : Nat) (j : Nat) : RF := ⟨0x4022080C + i * 0x1000 + j * 0x10, 0, 8, 0⟩
/-- TRUSS_TL_SHD3.ckpt_len (R103), RW. -/
def TRUSS_TL_SHD3_ckpt_len (i : Nat) (j : Nat) : RF := ⟨0x4022080C + i * 0x1000 + j * 0x10, 8, 9, 0⟩
/-- TRUSS_SYNC.flag (R104), RO. -/
def TRUSS_SYNC_flag : RF := ⟨0x4022A000, 0, 16, 0⟩
/-- TRUSS_BENT_OP.freq_code (R104), RW. -/
def TRUSS_BENT_OP_freq_code (i : Nat) : RF := ⟨0x4022A010 + i * 0x10, 0, 4, 4⟩
/-- TRUSS_BENT_OP.change_req (R104), W1S. -/
def TRUSS_BENT_OP_change_req (i : Nat) : RF := ⟨0x4022A010 + i * 0x10, 4, 1, 0⟩
/-- TRUSS_BENT_STAT.freq_act (R104), RO. -/
def TRUSS_BENT_STAT_freq_act (i : Nat) : RF := ⟨0x4022A014 + i * 0x10, 0, 4, 4⟩
/-- TRUSS_BENT_STAT.vdd (R104), RO. -/
def TRUSS_BENT_STAT_vdd (i : Nat) : RF := ⟨0x4022A014 + i * 0x10, 4, 8, 50⟩
/-- TRUSS_BENT_STAT.avs_ok (R104), RO. -/
def TRUSS_BENT_STAT_avs_ok (i : Nat) : RF := ⟨0x4022A014 + i * 0x10, 12, 1, 0⟩
/-- TRUSS_BENT_STAT.awake (R104), RO. -/
def TRUSS_BENT_STAT_awake (i : Nat) : RF := ⟨0x4022A014 + i * 0x10, 13, 5, 0⟩
/-- JOIN_CTRL.run (R167), RW. -/
def JOIN_CTRL_run : RF := ⟨0x40080000, 0, 1, 0⟩
/-- JOIN_CTRL.snap_en (R167), RW. -/
def JOIN_CTRL_snap_en : RF := ⟨0x40080000, 1, 1, 0⟩
/-- JOIN_STATUS.busy (R167), RO. -/
def JOIN_STATUS_busy : RF := ⟨0x40080004, 0, 1, 0⟩
/-- JOIN_STATUS.act_wr (R167), W1C. -/
def JOIN_STATUS_act_wr : RF := ⟨0x40080004, 1, 1, 0⟩
/-- JOIN_STATUS.shd_wr (R167), W1C. -/
def JOIN_STATUS_shd_wr : RF := ⟨0x40080004, 2, 1, 0⟩
/-- JOIN_STATUS.live_wr (R167), W1C. -/
def JOIN_STATUS_live_wr : RF := ⟨0x40080004, 3, 1, 0⟩
/-- JOIN_STATUS.chg_late (R167), W1C. -/
def JOIN_STATUS_chg_late : RF := ⟨0x40080004, 4, 1, 0⟩
/-- JOIN_STATUS.chg_full (R167), W1C. -/
def JOIN_STATUS_chg_full : RF := ⟨0x40080004, 5, 1, 0⟩
/-- JOIN_STATUS.overrun (R167), W1C. -/
def JOIN_STATUS_overrun : RF := ⟨0x40080004, 6, 1, 0⟩
/-- JOIN_STATUS.flag0 (R167), RO. -/
def JOIN_STATUS_flag0 : RF := ⟨0x40080004, 7, 1, 0⟩
/-- JOIN_STATUS.entry (R167), RO. -/
def JOIN_STATUS_entry : RF := ⟨0x40080004, 8, 8, 0⟩
/-- JOIN_STATUS.chg_bad (R167), W1C. -/
def JOIN_STATUS_chg_bad : RF := ⟨0x40080004, 16, 1, 0⟩
/-- JOIN_SCHED_SWAP.swap_req (R167), W1S. -/
def JOIN_SCHED_SWAP_swap_req : RF := ⟨0x40080008, 0, 1, 0⟩
/-- JOIN_SCHED_SWAP.act_sel (R167), RO. -/
def JOIN_SCHED_SWAP_act_sel : RF := ⟨0x40080008, 1, 1, 0⟩
/-- JOIN_LOAD.mul_cyc (R167), RO. -/
def JOIN_LOAD_mul_cyc : RF := ⟨0x4008000C, 0, 20, 0⟩
/-- JOIN_DONE.done_cyc (R167), RO. -/
def JOIN_DONE_done_cyc : RF := ⟨0x40080010, 0, 20, 0⟩
/-- JOIN_OVR_CNT.count (R167), CNT. -/
def JOIN_OVR_CNT_count : RF := ⟨0x40080014, 0, 32, 0⟩
/-- JOIN_TBL_BASE.base (R168), RW. -/
def JOIN_TBL_BASE_base (i : Nat) : RF := ⟨0x40080020 + i * 0x4, 0, 21, 0⟩
/-- JOIN_CHG_T64_LO.t64 (R169), RW. -/
def JOIN_CHG_T64_LO_t64 : RF := ⟨0x40080040, 0, 32, 0⟩
/-- JOIN_CHG_T64_HI.t64 (R169), RW. -/
def JOIN_CHG_T64_HI_t64 : RF := ⟨0x40080044, 0, 32, 0⟩
/-- JOIN_CHG_TGT.kind (R169), RW. -/
def JOIN_CHG_TGT_kind : RF := ⟨0x40080048, 0, 4, 0⟩
/-- JOIN_CHG_TGT.a (R169), RW. -/
def JOIN_CHG_TGT_a : RF := ⟨0x40080048, 4, 12, 0⟩
/-- JOIN_CHG_TGT.b (R169), RW. -/
def JOIN_CHG_TGT_b : RF := ⟨0x40080048, 16, 12, 0⟩
/-- JOIN_CHG_VAL.value (R169), RW. -/
def JOIN_CHG_VAL_value : RF := ⟨0x4008004C, 0, 24, 0⟩
/-- JOIN_CHG_CTL.len (R169), RW. -/
def JOIN_CHG_CTL_len : RF := ⟨0x40080050, 0, 11, 64⟩
/-- JOIN_CHG_CTL.law (R169), RW. -/
def JOIN_CHG_CTL_law : RF := ⟨0x40080050, 11, 1, 0⟩
/-- JOIN_CHG_CTL.push (R169), W1S. -/
def JOIN_CHG_CTL_push : RF := ⟨0x40080050, 12, 1, 0⟩
/-- JOIN_CHG_LEVEL.free (R169), RO. -/
def JOIN_CHG_LEVEL_free : RF := ⟨0x40080054, 0, 11, 1024⟩
/-- JOIN_SNAP_CFG.interval (R170), RW. -/
def JOIN_SNAP_CFG_interval : RF := ⟨0x40080060, 0, 8, 120⟩
/-- JOIN_SNAP_SEQ.seq (R170), RO. -/
def JOIN_SNAP_SEQ_seq : RF := ⟨0x40080064, 0, 31, 0⟩
/-- JOIN_SNAP_SEQ.area (R170), RO. -/
def JOIN_SNAP_SEQ_area : RF := ⟨0x40080064, 31, 1, 0⟩
/-- JOIN_BUS_CFG.headroom (R170), RW. -/
def JOIN_BUS_CFG_headroom (i : Nat) : RF := ⟨0x40081000 + i * 0x4, 0, 2, 0⟩
/-- JOIN_SCHED_ACT0.kind (R137), RO. -/
def JOIN_SCHED_ACT0_kind (i : Nat) : RF := ⟨0x40082000 + i * 0x8, 0, 4, 0⟩
/-- JOIN_SCHED_ACT0.phase (R137), RO. -/
def JOIN_SCHED_ACT0_phase (i : Nat) : RF := ⟨0x40082000 + i * 0x8, 4, 1, 0⟩
/-- JOIN_SCHED_ACT0.wait_en (R137), RO. -/
def JOIN_SCHED_ACT0_wait_en (i : Nat) : RF := ⟨0x40082000 + i * 0x8, 5, 1, 0⟩
/-- JOIN_SCHED_ACT0.wait_flag (R137), RO. -/
def JOIN_SCHED_ACT0_wait_flag (i : Nat) : RF := ⟨0x40082000 + i * 0x8, 6, 4, 0⟩
/-- JOIN_SCHED_ACT0.enable (R137), RO. -/
def JOIN_SCHED_ACT0_enable (i : Nat) : RF := ⟨0x40082000 + i * 0x8, 10, 1, 0⟩
/-- JOIN_SCHED_SHD0.kind (R137), RW. -/
def JOIN_SCHED_SHD0_kind (i : Nat) : RF := ⟨0x40082800 + i * 0x8, 0, 4, 0⟩
/-- JOIN_SCHED_SHD0.phase (R137), RW. -/
def JOIN_SCHED_SHD0_phase (i : Nat) : RF := ⟨0x40082800 + i * 0x8, 4, 1, 0⟩
/-- JOIN_SCHED_SHD0.wait_en (R137), RW. -/
def JOIN_SCHED_SHD0_wait_en (i : Nat) : RF := ⟨0x40082800 + i * 0x8, 5, 1, 0⟩
/-- JOIN_SCHED_SHD0.wait_flag (R137), RW. -/
def JOIN_SCHED_SHD0_wait_flag (i : Nat) : RF := ⟨0x40082800 + i * 0x8, 6, 4, 0⟩
/-- JOIN_SCHED_SHD0.enable (R137), RW. -/
def JOIN_SCHED_SHD0_enable (i : Nat) : RF := ⟨0x40082800 + i * 0x8, 10, 1, 0⟩
/-- JOIN_SCHED_ACT1.first (R137), RO. -/
def JOIN_SCHED_ACT1_first (i : Nat) : RF := ⟨0x40082004 + i * 0x8, 0, 12, 0⟩
/-- JOIN_SCHED_ACT1.count (R137), RO. -/
def JOIN_SCHED_ACT1_count (i : Nat) : RF := ⟨0x40082004 + i * 0x8, 12, 13, 0⟩
/-- JOIN_SCHED_SHD1.first (R137), RW. -/
def JOIN_SCHED_SHD1_first (i : Nat) : RF := ⟨0x40082804 + i * 0x8, 0, 12, 0⟩
/-- JOIN_SCHED_SHD1.count (R137), RW. -/
def JOIN_SCHED_SHD1_count (i : Nat) : RF := ⟨0x40082804 + i * 0x8, 12, 13, 0⟩
/-- JOIN_SRC.kind (R171), RW. -/
def JOIN_SRC_kind (i : Nat) : RF := ⟨0x40084000 + i * 0x4, 0, 4, 0⟩
/-- JOIN_SRC.object (R171), RW. -/
def JOIN_SRC_object (i : Nat) : RF := ⟨0x40084000 + i * 0x4, 4, 12, 0⟩
/-- JOIN_SRC.channel (R171), RW. -/
def JOIN_SRC_channel (i : Nat) : RF := ⟨0x40084000 + i * 0x4, 16, 8, 0⟩
/-- JOIN_DST.kind (R171), RW. -/
def JOIN_DST_kind (i : Nat) : RF := ⟨0x40088000 + i * 0x4, 0, 4, 0⟩
/-- JOIN_DST.object (R171), RW. -/
def JOIN_DST_object (i : Nat) : RF := ⟨0x40088000 + i * 0x4, 4, 12, 0⟩
/-- JOIN_DST.channel (R171), RW. -/
def JOIN_DST_channel (i : Nat) : RF := ⟨0x40088000 + i * 0x4, 16, 8, 0⟩
/-- JOIN_DST.dcb_en (R171), RW. -/
def JOIN_DST_dcb_en (i : Nat) : RF := ⟨0x40088000 + i * 0x4, 24, 1, 0⟩
/-- JOIN_DST.dcb_k (R171), RW. -/
def JOIN_DST_dcb_k (i : Nat) : RF := ⟨0x40088000 + i * 0x4, 25, 3, 4⟩
/-- HOST_ID.device (R237), RO. -/
def HOST_ID_device : RF := ⟨0x400F0000, 0, 16, 2400⟩
/-- HOST_ID.eng_rev (R237), RO. -/
def HOST_ID_eng_rev : RF := ⟨0x400F0000, 16, 4, 1⟩
/-- HOST_ID.sill_rev (R237), RO. -/
def HOST_ID_sill_rev : RF := ⟨0x400F0000, 20, 4, 1⟩
/-- HOST_FW.version (R237), RO. -/
def HOST_FW_version : RF := ⟨0x400F0004, 0, 32, 0⟩
/-- HOST_EPOCH.epoch (R237), RO. -/
def HOST_EPOCH_epoch : RF := ⟨0x400F0008, 0, 32, 0⟩
/-- MBX_STATUS.busy (R237), RO. -/
def MBX_STATUS_busy : RF := ⟨0x400F0010, 0, 1, 0⟩
/-- MBX_STATUS.ready (R237), RO. -/
def MBX_STATUS_ready : RF := ⟨0x400F0010, 1, 1, 0⟩
/-- MBX_STATUS.resp_valid (R237), RO. -/
def MBX_STATUS_resp_valid : RF := ⟨0x400F0010, 2, 1, 0⟩
/-- MBX_STATUS.rejected (R237), W1C. -/
def MBX_STATUS_rejected : RF := ⟨0x400F0010, 3, 1, 0⟩
/-- MBX_STATUS.door (R237), RO. -/
def MBX_STATUS_door : RF := ⟨0x400F0010, 4, 2, 0⟩
/-- MBX_STATUS.reject_cnt (R237), CNT. -/
def MBX_STATUS_reject_cnt : RF := ⟨0x400F0010, 8, 8, 0⟩
/-- MBX_STATUS.resp_seq (R237), RO. -/
def MBX_STATUS_resp_seq : RF := ⟨0x400F0010, 16, 16, 0⟩
/-- MBX_DOORBELL.ring (R237), W1S. -/
def MBX_DOORBELL_ring : RF := ⟨0x400F0014, 0, 1, 0⟩
/-- HOST_IRQ_STAT.mbx_done (R238), W1C. -/
def HOST_IRQ_STAT_mbx_done : RF := ⟨0x400F0020, 0, 1, 0⟩
/-- HOST_IRQ_STAT.reject (R238), W1C. -/
def HOST_IRQ_STAT_reject : RF := ⟨0x400F0020, 1, 1, 0⟩
/-- HOST_IRQ_STAT.fault (R238), W1C. -/
def HOST_IRQ_STAT_fault : RF := ⟨0x400F0020, 2, 1, 0⟩
/-- HOST_IRQ_STAT.role (R238), W1C. -/
def HOST_IRQ_STAT_role : RF := ⟨0x400F0020, 3, 1, 0⟩
/-- HOST_IRQ_STAT.ref (R238), W1C. -/
def HOST_IRQ_STAT_ref : RF := ⟨0x400F0020, 4, 1, 0⟩
/-- HOST_IRQ_STAT.snap (R238), W1C. -/
def HOST_IRQ_STAT_snap : RF := ⟨0x400F0020, 5, 1, 0⟩
/-- HOST_IRQ_STAT.trace (R238), W1C. -/
def HOST_IRQ_STAT_trace : RF := ⟨0x400F0020, 6, 1, 0⟩
/-- HOST_IRQ_STAT.time (R238), W1C. -/
def HOST_IRQ_STAT_time : RF := ⟨0x400F0020, 7, 1, 0⟩
/-- HOST_IRQ_STAT.mbx_timeout (R238), W1C. -/
def HOST_IRQ_STAT_mbx_timeout : RF := ⟨0x400F0020, 8, 1, 0⟩
/-- HOST_IRQ_STAT.notice (R238), W1C. -/
def HOST_IRQ_STAT_notice : RF := ⟨0x400F0020, 9, 1, 0⟩
/-- HOST_IRQ_EN.mbx_done (R238), RW. -/
def HOST_IRQ_EN_mbx_done : RF := ⟨0x400F0024, 0, 1, 0⟩
/-- HOST_IRQ_EN.reject (R238), RW. -/
def HOST_IRQ_EN_reject : RF := ⟨0x400F0024, 1, 1, 0⟩
/-- HOST_IRQ_EN.fault (R238), RW. -/
def HOST_IRQ_EN_fault : RF := ⟨0x400F0024, 2, 1, 0⟩
/-- HOST_IRQ_EN.role (R238), RW. -/
def HOST_IRQ_EN_role : RF := ⟨0x400F0024, 3, 1, 0⟩
/-- HOST_IRQ_EN.ref (R238), RW. -/
def HOST_IRQ_EN_ref : RF := ⟨0x400F0024, 4, 1, 0⟩
/-- HOST_IRQ_EN.snap (R238), RW. -/
def HOST_IRQ_EN_snap : RF := ⟨0x400F0024, 5, 1, 0⟩
/-- HOST_IRQ_EN.trace (R238), RW. -/
def HOST_IRQ_EN_trace : RF := ⟨0x400F0024, 6, 1, 0⟩
/-- HOST_IRQ_EN.time (R238), RW. -/
def HOST_IRQ_EN_time : RF := ⟨0x400F0024, 7, 1, 0⟩
/-- HOST_IRQ_EN.mbx_timeout (R238), RW. -/
def HOST_IRQ_EN_mbx_timeout : RF := ⟨0x400F0024, 8, 1, 0⟩
/-- HOST_IRQ_EN.notice (R238), RW. -/
def HOST_IRQ_EN_notice : RF := ⟨0x400F0024, 9, 1, 0⟩
/-- HOST_MUTE.mute (R239), RW. -/
def HOST_MUTE_mute : RF := ⟨0x400F0030, 0, 1, 0⟩
/-- HOST_MUTE.muted (R239), RO. -/
def HOST_MUTE_muted : RF := ⟨0x400F0030, 1, 1, 0⟩
/-- HOST_MUTE.pin (R239), RO. -/
def HOST_MUTE_pin : RF := ⟨0x400F0030, 2, 1, 0⟩
/-- AMP_MASTER_EN.en (R239), RWH. -/
def AMP_MASTER_EN_en : RF := ⟨0x400F0034, 0, 1, 0⟩
/-- AMP_MASTER_EN.pin (R239), RO. -/
def AMP_MASTER_EN_pin : RF := ⟨0x400F0034, 1, 1, 0⟩
/-- HOST_T64_LO.t64 (R237), RO. -/
def HOST_T64_LO_t64 : RF := ⟨0x400F0040, 0, 32, 0⟩
/-- HOST_T64_HI.t64 (R237), RO. -/
def HOST_T64_HI_t64 : RF := ⟨0x400F0044, 0, 32, 0⟩
/-- MBX_DOOR_ACC.count (R237), CNT. -/
def MBX_DOOR_ACC_count (i : Nat) : RF := ⟨0x400F0100 + i * 0x8, 0, 32, 0⟩
/-- MBX_DOOR_REJ.busy (R237), CNT. -/
def MBX_DOOR_REJ_busy (i : Nat) : RF := ⟨0x400F0104 + i * 0x8, 0, 16, 0⟩
/-- MBX_DOOR_REJ.auth (R237), CNT. -/
def MBX_DOOR_REJ_auth (i : Nat) : RF := ⟨0x400F0104 + i * 0x8, 16, 16, 0⟩
/-- SYS_ID.device (R279), RO. -/
def SYS_ID_device : RF := ⟨0x40000000, 0, 16, 2400⟩
/-- SYS_ID.eng_rev (R279), RO. -/
def SYS_ID_eng_rev : RF := ⟨0x40000000, 16, 4, 1⟩
/-- SYS_ID.sill_rev (R279), RO. -/
def SYS_ID_sill_rev : RF := ⟨0x40000000, 20, 4, 1⟩
/-- SYS_STATE.state (R279), RO. -/
def SYS_STATE_state : RF := ⟨0x40000004, 0, 3, 0⟩
/-- SYS_STATE.boot_mode (R279), RO. -/
def SYS_STATE_boot_mode : RF := ⟨0x40000004, 3, 2, 0⟩
/-- SYS_STATE.bridge_up (R279), RO. -/
def SYS_STATE_bridge_up : RF := ⟨0x40000004, 5, 1, 0⟩
/-- SYS_STATE.frozen (R279), RO. -/
def SYS_STATE_frozen : RF := ⟨0x40000004, 6, 1, 0⟩
/-- SYS_STATE.dbg (R279), RO. -/
def SYS_STATE_dbg : RF := ⟨0x40000004, 7, 1, 0⟩
/-- SYS_RST_CAUSE.por (R279), W1C. -/
def SYS_RST_CAUSE_por : RF := ⟨0x40000008, 0, 1, 1⟩
/-- SYS_RST_CAUSE.pin (R279), W1C. -/
def SYS_RST_CAUSE_pin : RF := ⟨0x40000008, 1, 1, 0⟩
/-- SYS_RST_CAUSE.fatal (R279), W1C. -/
def SYS_RST_CAUSE_fatal : RF := ⟨0x40000008, 2, 1, 0⟩
/-- SYS_RST_CAUSE.command (R279), W1C. -/
def SYS_RST_CAUSE_command : RF := ⟨0x40000008, 3, 1, 0⟩
/-- SYS_RST_CAUSE.watchdog (R279), W1C. -/
def SYS_RST_CAUSE_watchdog : RF := ⟨0x40000008, 4, 1, 0⟩
/-- SYS_RST_CAUSE.jtag (R279), W1C. -/
def SYS_RST_CAUSE_jtag : RF := ⟨0x40000008, 5, 1, 0⟩
/-- SYS_ACC_ERR.narrow (R280), W1C. -/
def SYS_ACC_ERR_narrow : RF := ⟨0x40000010, 0, 1, 0⟩
/-- SYS_ACC_ERR.unaligned (R280), W1C. -/
def SYS_ACC_ERR_unaligned : RF := ⟨0x40000010, 1, 1, 0⟩
/-- SYS_ACC_ERR.timeout (R280), W1C. -/
def SYS_ACC_ERR_timeout : RF := ⟨0x40000010, 2, 1, 0⟩
/-- SYS_ACC_ERR.decode (R280), W1C. -/
def SYS_ACC_ERR_decode : RF := ⟨0x40000010, 3, 1, 0⟩
/-- SYS_ACC_ERR.value (R280), W1C. -/
def SYS_ACC_ERR_value : RF := ⟨0x40000010, 4, 1, 0⟩
/-- SYS_ACC_ERR_ADDR.addr (R280), RO. -/
def SYS_ACC_ERR_ADDR_addr : RF := ⟨0x40000014, 0, 32, 0⟩
/-- SYS_ACC_ERR_INFO.kind (R280), RO. -/
def SYS_ACC_ERR_INFO_kind : RF := ⟨0x40000018, 0, 3, 0⟩
/-- SYS_ACC_ERR_INFO.write (R280), RO. -/
def SYS_ACC_ERR_INFO_write : RF := ⟨0x40000018, 3, 1, 0⟩
/-- SYS_ACC_ERR_INFO.size (R280), RO. -/
def SYS_ACC_ERR_INFO_size : RF := ⟨0x40000018, 4, 3, 0⟩
/-- SYS_ACC_ERR_INFO.master (R280), RO. -/
def SYS_ACC_ERR_INFO_master : RF := ⟨0x40000018, 7, 6, 0⟩
/-- SYS_ACC_ERR_INFO.valid (R280), W1C. -/
def SYS_ACC_ERR_INFO_valid : RF := ⟨0x40000018, 13, 1, 0⟩
/-- SYS_ACC_ERR_CNT.count (R280), CNT. -/
def SYS_ACC_ERR_CNT_count : RF := ⟨0x4000001C, 0, 32, 0⟩
/-- SYS_DEBUG.unlocked (R279), RO. -/
def SYS_DEBUG_unlocked : RF := ⟨0x40000020, 0, 1, 0⟩
/-- SYS_DEBUG.relock (R279), W1S. -/
def SYS_DEBUG_relock : RF := ⟨0x40000020, 1, 1, 0⟩
/-- SYS_SCRATCH.value (R279), RW. -/
def SYS_SCRATCH_value (i : Nat) : RF := ⟨0x40000030 + i * 0x4, 0, 32, 0⟩
/-- PINMUX_BALL.func (R286), RW. -/
def PINMUX_BALL_func (i : Nat) : RF := ⟨0x400C0000 + i * 0x4, 0, 8, 0⟩
/-- PINMUX_BALL.unit (R286), RW. -/
def PINMUX_BALL_unit (i : Nat) : RF := ⟨0x400C0000 + i * 0x4, 8, 8, 0⟩
/-- PINMUX_BALL.active (R286), RO. -/
def PINMUX_BALL_active (i : Nat) : RF := ⟨0x400C0000 + i * 0x4, 16, 1, 0⟩
/-- PINMUX_BALL.pull (R286), RW. -/
def PINMUX_BALL_pull (i : Nat) : RF := ⟨0x400C0000 + i * 0x4, 17, 2, 1⟩
/-- PINMUX_BALL.drive (R286), RW. -/
def PINMUX_BALL_drive (i : Nat) : RF := ⟨0x400C0000 + i * 0x4, 19, 2, 1⟩
/-- PINMUX_BALL.slow (R286), RW. -/
def PINMUX_BALL_slow (i : Nat) : RF := ⟨0x400C0000 + i * 0x4, 21, 1, 0⟩
/-- PINMUX_CONFLICT.flag (R286), W1C. -/
def PINMUX_CONFLICT_flag : RF := ⟨0x400C2000, 0, 1, 0⟩
/-- PINMUX_CONFLICT.kind (R286), RO. -/
def PINMUX_CONFLICT_kind : RF := ⟨0x400C2000, 1, 2, 0⟩
/-- PINMUX_CONFLICT.ball (R286), RO. -/
def PINMUX_CONFLICT_ball : RF := ⟨0x400C2000, 3, 11, 0⟩
/-- PINMUX_CONFLICT.func (R286), RO. -/
def PINMUX_CONFLICT_func : RF := ⟨0x400C2000, 14, 8, 0⟩
/-- PINMUX_CONFLICT.unit (R286), RO. -/
def PINMUX_CONFLICT_unit : RF := ⟨0x400C2000, 22, 8, 0⟩
/-- PINMUX_CONFLICT_CNT.count (R286), CNT. -/
def PINMUX_CONFLICT_CNT_count : RF := ⟨0x400C2004, 0, 32, 0⟩
/-- GPIO_IN.level (R286), RO. -/
def GPIO_IN_level : RF := ⟨0x400C3000, 0, 16, 0⟩
/-- GPIO_OUT.level (R286), RW. -/
def GPIO_OUT_level : RF := ⟨0x400C3004, 0, 16, 0⟩
/-- GPIO_OE.oe (R286), RW. -/
def GPIO_OE_oe : RF := ⟨0x400C3008, 0, 16, 0⟩
/-- XBAR_STATUS.win_bad (R316), W1C. -/
def XBAR_STATUS_win_bad : RF := ⟨0x40010000, 0, 1, 0⟩
/-- XBAR_STATUS.win_live (R316), W1C. -/
def XBAR_STATUS_win_live : RF := ⟨0x40010000, 1, 1, 0⟩
/-- XBAR_LOCK_CFG.wait_us (R316), RW. -/
def XBAR_LOCK_CFG_wait_us : RF := ⟨0x40010004, 0, 8, 4⟩
/-- XBAR_PRIO.prio (R316), RW. -/
def XBAR_PRIO_prio (i : Nat) : RF := ⟨0x40010100 + i * 0x4, 0, 3, (xbarPrioReset i)⟩
/-- XBAR_ARB_STAT.owner (R316), RO. -/
def XBAR_ARB_STAT_owner (i : Nat) : RF := ⟨0x40010400 + i * 0x10, 0, 6, 0⟩
/-- XBAR_ARB_STAT.locked (R316), RO. -/
def XBAR_ARB_STAT_locked (i : Nat) : RF := ⟨0x40010400 + i * 0x10, 6, 1, 0⟩
/-- XBAR_ARB_STAT.torn (R316), W1C. -/
def XBAR_ARB_STAT_torn (i : Nat) : RF := ⟨0x40010400 + i * 0x10, 7, 1, 0⟩
/-- XBAR_ARB_STAT.torn_master (R316), RO. -/
def XBAR_ARB_STAT_torn_master (i : Nat) : RF := ⟨0x40010400 + i * 0x10, 8, 6, 0⟩
/-- XBAR_ARB_STAT.overrun (R316), W1C. -/
def XBAR_ARB_STAT_overrun (i : Nat) : RF := ⟨0x40010400 + i * 0x10, 14, 1, 0⟩
/-- XBAR_ARB_STAT.ovr_master (R316), RO. -/
def XBAR_ARB_STAT_ovr_master (i : Nat) : RF := ⟨0x40010400 + i * 0x10, 15, 6, 0⟩
/-- XBAR_ARB_ADDR.addr (R316), RO. -/
def XBAR_ARB_ADDR_addr (i : Nat) : RF := ⟨0x40010404 + i * 0x10, 0, 32, 0⟩
/-- XBAR_ARB_NOLOCK.count (R316), CNT. -/
def XBAR_ARB_NOLOCK_count (i : Nat) : RF := ⟨0x40010408 + i * 0x10, 0, 32, 0⟩
/-- XBAR_WIN_CTRL.en (R316), RW. -/
def XBAR_WIN_CTRL_en (i : Nat) : RF := ⟨0x40010800 + i * 0x10, 0, 1, 0⟩
/-- XBAR_WIN_CTRL.remote (R316), RW. -/
def XBAR_WIN_CTRL_remote (i : Nat) : RF := ⟨0x40010800 + i * 0x10, 1, 1, 0⟩
/-- XBAR_WIN_CTRL.size (R316), RW. -/
def XBAR_WIN_CTRL_size (i : Nat) : RF := ⟨0x40010800 + i * 0x10, 2, 5, 16⟩
/-- XBAR_WIN_CTRL.engine (R316), RW. -/
def XBAR_WIN_CTRL_engine (i : Nat) : RF := ⟨0x40010800 + i * 0x10, 7, 9, 0⟩
/-- XBAR_WIN_CTRL.tmo (R316), RW. -/
def XBAR_WIN_CTRL_tmo (i : Nat) : RF := ⟨0x40010800 + i * 0x10, 16, 8, 20⟩
/-- XBAR_WIN_BASE.base (R316), RW. -/
def XBAR_WIN_BASE_base (i : Nat) : RF := ⟨0x40010804 + i * 0x10, 16, 16, 24576⟩
/-- XBAR_WIN_TGT.tgt (R316), RW. -/
def XBAR_WIN_TGT_tgt (i : Nat) : RF := ⟨0x40010808 + i * 0x10, 0, 32, 0⟩
/-- XBAR_WIN_STAT.max_cyc (R316), RO. -/
def XBAR_WIN_STAT_max_cyc (i : Nat) : RF := ⟨0x4001080C + i * 0x10, 0, 20, 0⟩
/-- XBAR_WIN_STAT.err (R316), CNT. -/
def XBAR_WIN_STAT_err (i : Nat) : RF := ⟨0x4001080C + i * 0x10, 20, 10, 0⟩
/-- XBAR_WIN_STAT.clr (R316), W1S. -/
def XBAR_WIN_STAT_clr (i : Nat) : RF := ⟨0x4001080C + i * 0x10, 31, 1, 0⟩
/-- DMA_IRQ_STAT.done (R317), W1C. -/
def DMA_IRQ_STAT_done : RF := ⟨0x40020000, 0, 16, 0⟩
/-- DMA_IRQ_STAT.err (R317), W1C. -/
def DMA_IRQ_STAT_err : RF := ⟨0x40020000, 16, 16, 0⟩
/-- DMA_IRQ_EN.en (R317), RW. -/
def DMA_IRQ_EN_en : RF := ⟨0x40020004, 0, 32, 0⟩
/-- DMA_CH_CFG.en (R317), RWH. -/
def DMA_CH_CFG_en (i : Nat) : RF := ⟨0x40020100 + i * 0x20, 0, 1, 0⟩
/-- DMA_CH_CFG.mode (R317), RW. -/
def DMA_CH_CFG_mode (i : Nat) : RF := ⟨0x40020100 + i * 0x20, 1, 1, 0⟩
/-- DMA_CH_CFG.abort (R317), W1S. -/
def DMA_CH_CFG_abort (i : Nat) : RF := ⟨0x40020100 + i * 0x20, 2, 1, 0⟩
/-- DMA_CH_CFG.prio (R317), RW. -/
def DMA_CH_CFG_prio (i : Nat) : RF := ⟨0x40020100 + i * 0x20, 3, 2, 0⟩
/-- DMA_CH_CFG.trig_kind (R317), RW. -/
def DMA_CH_CFG_trig_kind (i : Nat) : RF := ⟨0x40020100 + i * 0x20, 5, 2, 0⟩
/-- DMA_CH_CFG.trig_idx (R317), RW. -/
def DMA_CH_CFG_trig_idx (i : Nat) : RF := ⟨0x40020100 + i * 0x20, 7, 5, 0⟩
/-- DMA_CH_HEAD.addr (R317), RW. -/
def DMA_CH_HEAD_addr (i : Nat) : RF := ⟨0x40020104 + i * 0x20, 0, 32, 0⟩
/-- DMA_CH_DOORBELL.ring (R317), W1S. -/
def DMA_CH_DOORBELL_ring (i : Nat) : RF := ⟨0x40020108 + i * 0x20, 0, 1, 0⟩
/-- DMA_CH_STAT.state (R317), RO. -/
def DMA_CH_STAT_state (i : Nat) : RF := ⟨0x4002010C + i * 0x20, 0, 3, 0⟩
/-- DMA_CH_STAT.err (R317), RO. -/
def DMA_CH_STAT_err (i : Nat) : RF := ⟨0x4002010C + i * 0x20, 3, 5, 0⟩
/-- DMA_CH_STAT.pend (R317), RO. -/
def DMA_CH_STAT_pend (i : Nat) : RF := ⟨0x4002010C + i * 0x20, 8, 1, 0⟩
/-- DMA_CH_STAT.trig_lost (R317), W1C. -/
def DMA_CH_STAT_trig_lost (i : Nat) : RF := ⟨0x4002010C + i * 0x20, 9, 1, 0⟩
/-- DMA_CH_STAT.live_wr (R317), W1C. -/
def DMA_CH_STAT_live_wr (i : Nat) : RF := ⟨0x4002010C + i * 0x20, 10, 1, 0⟩
/-- DMA_CH_STAT.fw (R317), RO. -/
def DMA_CH_STAT_fw (i : Nat) : RF := ⟨0x4002010C + i * 0x20, 11, 1, 0⟩
/-- DMA_CH_CUR.addr (R317), RO. -/
def DMA_CH_CUR_addr (i : Nat) : RF := ⟨0x40020110 + i * 0x20, 0, 32, 0⟩
/-- DMA_CH_CNT.count (R317), CNT. -/
def DMA_CH_CNT_count (i : Nat) : RF := ⟨0x40020114 + i * 0x20, 0, 32, 0⟩
/-- DMA_DESC.word (R308), RW. -/
def DMA_DESC_word (i : Nat) (j : Nat) : RF := ⟨0x40028000 + i * 0x20 + j * 0x4, 0, 32, 0⟩
/-- TIME_CTRL.servo_en (R344), RW. -/
def TIME_CTRL_servo_en : RF := ⟨0x40030000, 0, 1, 0⟩
/-- TIME_CTRL.hold (R344), RW. -/
def TIME_CTRL_hold : RF := ⟨0x40030000, 1, 1, 0⟩
/-- TIME_STAT.state (R344), RO. -/
def TIME_STAT_state : RF := ⟨0x40030004, 0, 2, 0⟩
/-- TIME_STAT.refused (R344), W1C. -/
def TIME_STAT_refused : RF := ⟨0x40030004, 2, 1, 0⟩
/-- TIME_STAT.retime (R344), RO. -/
def TIME_STAT_retime : RF := ⟨0x40030004, 3, 1, 0⟩
/-- TIME_STAT.stepped (R344), W1C. -/
def TIME_STAT_stepped : RF := ⟨0x40030004, 4, 1, 0⟩
/-- TIME_FRAC.frac (R344), RO. -/
def TIME_FRAC_frac : RF := ⟨0x40030010, 0, 16, 0⟩
/-- TIME_MEAS_FRAC.frac (R344), RW. -/
def TIME_MEAS_FRAC_frac : RF := ⟨0x40030014, 0, 16, 0⟩
/-- TIME_MEAS_NS.ns (R344), RW. -/
def TIME_MEAS_NS_ns : RF := ⟨0x40030018, 0, 32, 0⟩
/-- TIME_RATE.rate (R344), RO. -/
def TIME_RATE_rate : RF := ⟨0x4003001C, 0, 32, 0⟩
/-- TIME_SERVO_CFG.kp (R344), RW. -/
def TIME_SERVO_CFG_kp : RF := ⟨0x40030020, 0, 8, 64⟩
/-- TIME_SERVO_CFG.ki (R344), RW. -/
def TIME_SERVO_CFG_ki : RF := ⟨0x40030020, 8, 8, 8⟩
/-- TIME_SERVO_CFG.log_int (R344), RW. -/
def TIME_SERVO_CFG_log_int : RF := ⟨0x40030020, 16, 4, 13⟩
/-- TIME_JUMP_THR.ns (R344), RW. -/
def TIME_JUMP_THR_ns : RF := ⟨0x40030024, 0, 30, 1000000⟩
/-- TIME_SLEW.ppb (R344), RW. -/
def TIME_SLEW_ppb : RF := ⟨0x40030028, 0, 18, 100000⟩
/-- TIME_LOCK_THR.ns (R344), RW. -/
def TIME_LOCK_THR_ns : RF := ⟨0x4003002C, 0, 16, 100⟩
/-- TIME_T64_LO.t64 (R344), RO. -/
def TIME_T64_LO_t64 : RF := ⟨0x40030008, 0, 32, 0⟩
/-- TIME_T64_HI.t64 (R344), RO. -/
def TIME_T64_HI_t64 : RF := ⟨0x4003000C, 0, 32, 0⟩
/-- TIME_REFUSED_LO.ns (R344), RO. -/
def TIME_REFUSED_LO_ns : RF := ⟨0x40030030, 0, 32, 0⟩
/-- TIME_REFUSED_HI.ns (R344), RO. -/
def TIME_REFUSED_HI_ns : RF := ⟨0x40030034, 0, 32, 0⟩
/-- TIME_TMR_CTRL.mode (R344), RW. -/
def TIME_TMR_CTRL_mode (i : Nat) : RF := ⟨0x40030100 + i * 0x20, 0, 2, 0⟩
/-- TIME_TMR_CTRL.irq (R344), RW. -/
def TIME_TMR_CTRL_irq (i : Nat) : RF := ⟨0x40030100 + i * 0x20, 2, 1, 0⟩
/-- TIME_TMR_CTRL.pin (R344), RW. -/
def TIME_TMR_CTRL_pin (i : Nat) : RF := ⟨0x40030100 + i * 0x20, 3, 1, 0⟩
/-- TIME_TMR_CTRL.width (R344), RW. -/
def TIME_TMR_CTRL_width (i : Nat) : RF := ⟨0x40030100 + i * 0x20, 4, 16, 1⟩
/-- TIME_TMR_START_LO.t64 (R344), RW. -/
def TIME_TMR_START_LO_t64 (i : Nat) : RF := ⟨0x40030104 + i * 0x20, 0, 32, 0⟩
/-- TIME_TMR_START_HI.t64 (R344), RW. -/
def TIME_TMR_START_HI_t64 (i : Nat) : RF := ⟨0x40030108 + i * 0x20, 0, 32, 0⟩
/-- TIME_TMR_PER.per (R344), RW. -/
def TIME_TMR_PER_per (i : Nat) : RF := ⟨0x4003010C + i * 0x20, 0, 32, 0⟩
/-- TIME_TMR_STAT.armed (R344), RO. -/
def TIME_TMR_STAT_armed (i : Nat) : RF := ⟨0x40030110 + i * 0x20, 0, 1, 0⟩
/-- TIME_TMR_STAT.late (R344), W1C. -/
def TIME_TMR_STAT_late (i : Nat) : RF := ⟨0x40030110 + i * 0x20, 1, 1, 0⟩
/-- TIME_TMR_STAT.fired (R344), W1C. -/
def TIME_TMR_STAT_fired (i : Nat) : RF := ⟨0x40030110 + i * 0x20, 2, 1, 0⟩
/-- TIME_TMR_STAT.live_wr (R344), W1C. -/
def TIME_TMR_STAT_live_wr (i : Nat) : RF := ⟨0x40030110 + i * 0x20, 3, 1, 0⟩
/-- TIME_CAP_CTRL.edge (R344), RW. -/
def TIME_CAP_CTRL_edge (i : Nat) : RF := ⟨0x40030800 + i * 0x20, 0, 2, 0⟩
/-- TIME_CAP_CTRL.filt (R344), RW. -/
def TIME_CAP_CTRL_filt (i : Nat) : RF := ⟨0x40030800 + i * 0x20, 2, 8, 4⟩
/-- TIME_CAP_CTRL.irq (R344), RW. -/
def TIME_CAP_CTRL_irq (i : Nat) : RF := ⟨0x40030800 + i * 0x20, 10, 1, 0⟩
/-- TIME_CAP_FRAC.frac (R344), RO. -/
def TIME_CAP_FRAC_frac (i : Nat) : RF := ⟨0x40030804 + i * 0x20, 0, 16, 0⟩
/-- TIME_CAP_FRAC.rise (R344), RO. -/
def TIME_CAP_FRAC_rise (i : Nat) : RF := ⟨0x40030804 + i * 0x20, 16, 1, 0⟩
/-- TIME_CAP_LO.t64 (R344), RO. -/
def TIME_CAP_LO_t64 (i : Nat) : RF := ⟨0x40030808 + i * 0x20, 0, 32, 0⟩
/-- TIME_CAP_HI.t64 (R344), RO. -/
def TIME_CAP_HI_t64 (i : Nat) : RF := ⟨0x4003080C + i * 0x20, 0, 32, 0⟩
/-- TIME_CAP_STAT.level (R344), RO. -/
def TIME_CAP_STAT_level (i : Nat) : RF := ⟨0x40030810 + i * 0x20, 0, 3, 0⟩
/-- TIME_CAP_STAT.ovf (R344), W1C. -/
def TIME_CAP_STAT_ovf (i : Nat) : RF := ⟨0x40030810 + i * 0x20, 3, 1, 0⟩
/-- TIME_CAP_STAT.pop (R344), W1S. -/
def TIME_CAP_STAT_pop (i : Nat) : RF := ⟨0x40030810 + i * 0x20, 4, 1, 0⟩
/-- MAC_CTRL.en (R345), RW. -/
def MAC_CTRL_en (i : Nat) : RF := ⟨0x40040000 + i * 0x10000, 0, 1, 0⟩
/-- MAC_CTRL.speed (R345), RW. -/
def MAC_CTRL_speed (i : Nat) : RF := ⟨0x40040000 + i * 0x10000, 1, 1, 0⟩
/-- MAC_CTRL.fec (R345), RW. -/
def MAC_CTRL_fec (i : Nat) : RF := ⟨0x40040000 + i * 0x10000, 2, 1, 0⟩
/-- MAC_CTRL.jumbo (R345), RW. -/
def MAC_CTRL_jumbo (i : Nat) : RF := ⟨0x40040000 + i * 0x10000, 3, 1, 1⟩
/-- MAC_CTRL.untag_ok (R345), RW. -/
def MAC_CTRL_untag_ok (i : Nat) : RF := ⟨0x40040000 + i * 0x10000, 4, 1, 1⟩
/-- MAC_CTRL.slot_en (R345), RW. -/
def MAC_CTRL_slot_en (i : Nat) : RF := ⟨0x40040000 + i * 0x10000, 5, 1, 0⟩
/-- MAC_STAT.link (R345), RO. -/
def MAC_STAT_link (i : Nat) : RF := ⟨0x40040004 + i * 0x10000, 0, 1, 0⟩
/-- MAC_STAT.fec_lock (R345), RO. -/
def MAC_STAT_fec_lock (i : Nat) : RF := ⟨0x40040004 + i * 0x10000, 1, 1, 0⟩
/-- MAC_STAT.live_wr (R345), W1C. -/
def MAC_STAT_live_wr (i : Nat) : RF := ⟨0x40040004 + i * 0x10000, 2, 1, 0⟩
/-- MAC_STAT.pause_seen (R345), W1C. -/
def MAC_STAT_pause_seen (i : Nat) : RF := ⟨0x40040004 + i * 0x10000, 3, 1, 0⟩
/-- MAC_STAT.launch_miss (R345), W1C. -/
def MAC_STAT_launch_miss (i : Nat) : RF := ⟨0x40040004 + i * 0x10000, 4, 1, 0⟩
/-- MAC_STAT.act_wr (R345), W1C. -/
def MAC_STAT_act_wr (i : Nat) : RF := ⟨0x40040004 + i * 0x10000, 5, 1, 0⟩
/-- MAC_STAT.shd_wr (R345), W1C. -/
def MAC_STAT_shd_wr (i : Nat) : RF := ⟨0x40040004 + i * 0x10000, 6, 1, 0⟩
/-- MAC_LAUNCH_TOL.tol_ns (R345), RW. -/
def MAC_LAUNCH_TOL_tol_ns (i : Nat) : RF := ⟨0x40040008 + i * 0x10000, 0, 16, 1000⟩
/-- MAC_TS_COMP.rx_ns (R345), RW. -/
def MAC_TS_COMP_rx_ns (i : Nat) : RF := ⟨0x4004000C + i * 0x10000, 0, 16, 0⟩
/-- MAC_TS_COMP.tx_ns (R345), RW. -/
def MAC_TS_COMP_tx_ns (i : Nat) : RF := ⟨0x4004000C + i * 0x10000, 16, 16, 0⟩
/-- MAC_ASYM.ns (R345), RW. -/
def MAC_ASYM_ns (i : Nat) : RF := ⟨0x40040010 + i * 0x10000, 0, 32, 0⟩
/-- MAC_SLOT_SWAP.swap_req (R345), W1S. -/
def MAC_SLOT_SWAP_swap_req (i : Nat) : RF := ⟨0x40040080 + i * 0x10000, 0, 1, 0⟩
/-- MAC_SLOT_SWAP.act_sel (R345), RO. -/
def MAC_SLOT_SWAP_act_sel (i : Nat) : RF := ⟨0x40040080 + i * 0x10000, 1, 1, 0⟩
/-- MAC_SLOT_CYC.ns (R345), RW. -/
def MAC_SLOT_CYC_ns (i : Nat) : RF := ⟨0x40040084 + i * 0x10000, 0, 30, 125000⟩
/-- MAC_Q_CFG.vid (R345), RW. -/
def MAC_Q_CFG_vid (i : Nat) (j : Nat) : RF := ⟨0x40040020 + i * 0x10000 + j * 0x4, 0, 12, 0⟩
/-- MAC_Q_CFG.pcp (R345), RW. -/
def MAC_Q_CFG_pcp (i : Nat) (j : Nat) : RF := ⟨0x40040020 + i * 0x10000 + j * 0x4, 12, 3, 0⟩
/-- MAC_Q_CFG.tag_en (R345), RW. -/
def MAC_Q_CFG_tag_en (i : Nat) (j : Nat) : RF := ⟨0x40040020 + i * 0x10000 + j * 0x4, 15, 1, 0⟩
/-- MAC_VID_FILT.vid (R345), RW. -/
def MAC_VID_FILT_vid (i : Nat) (j : Nat) : RF := ⟨0x40040040 + i * 0x10000 + j * 0x4, 0, 12, 0⟩
/-- MAC_VID_FILT.en (R345), RW. -/
def MAC_VID_FILT_en (i : Nat) (j : Nat) : RF := ⟨0x40040040 + i * 0x10000 + j * 0x4, 12, 1, 0⟩
/-- MAC_SLOT_BASE_LO.t64 (R345), RW. -/
def MAC_SLOT_BASE_LO_t64 (i : Nat) : RF := ⟨0x40040088 + i * 0x10000, 0, 32, 0⟩
/-- MAC_SLOT_BASE_HI.t64 (R345), RW. -/
def MAC_SLOT_BASE_HI_t64 (i : Nat) : RF := ⟨0x4004008C + i * 0x10000, 0, 32, 0⟩
/-- MAC_SLOT_ACT.gate (R345), RO. -/
def MAC_SLOT_ACT_gate (i : Nat) (j : Nat) : RF := ⟨0x40040100 + i * 0x10000 + j * 0x4, 0, 8, 255⟩
/-- MAC_SLOT_ACT.dur_ns (R345), RO. -/
def MAC_SLOT_ACT_dur_ns (i : Nat) (j : Nat) : RF := ⟨0x40040100 + i * 0x10000 + j * 0x4, 8, 20, 0⟩
/-- MAC_SLOT_SHD.gate (R345), RW. -/
def MAC_SLOT_SHD_gate (i : Nat) (j : Nat) : RF := ⟨0x40040200 + i * 0x10000 + j * 0x4, 0, 8, 255⟩
/-- MAC_SLOT_SHD.dur_ns (R345), RW. -/
def MAC_SLOT_SHD_dur_ns (i : Nat) (j : Nat) : RF := ⟨0x40040200 + i * 0x10000 + j * 0x4, 8, 20, 0⟩
/-- MAC_CNT.count (R345), CNT. -/
def MAC_CNT_count (i : Nat) (j : Nat) : RF := ⟨0x40040300 + i * 0x10000 + j * 0x4, 0, 32, 0⟩
/-- LANE_CTRL.state_req (R380), RW. -/
def LANE_CTRL_state_req (i : Nat) : RF := ⟨0x40060000 + i * 0x40, 0, 2, 2⟩
/-- LANE_CTRL.auto_wake (R380), RW. -/
def LANE_CTRL_auto_wake (i : Nat) : RF := ⟨0x40060000 + i * 0x40, 2, 1, 1⟩
/-- LANE_CTRL.lpbk (R380), RW. -/
def LANE_CTRL_lpbk (i : Nat) : RF := ⟨0x40060000 + i * 0x40, 3, 2, 0⟩
/-- LANE_CTRL.prbs_gen (R380), RW. -/
def LANE_CTRL_prbs_gen (i : Nat) : RF := ⟨0x40060000 + i * 0x40, 5, 2, 0⟩
/-- LANE_CTRL.prbs_chk (R380), RW. -/
def LANE_CTRL_prbs_chk (i : Nat) : RF := ⟨0x40060000 + i * 0x40, 7, 2, 0⟩
/-- LANE_CTRL.rate (R380), RW. -/
def LANE_CTRL_rate (i : Nat) : RF := ⟨0x40060000 + i * 0x40, 9, 4, 0⟩
/-- LANE_EQ.ctle (R380), RW. -/
def LANE_EQ_ctle (i : Nat) : RF := ⟨0x40060004 + i * 0x40, 0, 4, 8⟩
/-- LANE_EQ.auto (R380), RW. -/
def LANE_EQ_auto (i : Nat) : RF := ⟨0x40060004 + i * 0x40, 4, 1, 1⟩
/-- LANE_EQ.deemph (R380), RW. -/
def LANE_EQ_deemph (i : Nat) : RF := ⟨0x40060004 + i * 0x40, 5, 4, 4⟩
/-- LANE_STAT.state (R380), RO. -/
def LANE_STAT_state (i : Nat) : RF := ⟨0x40060008 + i * 0x40, 0, 2, 2⟩
/-- LANE_STAT.busy (R380), RO. -/
def LANE_STAT_busy (i : Nat) : RF := ⟨0x40060008 + i * 0x40, 2, 1, 0⟩
/-- LANE_STAT.cdr_lock (R380), RO. -/
def LANE_STAT_cdr_lock (i : Nat) : RF := ⟨0x40060008 + i * 0x40, 3, 1, 0⟩
/-- LANE_STAT.blk_lock (R380), RO. -/
def LANE_STAT_blk_lock (i : Nat) : RF := ⟨0x40060008 + i * 0x40, 4, 1, 0⟩
/-- LANE_STAT.prbs_sync (R380), RO. -/
def LANE_STAT_prbs_sync (i : Nat) : RF := ⟨0x40060008 + i * 0x40, 5, 1, 0⟩
/-- LANE_STAT.ctle_act (R380), RO. -/
def LANE_STAT_ctle_act (i : Nat) : RF := ⟨0x40060008 + i * 0x40, 6, 4, 8⟩
/-- LANE_STAT.eq_fail (R380), W1C. -/
def LANE_STAT_eq_fail (i : Nat) : RF := ⟨0x40060008 + i * 0x40, 10, 1, 0⟩
/-- LANE_STAT.live_wr (R380), W1C. -/
def LANE_STAT_live_wr (i : Nat) : RF := ⟨0x40060008 + i * 0x40, 11, 1, 0⟩
/-- LANE_PRBS_ERR.count (R380), CNT. -/
def LANE_PRBS_ERR_count (i : Nat) : RF := ⟨0x4006000C + i * 0x40, 0, 32, 0⟩
/-- GNOGO_ROLE.engine_id (R381), RO. -/
def GNOGO_ROLE_engine_id : RF := ⟨0x40070000, 0, 9, 0⟩
/-- GNOGO_ROLE.role (R381), RO. -/
def GNOGO_ROLE_role : RF := ⟨0x40070000, 9, 3, 0⟩
/-- GNOGO_ROLE.twin (R381), RO. -/
def GNOGO_ROLE_twin : RF := ⟨0x40070000, 12, 2, 0⟩
/-- GNOGO_ROLE.enrolled (R381), RO. -/
def GNOGO_ROLE_enrolled : RF := ⟨0x40070000, 14, 1, 0⟩
/-- GNOGO_ROLE.frozen (R381), RO. -/
def GNOGO_ROLE_frozen : RF := ⟨0x40070000, 15, 1, 0⟩
/-- GNOGO_STAT.stale_rx (R381), W1C. -/
def GNOGO_STAT_stale_rx : RF := ⟨0x40070004, 0, 1, 0⟩
/-- GNOGO_STAT.rpt_drop (R381), W1C. -/
def GNOGO_STAT_rpt_drop : RF := ⟨0x40070004, 1, 1, 0⟩
/-- GNOGO_RPT_DROP.count (R381), CNT. -/
def GNOGO_RPT_DROP_count : RF := ⟨0x40070008, 0, 32, 0⟩
/-- GNOGO_LINK_CTRL.en (R381), RW. -/
def GNOGO_LINK_CTRL_en (i : Nat) : RF := ⟨0x40070100 + i * 0x40, 0, 1, 0⟩
/-- GNOGO_LINK_CTRL.rate (R381), RW. -/
def GNOGO_LINK_CTRL_rate (i : Nat) : RF := ⟨0x40070100 + i * 0x40, 1, 1, 0⟩
/-- GNOGO_LINK_CTRL.port (R381), RW. -/
def GNOGO_LINK_CTRL_port (i : Nat) : RF := ⟨0x40070100 + i * 0x40, 2, 2, 0⟩
/-- GNOGO_LINK_STAT.state (R381), RO. -/
def GNOGO_LINK_STAT_state (i : Nat) : RF := ⟨0x40070104 + i * 0x40, 0, 2, 0⟩
/-- GNOGO_LINK_STAT.peer (R381), RO. -/
def GNOGO_LINK_STAT_peer (i : Nat) : RF := ⟨0x40070104 + i * 0x40, 2, 9, 0⟩
/-- GNOGO_LINK_STAT.peer_valid (R381), RO. -/
def GNOGO_LINK_STAT_peer_valid (i : Nat) : RF := ⟨0x40070104 + i * 0x40, 11, 1, 0⟩
/-- GNOGO_LINK_STAT.retry_lim (R381), W1C. -/
def GNOGO_LINK_STAT_retry_lim (i : Nat) : RF := ⟨0x40070104 + i * 0x40, 12, 1, 0⟩
/-- GNOGO_LINK_STAT.live_wr (R381), W1C. -/
def GNOGO_LINK_STAT_live_wr (i : Nat) : RF := ⟨0x40070104 + i * 0x40, 13, 1, 0⟩
/-- GNOGO_LINK_DLY.dly (R381), RO. -/
def GNOGO_LINK_DLY_dly (i : Nat) : RF := ⟨0x40070108 + i * 0x40, 0, 32, 0⟩
/-- GNOGO_TUN_ADDR.ipv4 (R381), RW. -/
def GNOGO_TUN_ADDR_ipv4 (i : Nat) : RF := ⟨0x4007010C + i * 0x40, 0, 32, 0⟩
/-- GNOGO_LINK_CNT.count (R381), CNT. -/
def GNOGO_LINK_CNT_count (i : Nat) (j : Nat) : RF := ⟨0x40070110 + i * 0x40 + j * 0x4, 0, 32, 0⟩
/-- SAP_CTRL.en (R404), RW. -/
def SAP_CTRL_en (i : Nat) : RF := ⟨0x40090000 + i * 0x400, 0, 1, 0⟩
/-- SAP_CTRL.master (R404), RW. -/
def SAP_CTRL_master (i : Nat) : RF := ⟨0x40090000 + i * 0x400, 1, 1, 0⟩
/-- SAP_CTRL.fmt (R404), RW. -/
def SAP_CTRL_fmt (i : Nat) : RF := ⟨0x40090000 + i * 0x400, 2, 2, 0⟩
/-- SAP_CTRL.slots_m1 (R404), RW. -/
def SAP_CTRL_slots_m1 (i : Nat) : RF := ⟨0x40090000 + i * 0x400, 4, 5, 1⟩
/-- SAP_CTRL.width (R404), RW. -/
def SAP_CTRL_width (i : Nat) : RF := ⟨0x40090000 + i * 0x400, 9, 2, 2⟩
/-- SAP_CTRL.wlen (R404), RW. -/
def SAP_CTRL_wlen (i : Nat) : RF := ⟨0x40090000 + i * 0x400, 11, 2, 1⟩
/-- SAP_CTRL.bclk_pol (R404), RW. -/
def SAP_CTRL_bclk_pol (i : Nat) : RF := ⟨0x40090000 + i * 0x400, 13, 1, 0⟩
/-- SAP_CTRL.fs_pol (R404), RW. -/
def SAP_CTRL_fs_pol (i : Nat) : RF := ⟨0x40090000 + i * 0x400, 14, 1, 0⟩
/-- SAP_CTRL.fs_dly (R404), RW. -/
def SAP_CTRL_fs_dly (i : Nat) : RF := ⟨0x40090000 + i * 0x400, 15, 1, 1⟩
/-- SAP_CTRL.group (R404), RW. -/
def SAP_CTRL_group (i : Nat) : RF := ⟨0x40090000 + i * 0x400, 16, 3, 0⟩
/-- SAP_CTRL.grp_en (R404), RW. -/
def SAP_CTRL_grp_en (i : Nat) : RF := ⟨0x40090000 + i * 0x400, 19, 1, 0⟩
/-- SAP_STAT.state (R404), RO. -/
def SAP_STAT_state (i : Nat) : RF := ⟨0x40090004 + i * 0x400, 0, 3, 0⟩
/-- SAP_STAT.clk_stop (R404), W1C. -/
def SAP_STAT_clk_stop (i : Nat) : RF := ⟨0x40090004 + i * 0x400, 3, 1, 0⟩
/-- SAP_STAT.glitch (R404), W1C. -/
def SAP_STAT_glitch (i : Nat) : RF := ⟨0x40090004 + i * 0x400, 4, 1, 0⟩
/-- SAP_STAT.rate_chg (R404), W1C. -/
def SAP_STAT_rate_chg (i : Nat) : RF := ⟨0x40090004 + i * 0x400, 5, 1, 0⟩
/-- SAP_STAT.cfg_bad (R404), W1C. -/
def SAP_STAT_cfg_bad (i : Nat) : RF := ⟨0x40090004 + i * 0x400, 6, 1, 0⟩
/-- SAP_STAT.act_wr (R404), W1C. -/
def SAP_STAT_act_wr (i : Nat) : RF := ⟨0x40090004 + i * 0x400, 7, 1, 0⟩
/-- SAP_STAT.shd_wr (R404), W1C. -/
def SAP_STAT_shd_wr (i : Nat) : RF := ⟨0x40090004 + i * 0x400, 8, 1, 0⟩
/-- SAP_STAT.live_wr (R404), W1C. -/
def SAP_STAT_live_wr (i : Nat) : RF := ⟨0x40090004 + i * 0x400, 9, 1, 0⟩
/-- SAP_STAT.rate (R404), RO. -/
def SAP_STAT_rate (i : Nat) : RF := ⟨0x40090004 + i * 0x400, 10, 4, 15⟩
/-- SAP_SLOT_SWAP.swap_req (R404), W1S. -/
def SAP_SLOT_SWAP_swap_req (i : Nat) : RF := ⟨0x40090008 + i * 0x400, 0, 1, 0⟩
/-- SAP_SLOT_SWAP.act_sel (R404), RO. -/
def SAP_SLOT_SWAP_act_sel (i : Nat) : RF := ⟨0x40090008 + i * 0x400, 1, 1, 0⟩
/-- SAP_POS_LO.pos (R404), RO. -/
def SAP_POS_LO_pos (i : Nat) : RF := ⟨0x40090010 + i * 0x400, 0, 32, 0⟩
/-- SAP_POS_HI.pos (R404), RO. -/
def SAP_POS_HI_pos (i : Nat) : RF := ⟨0x40090014 + i * 0x400, 0, 32, 0⟩
/-- SAP_CNT.count (R404), CNT. -/
def SAP_CNT_count (i : Nat) (j : Nat) : RF := ⟨0x40090020 + i * 0x400 + j * 0x4, 0, 32, 0⟩
/-- SAP_SLOTMAP_ACT.in_chan (R404), RO. -/
def SAP_SLOTMAP_ACT_in_chan (i : Nat) (j : Nat) : RF := ⟨0x40090100 + i * 0x400 + j * 0x4, 0, 8, 0⟩
/-- SAP_SLOTMAP_ACT.out_chan (R404), RO. -/
def SAP_SLOTMAP_ACT_out_chan (i : Nat) (j : Nat) : RF := ⟨0x40090100 + i * 0x400 + j * 0x4, 8, 8, 0⟩
/-- SAP_SLOTMAP_ACT.in_en (R404), RO. -/
def SAP_SLOTMAP_ACT_in_en (i : Nat) (j : Nat) : RF := ⟨0x40090100 + i * 0x400 + j * 0x4, 16, 1, 0⟩
/-- SAP_SLOTMAP_ACT.out_en (R404), RO. -/
def SAP_SLOTMAP_ACT_out_en (i : Nat) (j : Nat) : RF := ⟨0x40090100 + i * 0x400 + j * 0x4, 17, 1, 0⟩
/-- SAP_SLOTMAP_ACT.in_asrc (R404), RO. -/
def SAP_SLOTMAP_ACT_in_asrc (i : Nat) (j : Nat) : RF := ⟨0x40090100 + i * 0x400 + j * 0x4, 18, 1, 0⟩
/-- SAP_SLOTMAP_ACT.out_asrc (R404), RO. -/
def SAP_SLOTMAP_ACT_out_asrc (i : Nat) (j : Nat) : RF := ⟨0x40090100 + i * 0x400 + j * 0x4, 19, 1, 0⟩
/-- SAP_SLOTMAP_SHD.in_chan (R404), RW. -/
def SAP_SLOTMAP_SHD_in_chan (i : Nat) (j : Nat) : RF := ⟨0x40090200 + i * 0x400 + j * 0x4, 0, 8, 0⟩
/-- SAP_SLOTMAP_SHD.out_chan (R404), RW. -/
def SAP_SLOTMAP_SHD_out_chan (i : Nat) (j : Nat) : RF := ⟨0x40090200 + i * 0x400 + j * 0x4, 8, 8, 0⟩
/-- SAP_SLOTMAP_SHD.in_en (R404), RW. -/
def SAP_SLOTMAP_SHD_in_en (i : Nat) (j : Nat) : RF := ⟨0x40090200 + i * 0x400 + j * 0x4, 16, 1, 0⟩
/-- SAP_SLOTMAP_SHD.out_en (R404), RW. -/
def SAP_SLOTMAP_SHD_out_en (i : Nat) (j : Nat) : RF := ⟨0x40090200 + i * 0x400 + j * 0x4, 17, 1, 0⟩
/-- SAP_SLOTMAP_SHD.in_asrc (R404), RW. -/
def SAP_SLOTMAP_SHD_in_asrc (i : Nat) (j : Nat) : RF := ⟨0x40090200 + i * 0x400 + j * 0x4, 18, 1, 0⟩
/-- SAP_SLOTMAP_SHD.out_asrc (R404), RW. -/
def SAP_SLOTMAP_SHD_out_asrc (i : Nat) (j : Nat) : RF := ⟨0x40090200 + i * 0x400 + j * 0x4, 19, 1, 0⟩
/-- SAP_GRP_CTRL.src (R404), RW. -/
def SAP_GRP_CTRL_src (i : Nat) : RF := ⟨0x40098000 + i * 0x10, 0, 1, 0⟩
/-- SAP_GRP_CTRL.tmr (R404), RW. -/
def SAP_GRP_CTRL_tmr (i : Nat) : RF := ⟨0x40098000 + i * 0x10, 1, 5, 1⟩
/-- SAP_GRP_CTRL.arm (R404), W1S. -/
def SAP_GRP_CTRL_arm (i : Nat) : RF := ⟨0x40098000 + i * 0x10, 6, 1, 0⟩
/-- SAP_GRP_START_LO.t64 (R404), RW. -/
def SAP_GRP_START_LO_t64 (i : Nat) : RF := ⟨0x40098004 + i * 0x10, 0, 32, 0⟩
/-- SAP_GRP_START_HI.t64 (R404), RW. -/
def SAP_GRP_START_HI_t64 (i : Nat) : RF := ⟨0x40098008 + i * 0x10, 0, 32, 0⟩
/-- SAP_GRP_STAT.armed (R404), RO. -/
def SAP_GRP_STAT_armed (i : Nat) : RF := ⟨0x4009800C + i * 0x10, 0, 1, 0⟩
/-- SAP_GRP_STAT.started (R404), RO. -/
def SAP_GRP_STAT_started (i : Nat) : RF := ⟨0x4009800C + i * 0x10, 1, 1, 0⟩
/-- SAP_GRP_STAT.late (R404), W1C. -/
def SAP_GRP_STAT_late (i : Nat) : RF := ⟨0x4009800C + i * 0x10, 2, 1, 0⟩
/-- SAP_VCXO_CTRL.en (R404), RW. -/
def SAP_VCXO_CTRL_en : RF := ⟨0x40099000, 0, 1, 0⟩
/-- SAP_VCXO_CTRL.kind (R404), RW. -/
def SAP_VCXO_CTRL_kind : RF := ⟨0x40099000, 1, 1, 0⟩
/-- SAP_VCXO_CTRL.unit (R404), RW. -/
def SAP_VCXO_CTRL_unit : RF := ⟨0x40099000, 2, 5, 0⟩
/-- SAP_VCXO_CTRL.bw (R404), RW. -/
def SAP_VCXO_CTRL_bw : RF := ⟨0x40099000, 7, 3, 2⟩
/-- SAP_VCXO_STAT.lock (R404), RO. -/
def SAP_VCXO_STAT_lock : RF := ⟨0x40099004, 0, 1, 0⟩
/-- SAP_VCXO_STAT.rail (R404), W1C. -/
def SAP_VCXO_STAT_rail : RF := ⟨0x40099004, 1, 1, 0⟩
/-- SAP_VCXO_STAT.offset (R404), RO. -/
def SAP_VCXO_STAT_offset : RF := ⟨0x40099004, 16, 16, 0⟩
/-- SAP_VCXO_CODE.code (R404), RWH. -/
def SAP_VCXO_CODE_code : RF := ⟨0x40099008, 0, 16, 32768⟩
/-- AES_RX_CTRL.en (R405), RW. -/
def AES_RX_CTRL_en (i : Nat) : RF := ⟨0x400A0000 + i * 0x100, 0, 1, 0⟩
/-- AES_RX_CTRL.v_conceal (R405), RW. -/
def AES_RX_CTRL_v_conceal (i : Nat) : RF := ⟨0x400A0000 + i * 0x100, 1, 1, 0⟩
/-- AES_RX_CTRL.crc_chk (R405), RW. -/
def AES_RX_CTRL_crc_chk (i : Nat) : RF := ⟨0x400A0000 + i * 0x100, 2, 1, 1⟩
/-- AES_RX_STAT.lock (R405), RO. -/
def AES_RX_STAT_lock (i : Nat) : RF := ⟨0x400A0004 + i * 0x100, 0, 2, 0⟩
/-- AES_RX_STAT.pro (R405), RO. -/
def AES_RX_STAT_pro (i : Nat) : RF := ⟨0x400A0004 + i * 0x100, 2, 1, 0⟩
/-- AES_RX_STAT.clk_stop (R405), W1C. -/
def AES_RX_STAT_clk_stop (i : Nat) : RF := ⟨0x400A0004 + i * 0x100, 3, 1, 0⟩
/-- AES_RX_STAT.glitch (R405), W1C. -/
def AES_RX_STAT_glitch (i : Nat) : RF := ⟨0x400A0004 + i * 0x100, 4, 1, 0⟩
/-- AES_RX_STAT.rate_chg (R405), W1C. -/
def AES_RX_STAT_rate_chg (i : Nat) : RF := ⟨0x400A0004 + i * 0x100, 5, 1, 0⟩
/-- AES_RX_STAT.crc_err (R405), W1C. -/
def AES_RX_STAT_crc_err (i : Nat) : RF := ⟨0x400A0004 + i * 0x100, 6, 1, 0⟩
/-- AES_RX_STAT.v_seen (R405), W1C. -/
def AES_RX_STAT_v_seen (i : Nat) : RF := ⟨0x400A0004 + i * 0x100, 7, 1, 0⟩
/-- AES_RX_STAT.cs_new (R405), W1C. -/
def AES_RX_STAT_cs_new (i : Nat) : RF := ⟨0x400A0004 + i * 0x100, 8, 1, 0⟩
/-- AES_RX_STAT.rate (R405), RO. -/
def AES_RX_STAT_rate (i : Nat) : RF := ⟨0x400A0004 + i * 0x100, 9, 4, 15⟩
/-- AES_RX_CS_SEQ.seq (R405), RO. -/
def AES_RX_CS_SEQ_seq (i : Nat) : RF := ⟨0x400A0008 + i * 0x100, 0, 16, 0⟩
/-- AES_RX_CNT.count (R405), CNT. -/
def AES_RX_CNT_count (i : Nat) (j : Nat) : RF := ⟨0x400A0010 + i * 0x100 + j * 0x4, 0, 32, 0⟩
/-- AES_RX_CS.bytes (R405), RO. -/
def AES_RX_CS_bytes (i : Nat) (j : Nat) (k : Nat) : RF := ⟨0x400A0020 + i * 0x100 + j * 0x18 + k * 0x4, 0, 32, 0⟩
/-- AES_RX_UB.bytes (R405), RO. -/
def AES_RX_UB_bytes (i : Nat) (j : Nat) (k : Nat) : RF := ⟨0x400A0050 + i * 0x100 + j * 0x18 + k * 0x4, 0, 32, 0⟩
/-- AES_TX_CTRL.en (R405), RW. -/
def AES_TX_CTRL_en (i : Nat) : RF := ⟨0x400A1000 + i * 0x100, 0, 1, 0⟩
/-- AES_TX_CTRL.crc_gen (R405), RW. -/
def AES_TX_CTRL_crc_gen (i : Nat) : RF := ⟨0x400A1000 + i * 0x100, 1, 1, 1⟩
/-- AES_TX_CTRL.v_mode (R405), RW. -/
def AES_TX_CTRL_v_mode (i : Nat) : RF := ⟨0x400A1000 + i * 0x100, 2, 2, 1⟩
/-- AES_TX_CTRL.u_en (R405), RW. -/
def AES_TX_CTRL_u_en (i : Nat) : RF := ⟨0x400A1000 + i * 0x100, 4, 1, 0⟩
/-- AES_TX_STAT.act_wr (R405), W1C. -/
def AES_TX_STAT_act_wr (i : Nat) : RF := ⟨0x400A1004 + i * 0x100, 0, 1, 0⟩
/-- AES_TX_STAT.shd_wr (R405), W1C. -/
def AES_TX_STAT_shd_wr (i : Nat) : RF := ⟨0x400A1004 + i * 0x100, 1, 1, 0⟩
/-- AES_TX_CS_SWAP.swap_req (R405), W1S. -/
def AES_TX_CS_SWAP_swap_req (i : Nat) : RF := ⟨0x400A1008 + i * 0x100, 0, 1, 0⟩
/-- AES_TX_CS_SWAP.act_sel (R405), RO. -/
def AES_TX_CS_SWAP_act_sel (i : Nat) : RF := ⟨0x400A1008 + i * 0x100, 1, 1, 0⟩
/-- AES_TX_CS_ACT.bytes (R405), RO. -/
def AES_TX_CS_ACT_bytes (i : Nat) (j : Nat) (k : Nat) : RF := ⟨0x400A1020 + i * 0x100 + j * 0x18 + k * 0x4, 0, 32, 0⟩
/-- AES_TX_CS_SHD.bytes (R405), RW. -/
def AES_TX_CS_SHD_bytes (i : Nat) (j : Nat) (k : Nat) : RF := ⟨0x400A1050 + i * 0x100 + j * 0x18 + k * 0x4, 0, 32, 0⟩
/-- AES_TX_UB.bytes (R405), RW. -/
def AES_TX_UB_bytes (i : Nat) (j : Nat) (k : Nat) : RF := ⟨0x400A1080 + i * 0x100 + j * 0x18 + k * 0x4, 0, 32, 0⟩
/-- ASRC_CH_CTRL.en (R406), RW. -/
def ASRC_CH_CTRL_en (i : Nat) : RF := ⟨0x400B0000 + i * 0x10, 0, 1, 0⟩
/-- ASRC_CH_CTRL.dir (R406), RW. -/
def ASRC_CH_CTRL_dir (i : Nat) : RF := ⟨0x400B0000 + i * 0x10, 1, 1, 0⟩
/-- ASRC_CH_CTRL.kind (R406), RW. -/
def ASRC_CH_CTRL_kind (i : Nat) : RF := ⟨0x400B0000 + i * 0x10, 2, 1, 0⟩
/-- ASRC_CH_CTRL.unit (R406), RW. -/
def ASRC_CH_CTRL_unit (i : Nat) : RF := ⟨0x400B0000 + i * 0x10, 3, 5, 0⟩
/-- ASRC_CH_CTRL.slot (R406), RW. -/
def ASRC_CH_CTRL_slot (i : Nat) : RF := ⟨0x400B0000 + i * 0x10, 8, 5, 0⟩
/-- ASRC_CH_STAT.state (R406), RO. -/
def ASRC_CH_STAT_state (i : Nat) : RF := ⟨0x400B0004 + i * 0x10, 0, 2, 0⟩
/-- ASRC_CH_STAT.live_wr (R406), W1C. -/
def ASRC_CH_STAT_live_wr (i : Nat) : RF := ⟨0x400B0004 + i * 0x10, 2, 1, 0⟩
/-- ASRC_CH_STAT.unlock (R406), W1C. -/
def ASRC_CH_STAT_unlock (i : Nat) : RF := ⟨0x400B0004 + i * 0x10, 3, 1, 0⟩
/-- ASRC_CH_RATIO.ratio (R406), RO. -/
def ASRC_CH_RATIO_ratio (i : Nat) : RF := ⟨0x400B0008 + i * 0x10, 0, 32, 0⟩
/-- CLK_CTRL.en (R421), RW. -/
def CLK_CTRL_en : RF := ⟨0x40100000, 0, 1, 0⟩
/-- CLK_CTRL.family (R421), RW. -/
def CLK_CTRL_family : RF := ⟨0x40100000, 1, 1, 0⟩
/-- CLK_CTRL.open (R421), RW. -/
def CLK_CTRL_open : RF := ⟨0x40100000, 2, 1, 0⟩
/-- CLK_CTRL.force_en (R421), RW. -/
def CLK_CTRL_force_en : RF := ⟨0x40100000, 3, 1, 0⟩
/-- CLK_CTRL.force_ref (R421), RW. -/
def CLK_CTRL_force_ref : RF := ⟨0x40100000, 4, 4, 0⟩
/-- CLK_STAT.state (R421), RO. -/
def CLK_STAT_state : RF := ⟨0x40100004, 0, 3, 0⟩
/-- CLK_STAT.sel (R421), RO. -/
def CLK_STAT_sel : RF := ⟨0x40100004, 3, 4, 15⟩
/-- CLK_STAT.quality (R421), RO. -/
def CLK_STAT_quality : RF := ⟨0x40100004, 7, 4, 15⟩
/-- CLK_STAT.dpll_lock (R421), RO. -/
def CLK_STAT_dpll_lock : RF := ⟨0x40100004, 11, 1, 0⟩
/-- CLK_STAT.warn (R421), W1C. -/
def CLK_STAT_warn : RF := ⟨0x40100004, 12, 1, 0⟩
/-- CLK_STAT.lost (R421), W1C. -/
def CLK_STAT_lost : RF := ⟨0x40100004, 13, 1, 0⟩
/-- CLK_QUAL0.soft_maj (R421), RW. -/
def CLK_QUAL0_soft_maj : RF := ⟨0x40100008, 0, 8, 20⟩
/-- CLK_QUAL0.hard_maj (R421), RW. -/
def CLK_QUAL0_hard_maj : RF := ⟨0x40100008, 8, 8, 100⟩
/-- CLK_QUAL0.soft_xo (R421), RW. -/
def CLK_QUAL0_soft_xo : RF := ⟨0x40100008, 16, 8, 10⟩
/-- CLK_QUAL0.hard_xo (R421), RW. -/
def CLK_QUAL0_hard_xo : RF := ⟨0x40100008, 24, 8, 50⟩
/-- CLK_QUAL1.drift (R421), RW. -/
def CLK_QUAL1_drift : RF := ⟨0x4010000C, 0, 8, 5⟩
/-- CLK_QUAL1.persist (R421), RW. -/
def CLK_QUAL1_persist : RF := ⟨0x4010000C, 8, 8, 10⟩
/-- CLK_HOLD_CFG.max_min (R421), RW. -/
def CLK_HOLD_CFG_max_min : RF := ⟨0x40100010, 0, 16, 1440⟩
/-- CLK_STEER.rate (R421), RW. -/
def CLK_STEER_rate : RF := ⟨0x40100014, 0, 32, 0⟩
/-- CLK_SW_CNT.count (R421), CNT. -/
def CLK_SW_CNT_count : RF := ⟨0x40100018, 0, 32, 0⟩
/-- CLK_REF_CFG.en (R421), RW. -/
def CLK_REF_CFG_en (i : Nat) : RF := ⟨0x40100100 + i * 0x10, 0, 1, 0⟩
/-- CLK_REF_CFG.kind (R421), RW. -/
def CLK_REF_CFG_kind (i : Nat) : RF := ⟨0x40100100 + i * 0x10, 1, 2, 0⟩
/-- CLK_REF_CFG.qual (R421), RW. -/
def CLK_REF_CFG_qual (i : Nat) : RF := ⟨0x40100100 + i * 0x10, 3, 4, 8⟩
/-- CLK_REF_CFG.prio (R421), RW. -/
def CLK_REF_CFG_prio (i : Nat) : RF := ⟨0x40100100 + i * 0x10, 7, 8, 128⟩
/-- CLK_REF_CFG.port_aes (R421), RW. -/
def CLK_REF_CFG_port_aes (i : Nat) : RF := ⟨0x40100100 + i * 0x10, 15, 1, 0⟩
/-- CLK_REF_CFG.unit (R421), RW. -/
def CLK_REF_CFG_unit (i : Nat) : RF := ⟨0x40100100 + i * 0x10, 16, 5, 0⟩
/-- CLK_REF_WTR.wtr (R421), RW. -/
def CLK_REF_WTR_wtr (i : Nat) : RF := ⟨0x40100104 + i * 0x10, 0, 12, 10⟩
/-- CLK_REF_STAT.state (R421), RO. -/
def CLK_REF_STAT_state (i : Nat) : RF := ⟨0x40100108 + i * 0x10, 0, 3, 0⟩
/-- CLK_REF_STAT.qual_act (R421), RO. -/
def CLK_REF_STAT_qual_act (i : Nat) : RF := ⟨0x40100108 + i * 0x10, 3, 4, 15⟩
/-- CLK_REF_STAT.soft (R421), W1C. -/
def CLK_REF_STAT_soft (i : Nat) : RF := ⟨0x40100108 + i * 0x10, 7, 1, 0⟩
/-- CLK_REF_STAT.wtr_left (R421), RO. -/
def CLK_REF_STAT_wtr_left (i : Nat) : RF := ⟨0x40100108 + i * 0x10, 8, 12, 0⟩
/-- CLK_REF_FREQ.ppb (R421), RO. -/
def CLK_REF_FREQ_ppb (i : Nat) : RF := ⟨0x4010010C + i * 0x10, 0, 32, 0⟩
/-- AMP_CARRIER.freq (R439), RW. -/
def AMP_CARRIER_freq (i : Nat) : RF := ⟨0x40110040 + i * 0x4, 0, 15, 0⟩
/-- AMP_CARRIER.guard (R439), RW. -/
def AMP_CARRIER_guard (i : Nat) : RF := ⟨0x40110040 + i * 0x4, 15, 5, 10⟩
/-- AMP_CARRIER.en (R439), RW. -/
def AMP_CARRIER_en (i : Nat) : RF := ⟨0x40110040 + i * 0x4, 20, 1, 0⟩
/-- AMP_CTRL.en (R439), RW. -/
def AMP_CTRL_en (i : Nat) : RF := ⟨0x40110100 + i * 0x40, 0, 1, 0⟩
/-- AMP_CTRL.mode (R439), RW. -/
def AMP_CTRL_mode (i : Nat) : RF := ⟨0x40110100 + i * 0x40, 1, 1, 0⟩
/-- AMP_CTRL.unlatch (R439), W1S. -/
def AMP_CTRL_unlatch (i : Nat) : RF := ⟨0x40110100 + i * 0x40, 2, 1, 0⟩
/-- AMP_CTRL.retry_en (R439), RW. -/
def AMP_CTRL_retry_en (i : Nat) : RF := ⟨0x40110100 + i * 0x40, 3, 1, 1⟩
/-- AMP_CFG.vfs (R439), RW. -/
def AMP_CFG_vfs (i : Nat) : RF := ⟨0x40110104 + i * 0x40, 0, 15, 0⟩
/-- AMP_CFG.dead (R439), RW. -/
def AMP_CFG_dead (i : Nat) : RF := ⟨0x40110104 + i * 0x40, 15, 7, 30⟩
/-- AMP_CFG.group (R439), RW. -/
def AMP_CFG_group (i : Nat) : RF := ⟨0x40110104 + i * 0x40, 22, 2, 0⟩
/-- AMP_OSC.f_idle (R439), RW. -/
def AMP_OSC_f_idle (i : Nat) : RF := ⟨0x40110108 + i * 0x40, 0, 10, 400⟩
/-- AMP_OSC.f_floor (R439), RW. -/
def AMP_OSC_f_floor (i : Nat) : RF := ⟨0x40110108 + i * 0x40, 10, 10, 200⟩
/-- AMP_OSC.f_ol (R439), RW. -/
def AMP_OSC_f_ol (i : Nat) : RF := ⟨0x40110108 + i * 0x40, 20, 10, 400⟩
/-- AMP_BAND.f_lo (R439), RW. -/
def AMP_BAND_f_lo (i : Nat) : RF := ⟨0x4011010C + i * 0x40, 0, 10, 0⟩
/-- AMP_BAND.f_hi (R439), RW. -/
def AMP_BAND_f_hi (i : Nat) : RF := ⟨0x4011010C + i * 0x40, 10, 10, 0⟩
/-- AMP_PROT.ilim (R439), RW. -/
def AMP_PROT_ilim (i : Nat) : RF := ⟨0x40110110 + i * 0x40, 0, 10, 200⟩
/-- AMP_PROT.dc_thr (R439), RW. -/
def AMP_PROT_dc_thr (i : Nat) : RF := ⟨0x40110110 + i * 0x40, 10, 8, 32⟩
/-- AMP_PROT.dc_en (R439), RW. -/
def AMP_PROT_dc_en (i : Nat) : RF := ⟨0x40110110 + i * 0x40, 18, 1, 1⟩
/-- AMP_STAT.state (R439), RO. -/
def AMP_STAT_state (i : Nat) : RF := ⟨0x40110114 + i * 0x40, 0, 3, 0⟩
/-- AMP_STAT.tripped (R439), W1C. -/
def AMP_STAT_tripped (i : Nat) : RF := ⟨0x40110114 + i * 0x40, 3, 1, 0⟩
/-- AMP_STAT.latched (R439), RO. -/
def AMP_STAT_latched (i : Nat) : RF := ⟨0x40110114 + i * 0x40, 4, 1, 0⟩
/-- AMP_STAT.steer_bad (R439), W1C. -/
def AMP_STAT_steer_bad (i : Nat) : RF := ⟨0x40110114 + i * 0x40, 5, 1, 0⟩
/-- AMP_STAT.live_wr (R439), W1C. -/
def AMP_STAT_live_wr (i : Nat) : RF := ⟨0x40110114 + i * 0x40, 6, 1, 0⟩
/-- AMP_STAT.dac_clip (R439), W1C. -/
def AMP_STAT_dac_clip (i : Nat) : RF := ⟨0x40110114 + i * 0x40, 7, 1, 0⟩
/-- AMP_STAT.cause (R439), RO. -/
def AMP_STAT_cause (i : Nat) : RF := ⟨0x40110114 + i * 0x40, 8, 3, 0⟩
/-- AMP_STAT.ilim_act (R439), RO. -/
def AMP_STAT_ilim_act (i : Nat) : RF := ⟨0x40110114 + i * 0x40, 11, 1, 0⟩
/-- AMP_TRIP_CNT.count (R439), CNT. -/
def AMP_TRIP_CNT_count (i : Nat) : RF := ⟨0x40110118 + i * 0x40, 0, 32, 0⟩
/-- AMP_MEAS.i_pk (R439), RO. -/
def AMP_MEAS_i_pk (i : Nat) : RF := ⟨0x4011011C + i * 0x40, 0, 16, 0⟩
/-- AMP_MEAS.dc (R439), RO. -/
def AMP_MEAS_dc (i : Nat) : RF := ⟨0x4011011C + i * 0x40, 16, 16, 0⟩
/-- BOOST_CTRL.en (R440), RW. -/
def BOOST_CTRL_en (i : Nat) : RF := ⟨0x40120000 + i * 0x40, 0, 1, 0⟩
/-- BOOST_CTRL.la_extra (R440), RW. -/
def BOOST_CTRL_la_extra (i : Nat) : RF := ⟨0x40120000 + i * 0x40, 1, 2, 0⟩
/-- BOOST_CTRL.fsw (R440), RW. -/
def BOOST_CTRL_fsw (i : Nat) : RF := ⟨0x40120000 + i * 0x40, 3, 9, 250⟩
/-- BOOST_RAIL.v_min (R440), RW. -/
def BOOST_RAIL_v_min (i : Nat) : RF := ⟨0x40120004 + i * 0x40, 0, 15, 5120⟩
/-- BOOST_RAIL.v_max (R440), RW. -/
def BOOST_RAIL_v_max (i : Nat) : RF := ⟨0x40120004 + i * 0x40, 16, 15, 12800⟩
/-- BOOST_SLEW.up (R440), RW. -/
def BOOST_SLEW_up (i : Nat) : RF := ⟨0x40120008 + i * 0x40, 0, 12, 64⟩
/-- BOOST_SLEW.down (R440), RW. -/
def BOOST_SLEW_down (i : Nat) : RF := ⟨0x40120008 + i * 0x40, 12, 12, 16⟩
/-- BOOST_OVP.ovp (R440), RW. -/
def BOOST_OVP_ovp (i : Nat) : RF := ⟨0x4012000C + i * 0x40, 0, 15, 20480⟩
/-- BOOST_OVP.track (R440), RW. -/
def BOOST_OVP_track (i : Nat) : RF := ⟨0x4012000C + i * 0x40, 15, 8, 64⟩
/-- BOOST_SCALE.vs_div (R440), RW. -/
def BOOST_SCALE_vs_div (i : Nat) : RF := ⟨0x40120010 + i * 0x40, 0, 16, 0⟩
/-- BOOST_SCALE.vin_div (R440), RW. -/
def BOOST_SCALE_vin_div (i : Nat) : RF := ⟨0x40120010 + i * 0x40, 16, 16, 0⟩
/-- BOOST_THERM.warn (R440), RW. -/
def BOOST_THERM_warn (i : Nat) : RF := ⟨0x40120014 + i * 0x40, 0, 8, 100⟩
/-- BOOST_THERM.trip (R440), RW. -/
def BOOST_THERM_trip (i : Nat) : RF := ⟨0x40120014 + i * 0x40, 8, 8, 120⟩
/-- BOOST_THERM.fold (R440), RW. -/
def BOOST_THERM_fold (i : Nat) : RF := ⟨0x40120014 + i * 0x40, 16, 15, 9600⟩
/-- BOOST_STAT.state (R440), RO. -/
def BOOST_STAT_state (i : Nat) : RF := ⟨0x40120018 + i * 0x40, 0, 2, 0⟩
/-- BOOST_STAT.ovp (R440), W1C. -/
def BOOST_STAT_ovp (i : Nat) : RF := ⟨0x40120018 + i * 0x40, 2, 1, 0⟩
/-- BOOST_STAT.track (R440), W1C. -/
def BOOST_STAT_track (i : Nat) : RF := ⟨0x40120018 + i * 0x40, 3, 1, 0⟩
/-- BOOST_STAT.therm_warn (R440), RO. -/
def BOOST_STAT_therm_warn (i : Nat) : RF := ⟨0x40120018 + i * 0x40, 4, 1, 0⟩
/-- BOOST_STAT.therm_trip (R440), RO. -/
def BOOST_STAT_therm_trip (i : Nat) : RF := ⟨0x40120018 + i * 0x40, 5, 1, 0⟩
/-- BOOST_STAT.live_wr (R440), W1C. -/
def BOOST_STAT_live_wr (i : Nat) : RF := ⟨0x40120018 + i * 0x40, 6, 1, 0⟩
/-- BOOST_VMEAS.rail (R440), RO. -/
def BOOST_VMEAS_rail (i : Nat) : RF := ⟨0x4012001C + i * 0x40, 0, 15, 0⟩
/-- BOOST_VMEAS.vin (R440), RO. -/
def BOOST_VMEAS_vin (i : Nat) : RF := ⟨0x4012001C + i * 0x40, 16, 15, 0⟩
/-- TWIN_CTRL.en (R459), RW. -/
def TWIN_CTRL_en : RF := ⟨0x400E0000, 0, 1, 0⟩
/-- TWIN_CTRL.in_service (R459), RWH. -/
def TWIN_CTRL_in_service : RF := ⟨0x400E0000, 1, 1, 0⟩
/-- TWIN_STAT.position (R459), RO. -/
def TWIN_STAT_position : RF := ⟨0x400E0004, 0, 2, 0⟩
/-- TWIN_STAT.seat (R459), RO. -/
def TWIN_STAT_seat : RF := ⟨0x400E0004, 2, 1, 0⟩
/-- TWIN_STAT.selected (R459), RO. -/
def TWIN_STAT_selected : RF := ⟨0x400E0004, 3, 1, 0⟩
/-- TWIN_STAT.solo (R459), RO. -/
def TWIN_STAT_solo : RF := ⟨0x400E0004, 4, 1, 0⟩
/-- TWIN_STAT.synced (R459), RWH. -/
def TWIN_STAT_synced : RF := ⟨0x400E0004, 5, 1, 0⟩
/-- TWIN_STAT.peer_claim (R459), RO. -/
def TWIN_STAT_peer_claim : RF := ⟨0x400E0004, 6, 1, 0⟩
/-- TWIN_STAT.beat_ok (R459), RO. -/
def TWIN_STAT_beat_ok : RF := ⟨0x400E0004, 7, 1, 0⟩
/-- TWIN_STAT.takeover (R459), W1C. -/
def TWIN_STAT_takeover : RF := ⟨0x400E0004, 8, 1, 0⟩
/-- TWIN_STAT.mismatch (R459), W1C. -/
def TWIN_STAT_mismatch : RF := ⟨0x400E0004, 9, 1, 0⟩
/-- TWIN_STAT.contend (R459), W1C. -/
def TWIN_STAT_contend : RF := ⟨0x400E0004, 10, 1, 0⟩
/-- TWIN_CFG.mis_n_m1 (R459), RW. -/
def TWIN_CFG_mis_n_m1 : RF := ⟨0x400E0008, 0, 4, 1⟩
/-- TWIN_CFG.health_ms (R459), RW. -/
def TWIN_CFG_health_ms : RF := ⟨0x400E0008, 4, 10, 100⟩
/-- TWIN_MIS.kitty (R459), RO. -/
def TWIN_MIS_kitty : RF := ⟨0x400E000C, 0, 12, 0⟩
/-- TWIN_MIS_T64_LO.t64 (R459), RO. -/
def TWIN_MIS_T64_LO_t64 : RF := ⟨0x400E0010, 0, 32, 0⟩
/-- TWIN_MIS_T64_HI.t64 (R459), RO. -/
def TWIN_MIS_T64_HI_t64 : RF := ⟨0x400E0014, 0, 32, 0⟩
/-- TWIN_CNT.count (R459), CNT. -/
def TWIN_CNT_count (i : Nat) : RF := ⟨0x400E0020 + i * 0x4, 0, 32, 0⟩
/-- FAULT_CTRL.auto_exit (R482), RW. -/
def FAULT_CTRL_auto_exit : RF := ⟨0x400D0000, 0, 1, 1⟩
/-- FAULT_STAT.state (R482), RO. -/
def FAULT_STAT_state : RF := ⟨0x400D0004, 0, 2, 0⟩
/-- FAULT_STAT.held (R482), RO. -/
def FAULT_STAT_held : RF := ⟨0x400D0004, 2, 1, 0⟩
/-- FAULT_STAT.scrub_late (R482), W1C. -/
def FAULT_STAT_scrub_late : RF := ⟨0x400D0004, 3, 1, 0⟩
/-- FAULT_STAT.ovf (R482), W1C. -/
def FAULT_STAT_ovf : RF := ⟨0x400D0004, 4, 1, 0⟩
/-- FAULT_STAT.wr_idx (R482), RO. -/
def FAULT_STAT_wr_idx : RF := ⟨0x400D0004, 5, 6, 0⟩
/-- FAULT_STAT.seq (R482), RO. -/
def FAULT_STAT_seq : RF := ⟨0x400D0004, 11, 16, 0⟩
/-- FAULT_QUIET.ms (R482), RW. -/
def FAULT_QUIET_ms : RF := ⟨0x400D0008, 0, 16, 5000⟩
/-- FAULT_RECOV.max (R482), RW. -/
def FAULT_RECOV_max : RF := ⟨0x400D000C, 0, 4, 4⟩
/-- FAULT_RECOV.in_hour (R482), RO. -/
def FAULT_RECOV_in_hour : RF := ⟨0x400D000C, 4, 4, 0⟩
/-- FAULT_RECOV.count (R482), CNT. -/
def FAULT_RECOV_count : RF := ⟨0x400D000C, 8, 24, 0⟩
/-- FAULT_SCRUB.en (R482), RW. -/
def FAULT_SCRUB_en : RF := ⟨0x400D0010, 0, 1, 1⟩
/-- FAULT_SCRUB.period (R482), RW. -/
def FAULT_SCRUB_period : RF := ⟨0x400D0010, 1, 8, 60⟩
/-- FAULT_LOST.count (R482), CNT. -/
def FAULT_LOST_count : RF := ⟨0x400D0014, 0, 32, 0⟩
/-- FAULT_FENCE.core (R482), RO. -/
def FAULT_FENCE_core : RF := ⟨0x400D0018, 0, 10, 0⟩
/-- FAULT_FENCE.boost (R482), RO. -/
def FAULT_FENCE_boost : RF := ⟨0x400D0018, 10, 4, 0⟩
/-- FAULT_FENCE.amp (R482), RO. -/
def FAULT_FENCE_amp : RF := ⟨0x400D0018, 14, 16, 0⟩
/-- FAULT_SHADOW.len (R482), RW. -/
def FAULT_SHADOW_len (i : Nat) : RF := ⟨0x400D0020 + i * 0x4, 0, 10, 20⟩
/-- FAULT_ECC_CE.count (R482), CNT. -/
def FAULT_ECC_CE_count : RF := ⟨0x400D0050, 0, 32, 0⟩
/-- FAULT_ECC_UE.count (R482), CNT. -/
def FAULT_ECC_UE_count : RF := ⟨0x400D0054, 0, 32, 0⟩
/-- FAULT_ECC_ADDR.addr (R482), RO. -/
def FAULT_ECC_ADDR_addr : RF := ⟨0x400D0058, 0, 32, 0⟩
/-- FAULT_STICKY.bit (R482), W1C. -/
def FAULT_STICKY_bit (i : Nat) : RF := ⟨0x400D0080 + i * 0x4, 0, 32, 0⟩
/-- FAULT_CLASS.floor (R482), RW. -/
def FAULT_CLASS_floor (i : Nat) : RF := ⟨0x400D0400 + i * 0x4, 0, 2, 0⟩
/-- FAULT_CLASS.mask (R482), RW. -/
def FAULT_CLASS_mask (i : Nat) : RF := ⟨0x400D0400 + i * 0x4, 2, 1, 0⟩
/-- FAULT_CLASS.pin (R482), RW. -/
def FAULT_CLASS_pin (i : Nat) : RF := ⟨0x400D0400 + i * 0x4, 3, 1, (faultPinReset i)⟩
/-- FAULT_FIRST0.t64 (R483), RO. -/
def FAULT_FIRST0_t64 : RF := ⟨0x400D00C0, 0, 32, 0⟩
/-- FAULT_HIST0.t64 (R483), RO. -/
def FAULT_HIST0_t64 (i : Nat) : RF := ⟨0x400D1000 + i * 0x20, 0, 32, 0⟩
/-- FAULT_FIRST1.t64 (R483), RO. -/
def FAULT_FIRST1_t64 : RF := ⟨0x400D00C4, 0, 32, 0⟩
/-- FAULT_HIST1.t64 (R483), RO. -/
def FAULT_HIST1_t64 (i : Nat) : RF := ⟨0x400D1004 + i * 0x20, 0, 32, 0⟩
/-- FAULT_FIRST2.source (R483), RO. -/
def FAULT_FIRST2_source : RF := ⟨0x400D00C8, 0, 16, 0⟩
/-- FAULT_FIRST2.class (R483), RO. -/
def FAULT_FIRST2_class : RF := ⟨0x400D00C8, 16, 2, 0⟩
/-- FAULT_FIRST2.consequential (R483), RO. -/
def FAULT_FIRST2_consequential : RF := ⟨0x400D00C8, 18, 1, 0⟩
/-- FAULT_FIRST2.cause_valid (R483), RO. -/
def FAULT_FIRST2_cause_valid : RF := ⟨0x400D00C8, 19, 1, 0⟩
/-- FAULT_FIRST2.cause (R483), RO. -/
def FAULT_FIRST2_cause : RF := ⟨0x400D00C8, 20, 6, 0⟩
/-- FAULT_HIST2.source (R483), RO. -/
def FAULT_HIST2_source (i : Nat) : RF := ⟨0x400D1008 + i * 0x20, 0, 16, 0⟩
/-- FAULT_HIST2.class (R483), RO. -/
def FAULT_HIST2_class (i : Nat) : RF := ⟨0x400D1008 + i * 0x20, 16, 2, 0⟩
/-- FAULT_HIST2.consequential (R483), RO. -/
def FAULT_HIST2_consequential (i : Nat) : RF := ⟨0x400D1008 + i * 0x20, 18, 1, 0⟩
/-- FAULT_HIST2.cause_valid (R483), RO. -/
def FAULT_HIST2_cause_valid (i : Nat) : RF := ⟨0x400D1008 + i * 0x20, 19, 1, 0⟩
/-- FAULT_HIST2.cause (R483), RO. -/
def FAULT_HIST2_cause (i : Nat) : RF := ⟨0x400D1008 + i * 0x20, 20, 6, 0⟩
/-- FAULT_FIRST3.code (R483), RO. -/
def FAULT_FIRST3_code : RF := ⟨0x400D00CC, 0, 8, 0⟩
/-- FAULT_FIRST3.reaction (R483), RO. -/
def FAULT_FIRST3_reaction : RF := ⟨0x400D00CC, 8, 4, 0⟩
/-- FAULT_FIRST3.seq (R483), RO. -/
def FAULT_FIRST3_seq : RF := ⟨0x400D00CC, 16, 16, 0⟩
/-- FAULT_HIST3.code (R483), RO. -/
def FAULT_HIST3_code (i : Nat) : RF := ⟨0x400D100C + i * 0x20, 0, 8, 0⟩
/-- FAULT_HIST3.reaction (R483), RO. -/
def FAULT_HIST3_reaction (i : Nat) : RF := ⟨0x400D100C + i * 0x20, 8, 4, 0⟩
/-- FAULT_HIST3.seq (R483), RO. -/
def FAULT_HIST3_seq (i : Nat) : RF := ⟨0x400D100C + i * 0x20, 16, 16, 0⟩
/-- FAULT_FIRST4.context (R483), RO. -/
def FAULT_FIRST4_context : RF := ⟨0x400D00D0, 0, 32, 0⟩
/-- FAULT_HIST4.context (R483), RO. -/
def FAULT_HIST4_context (i : Nat) : RF := ⟨0x400D1010 + i * 0x20, 0, 32, 0⟩
/-- FAULT_FIRST5.context (R483), RO. -/
def FAULT_FIRST5_context : RF := ⟨0x400D00D4, 0, 32, 0⟩
/-- FAULT_HIST5.context (R483), RO. -/
def FAULT_HIST5_context (i : Nat) : RF := ⟨0x400D1014 + i * 0x20, 0, 32, 0⟩
/-- FAULT_FIRST6.repeat (R483), RO. -/
def FAULT_FIRST6_repeat : RF := ⟨0x400D00D8, 0, 16, 0⟩
/-- FAULT_HIST6.repeat (R483), RO. -/
def FAULT_HIST6_repeat (i : Nat) : RF := ⟨0x400D1018 + i * 0x20, 0, 16, 0⟩
/-- FAULT_FIRST7.valid (R483), W1C. -/
def FAULT_FIRST7_valid : RF := ⟨0x400D00DC, 0, 1, 0⟩
/-- FAULT_HIST7.valid (R483), RO. -/
def FAULT_HIST7_valid (i : Nat) : RF := ⟨0x400D101C + i * 0x20, 0, 1, 0⟩
/-- SEC_STAT.slot (R514), RO. -/
def SEC_STAT_slot : RF := ⟨0x40210000, 0, 1, 0⟩
/-- SEC_STAT.boot_err (R514), RO. -/
def SEC_STAT_boot_err : RF := ⟨0x40210000, 1, 3, 0⟩
/-- SEC_STAT.puf_fail (R514), RO. -/
def SEC_STAT_puf_fail : RF := ⟨0x40210000, 4, 1, 0⟩
/-- SEC_STAT.owner (R514), RO. -/
def SEC_STAT_owner : RF := ⟨0x40210000, 5, 1, 0⟩
/-- SEC_STAT.identity (R514), RO. -/
def SEC_STAT_identity : RF := ⟨0x40210000, 6, 1, 0⟩
/-- SEC_SERIAL.serial (R514), RO. -/
def SEC_SERIAL_serial (i : Nat) : RF := ⟨0x40210010 + i * 0x4, 0, 32, 0⟩
/-- SEC_ROLLBACK.value (R514), RO. -/
def SEC_ROLLBACK_value : RF := ⟨0x40210020, 0, 7, 0⟩
/-- BIST_CTRL.start (R526), W1S. -/
def BIST_CTRL_start : RF := ⟨0x40200000, 0, 1, 0⟩
/-- BIST_CTRL.mode (R526), RW. -/
def BIST_CTRL_mode : RF := ⟨0x40200000, 1, 1, 0⟩
/-- BIST_STAT.state (R526), RO. -/
def BIST_STAT_state : RF := ⟨0x40200004, 0, 2, 0⟩
/-- BIST_STAT.item (R526), RO. -/
def BIST_STAT_item : RF := ⟨0x40200004, 2, 4, 0⟩
/-- BIST_STAT.fail (R526), W1C. -/
def BIST_STAT_fail : RF := ⟨0x40200004, 6, 1, 0⟩
/-- BIST_PMASK.mask (R526), RW. -/
def BIST_PMASK_mask : RF := ⟨0x40200008, 0, 32, 4294918143⟩
/-- BIST_RES.result (R526), RO. -/
def BIST_RES_result (i : Nat) : RF := ⟨0x40200100 + i * 0x10, 0, 3, 0⟩
/-- BIST_SIG_LO.misr (R526), RO. -/
def BIST_SIG_LO_misr (i : Nat) : RF := ⟨0x40200104 + i * 0x10, 0, 32, 0⟩
/-- BIST_SIG_HI.misr (R526), RO. -/
def BIST_SIG_HI_misr (i : Nat) : RF := ⟨0x40200108 + i * 0x10, 0, 32, 0⟩
/-- BIST_MRES.result (R526), RO. -/
def BIST_MRES_result (i : Nat) : RF := ⟨0x40200200 + i * 0x8, 0, 3, 0⟩
/-- BIST_MRES.fails (R526), RO. -/
def BIST_MRES_fails (i : Nat) : RF := ⟨0x40200200 + i * 0x8, 16, 16, 0⟩
/-- BIST_MADDR.addr (R526), RO. -/
def BIST_MADDR_addr (i : Nat) : RF := ⟨0x40200204 + i * 0x8, 0, 32, 0⟩
/-- MON_CTRL.age_now (R548), W1S. -/
def MON_CTRL_age_now : RF := ⟨0x40130000, 0, 1, 0⟩
/-- MON_TEMP.eng (R548), RO. -/
def MON_TEMP_eng : RF := ⟨0x40130004, 0, 12, 0⟩
/-- MON_TEMP.tj_warn (R548), RO. -/
def MON_TEMP_tj_warn : RF := ⟨0x40130004, 12, 1, 0⟩
/-- MON_TEMP.tj_crit (R548), RO. -/
def MON_TEMP_tj_crit : RF := ⟨0x40130004, 13, 1, 0⟩
/-- MON_TEMP.sill (R548), RO. -/
def MON_TEMP_sill : RF := ⟨0x40130004, 15, 12, 0⟩
/-- MON_AGE_LIM.ppm (R548), RW. -/
def MON_AGE_LIM_ppm : RF := ⟨0x40130008, 0, 16, 30000⟩
/-- MON_RAIL.mv (R548), RO. -/
def MON_RAIL_mv (i : Nat) : RF := ⟨0x40130020 + i * 0x4, 0, 16, 0⟩
/-- MON_RAIL.out (R548), RO. -/
def MON_RAIL_out (i : Nat) : RF := ⟨0x40130020 + i * 0x4, 16, 1, 0⟩
/-- MON_RAIL.seen (R548), W1C. -/
def MON_RAIL_seen (i : Nat) : RF := ⟨0x40130020 + i * 0x4, 17, 1, 0⟩
/-- MON_AGE.ppm (R548), RO. -/
def MON_AGE_ppm (i : Nat) : RF := ⟨0x40130080 + i * 0x4, 0, 16, 0⟩
/-- MON_AGE.over (R548), RO. -/
def MON_AGE_over (i : Nat) : RF := ⟨0x40130080 + i * 0x4, 16, 1, 0⟩

end Reg

namespace RegMap

def b4000_0 : List RegD := [
  -- SYS_ID (R279)
  ⟨0x40000000, [], [⟨0, 16, .ro, 2400⟩, ⟨16, 4, .ro, 1⟩, ⟨20, 4, .ro, 1⟩, ⟨24, 8, .ro, 0⟩]⟩,
  -- SYS_STATE (R279)
  ⟨0x40000004, [], [⟨0, 3, .ro, 0⟩, ⟨3, 2, .ro, 0⟩, ⟨5, 1, .ro, 0⟩, ⟨6, 1, .ro, 0⟩, ⟨7, 1, .ro, 0⟩, ⟨8, 24, .ro, 0⟩]⟩,
  -- SYS_RST_CAUSE (R279)
  ⟨0x40000008, [], [⟨0, 1, .w1c, 1⟩, ⟨1, 1, .w1c, 0⟩, ⟨2, 1, .w1c, 0⟩, ⟨3, 1, .w1c, 0⟩, ⟨4, 1, .w1c, 0⟩, ⟨5, 1, .w1c, 0⟩, ⟨6, 26, .ro, 0⟩]⟩,
  -- SYS_ACC_ERR (R280)
  ⟨0x40000010, [], [⟨0, 1, .w1c, 0⟩, ⟨1, 1, .w1c, 0⟩, ⟨2, 1, .w1c, 0⟩, ⟨3, 1, .w1c, 0⟩, ⟨4, 1, .w1c, 0⟩, ⟨5, 27, .ro, 0⟩]⟩,
  -- SYS_ACC_ERR_ADDR (R280)
  ⟨0x40000014, [], [⟨0, 32, .ro, 0⟩]⟩,
  -- SYS_ACC_ERR_INFO (R280)
  ⟨0x40000018, [], [⟨0, 3, .ro, 0⟩, ⟨3, 1, .ro, 0⟩, ⟨4, 3, .ro, 0⟩, ⟨7, 6, .ro, 0⟩, ⟨13, 1, .w1c, 0⟩, ⟨14, 18, .ro, 0⟩]⟩,
  -- SYS_ACC_ERR_CNT (R280)
  ⟨0x4000001C, [], [⟨0, 32, .cnt, 0⟩]⟩,
  -- SYS_DEBUG (R279)
  ⟨0x40000020, [], [⟨0, 1, .ro, 0⟩, ⟨1, 1, .w1s, 0⟩, ⟨2, 30, .ro, 0⟩]⟩,
  -- SYS_SCRATCH (R279)
  ⟨0x40000030, [(4, 0x4)], [⟨0, 32, .rw, 0⟩]⟩]

/-- The registers of the block at 0x4000_0000. -/
def b4000 : List RegD := b4000_0

def b4001_0 : List RegD := [
  -- XBAR_STATUS (R316)
  ⟨0x40010000, [], [⟨0, 1, .w1c, 0⟩, ⟨1, 1, .w1c, 0⟩, ⟨2, 30, .ro, 0⟩]⟩,
  -- XBAR_LOCK_CFG (R316)
  ⟨0x40010004, [], [⟨0, 8, .rw, 4⟩, ⟨8, 24, .rsv, 0⟩]⟩,
  -- XBAR_PRIO (R316)
  ⟨0x40010100, [(25, 0x4)], [⟨0, 3, .rw, 0⟩, ⟨3, 29, .rsv, 0⟩]⟩,
  -- XBAR_ARB_STAT (R316)
  ⟨0x40010400, [(51, 0x10)], [⟨0, 6, .ro, 0⟩, ⟨6, 1, .ro, 0⟩, ⟨7, 1, .w1c, 0⟩, ⟨8, 6, .ro, 0⟩, ⟨14, 1, .w1c, 0⟩, ⟨15, 6, .ro, 0⟩, ⟨21, 11, .ro, 0⟩]⟩,
  -- XBAR_ARB_ADDR (R316)
  ⟨0x40010404, [(51, 0x10)], [⟨0, 32, .ro, 0⟩]⟩,
  -- XBAR_ARB_NOLOCK (R316)
  ⟨0x40010408, [(51, 0x10)], [⟨0, 32, .cnt, 0⟩]⟩,
  -- XBAR_WIN_CTRL (R316)
  ⟨0x40010800, [(16, 0x10)], [⟨0, 1, .rw, 0⟩, ⟨1, 1, .rw, 0⟩, ⟨2, 5, .rw, 16⟩, ⟨7, 9, .rw, 0⟩, ⟨16, 8, .rw, 20⟩, ⟨24, 8, .rsv, 0⟩]⟩,
  -- XBAR_WIN_BASE (R316)
  ⟨0x40010804, [(16, 0x10)], [⟨0, 16, .ro, 0⟩, ⟨16, 16, .rw, 24576⟩]⟩,
  -- XBAR_WIN_TGT (R316)
  ⟨0x40010808, [(16, 0x10)], [⟨0, 32, .rw, 0⟩]⟩,
  -- XBAR_WIN_STAT (R316)
  ⟨0x4001080C, [(16, 0x10)], [⟨0, 20, .ro, 0⟩, ⟨20, 10, .cnt, 0⟩, ⟨30, 1, .ro, 0⟩, ⟨31, 1, .w1s, 0⟩]⟩]

/-- The registers of the block at 0x4001_0000. -/
def b4001 : List RegD := b4001_0

def b4002_0 : List RegD := [
  -- DMA_IRQ_STAT (R317)
  ⟨0x40020000, [], [⟨0, 16, .w1c, 0⟩, ⟨16, 16, .w1c, 0⟩]⟩,
  -- DMA_IRQ_EN (R317)
  ⟨0x40020004, [], [⟨0, 32, .rw, 0⟩]⟩,
  -- DMA_CH_CFG (R317)
  ⟨0x40020100, [(16, 0x20)], [⟨0, 1, .rwh, 0⟩, ⟨1, 1, .rw, 0⟩, ⟨2, 1, .w1s, 0⟩, ⟨3, 2, .rw, 0⟩, ⟨5, 2, .rw, 0⟩, ⟨7, 5, .rw, 0⟩, ⟨12, 20, .rsv, 0⟩]⟩,
  -- DMA_CH_HEAD (R317)
  ⟨0x40020104, [(16, 0x20)], [⟨0, 32, .rw, 0⟩]⟩,
  -- DMA_CH_DOORBELL (R317)
  ⟨0x40020108, [(16, 0x20)], [⟨0, 1, .w1s, 0⟩, ⟨1, 31, .ro, 0⟩]⟩,
  -- DMA_CH_STAT (R317)
  ⟨0x4002010C, [(16, 0x20)], [⟨0, 3, .ro, 0⟩, ⟨3, 5, .ro, 0⟩, ⟨8, 1, .ro, 0⟩, ⟨9, 1, .w1c, 0⟩, ⟨10, 1, .w1c, 0⟩, ⟨11, 1, .ro, 0⟩, ⟨12, 20, .ro, 0⟩]⟩,
  -- DMA_CH_CUR (R317)
  ⟨0x40020110, [(16, 0x20)], [⟨0, 32, .ro, 0⟩]⟩,
  -- DMA_CH_CNT (R317)
  ⟨0x40020114, [(16, 0x20)], [⟨0, 32, .cnt, 0⟩]⟩,
  -- DMA_DESC (R308)
  ⟨0x40028000, [(1024, 0x20), (8, 0x4)], [⟨0, 32, .rw, 0⟩]⟩]

/-- The registers of the block at 0x4002_0000. -/
def b4002 : List RegD := b4002_0

def b4003_0 : List RegD := [
  -- TIME_CTRL (R344)
  ⟨0x40030000, [], [⟨0, 1, .rw, 0⟩, ⟨1, 1, .rw, 0⟩, ⟨2, 30, .rsv, 0⟩]⟩,
  -- TIME_STAT (R344)
  ⟨0x40030004, [], [⟨0, 2, .ro, 0⟩, ⟨2, 1, .w1c, 0⟩, ⟨3, 1, .ro, 0⟩, ⟨4, 1, .w1c, 0⟩, ⟨5, 27, .ro, 0⟩]⟩,
  -- TIME_FRAC (R344)
  ⟨0x40030010, [], [⟨0, 16, .ro, 0⟩, ⟨16, 16, .ro, 0⟩]⟩,
  -- TIME_MEAS_FRAC (R344)
  ⟨0x40030014, [], [⟨0, 16, .rw, 0⟩, ⟨16, 16, .rsv, 0⟩]⟩,
  -- TIME_MEAS_NS (R344)
  ⟨0x40030018, [], [⟨0, 32, .rw, 0⟩]⟩,
  -- TIME_RATE (R344)
  ⟨0x4003001C, [], [⟨0, 32, .ro, 0⟩]⟩,
  -- TIME_SERVO_CFG (R344)
  ⟨0x40030020, [], [⟨0, 8, .rw, 64⟩, ⟨8, 8, .rw, 8⟩, ⟨16, 4, .rw, 13⟩, ⟨20, 12, .rsv, 0⟩]⟩,
  -- TIME_JUMP_THR (R344)
  ⟨0x40030024, [], [⟨0, 30, .rw, 1000000⟩, ⟨30, 2, .rsv, 0⟩]⟩,
  -- TIME_SLEW (R344)
  ⟨0x40030028, [], [⟨0, 18, .rw, 100000⟩, ⟨18, 14, .rsv, 0⟩]⟩,
  -- TIME_LOCK_THR (R344)
  ⟨0x4003002C, [], [⟨0, 16, .rw, 100⟩, ⟨16, 16, .rsv, 0⟩]⟩,
  -- TIME_T64_LO (R344)
  ⟨0x40030008, [], [⟨0, 32, .ro, 0⟩]⟩,
  -- TIME_T64_HI (R344)
  ⟨0x4003000C, [], [⟨0, 32, .ro, 0⟩]⟩]

def b4003_1 : List RegD := [
  -- TIME_REFUSED_LO (R344)
  ⟨0x40030030, [], [⟨0, 32, .ro, 0⟩]⟩,
  -- TIME_REFUSED_HI (R344)
  ⟨0x40030034, [], [⟨0, 32, .ro, 0⟩]⟩,
  -- TIME_TMR_CTRL (R344)
  ⟨0x40030100, [(32, 0x20)], [⟨0, 2, .rw, 0⟩, ⟨2, 1, .rw, 0⟩, ⟨3, 1, .rw, 0⟩, ⟨4, 16, .rw, 1⟩, ⟨20, 12, .rsv, 0⟩]⟩,
  -- TIME_TMR_START_LO (R344)
  ⟨0x40030104, [(32, 0x20)], [⟨0, 32, .rw, 0⟩]⟩,
  -- TIME_TMR_START_HI (R344)
  ⟨0x40030108, [(32, 0x20)], [⟨0, 32, .rw, 0⟩]⟩,
  -- TIME_TMR_PER (R344)
  ⟨0x4003010C, [(32, 0x20)], [⟨0, 32, .rw, 0⟩]⟩,
  -- TIME_TMR_STAT (R344)
  ⟨0x40030110, [(32, 0x20)], [⟨0, 1, .ro, 0⟩, ⟨1, 1, .w1c, 0⟩, ⟨2, 1, .w1c, 0⟩, ⟨3, 1, .w1c, 0⟩, ⟨4, 28, .ro, 0⟩]⟩,
  -- TIME_CAP_CTRL (R344)
  ⟨0x40030800, [(16, 0x20)], [⟨0, 2, .rw, 0⟩, ⟨2, 8, .rw, 4⟩, ⟨10, 1, .rw, 0⟩, ⟨11, 21, .rsv, 0⟩]⟩,
  -- TIME_CAP_FRAC (R344)
  ⟨0x40030804, [(16, 0x20)], [⟨0, 16, .ro, 0⟩, ⟨16, 1, .ro, 0⟩, ⟨17, 15, .ro, 0⟩]⟩,
  -- TIME_CAP_LO (R344)
  ⟨0x40030808, [(16, 0x20)], [⟨0, 32, .ro, 0⟩]⟩,
  -- TIME_CAP_HI (R344)
  ⟨0x4003080C, [(16, 0x20)], [⟨0, 32, .ro, 0⟩]⟩,
  -- TIME_CAP_STAT (R344)
  ⟨0x40030810, [(16, 0x20)], [⟨0, 3, .ro, 0⟩, ⟨3, 1, .w1c, 0⟩, ⟨4, 1, .w1s, 0⟩, ⟨5, 27, .ro, 0⟩]⟩]

/-- The registers of the block at 0x4003_0000. -/
def b4003 : List RegD := b4003_0 ++ b4003_1

def b4004_0 : List RegD := [
  -- MAC_CTRL (R345)
  ⟨0x40040000, [(2, 0x10000)], [⟨0, 1, .rw, 0⟩, ⟨1, 1, .rw, 0⟩, ⟨2, 1, .rw, 0⟩, ⟨3, 1, .rw, 1⟩, ⟨4, 1, .rw, 1⟩, ⟨5, 1, .rw, 0⟩, ⟨6, 26, .rsv, 0⟩]⟩,
  -- MAC_STAT (R345)
  ⟨0x40040004, [(2, 0x10000)], [⟨0, 1, .ro, 0⟩, ⟨1, 1, .ro, 0⟩, ⟨2, 1, .w1c, 0⟩, ⟨3, 1, .w1c, 0⟩, ⟨4, 1, .w1c, 0⟩, ⟨5, 1, .w1c, 0⟩, ⟨6, 1, .w1c, 0⟩, ⟨7, 25, .ro, 0⟩]⟩,
  -- MAC_LAUNCH_TOL (R345)
  ⟨0x40040008, [(2, 0x10000)], [⟨0, 16, .rw, 1000⟩, ⟨16, 16, .rsv, 0⟩]⟩,
  -- MAC_TS_COMP (R345)
  ⟨0x4004000C, [(2, 0x10000)], [⟨0, 16, .rw, 0⟩, ⟨16, 16, .rw, 0⟩]⟩,
  -- MAC_ASYM (R345)
  ⟨0x40040010, [(2, 0x10000)], [⟨0, 32, .rw, 0⟩]⟩,
  -- MAC_SLOT_SWAP (R345)
  ⟨0x40040080, [(2, 0x10000)], [⟨0, 1, .w1s, 0⟩, ⟨1, 1, .ro, 0⟩, ⟨2, 30, .ro, 0⟩]⟩,
  -- MAC_SLOT_CYC (R345)
  ⟨0x40040084, [(2, 0x10000)], [⟨0, 30, .rw, 125000⟩, ⟨30, 2, .rsv, 0⟩]⟩,
  -- MAC_Q_CFG (R345)
  ⟨0x40040020, [(2, 0x10000), (8, 0x4)], [⟨0, 12, .rw, 0⟩, ⟨12, 3, .rw, 0⟩, ⟨15, 1, .rw, 0⟩, ⟨16, 16, .rsv, 0⟩]⟩,
  -- MAC_VID_FILT (R345)
  ⟨0x40040040, [(2, 0x10000), (16, 0x4)], [⟨0, 12, .rw, 0⟩, ⟨12, 1, .rw, 0⟩, ⟨13, 19, .rsv, 0⟩]⟩,
  -- MAC_SLOT_BASE_LO (R345)
  ⟨0x40040088, [(2, 0x10000)], [⟨0, 32, .rw, 0⟩]⟩,
  -- MAC_SLOT_BASE_HI (R345)
  ⟨0x4004008C, [(2, 0x10000)], [⟨0, 32, .rw, 0⟩]⟩,
  -- MAC_SLOT_ACT (R345)
  ⟨0x40040100, [(2, 0x10000), (64, 0x4)], [⟨0, 8, .ro, 255⟩, ⟨8, 20, .ro, 0⟩, ⟨28, 4, .ro, 0⟩]⟩]

def b4004_1 : List RegD := [
  -- MAC_SLOT_SHD (R345)
  ⟨0x40040200, [(2, 0x10000), (64, 0x4)], [⟨0, 8, .rw, 255⟩, ⟨8, 20, .rw, 0⟩, ⟨28, 4, .rsv, 0⟩]⟩,
  -- MAC_CNT (R345)
  ⟨0x40040300, [(2, 0x10000), (12, 0x4)], [⟨0, 32, .cnt, 0⟩]⟩]

/-- The registers of the block at 0x4004_0000. -/
def b4004 : List RegD := b4004_0 ++ b4004_1

def b4006_0 : List RegD := [
  -- LANE_CTRL (R380)
  ⟨0x40060000, [(8, 0x40)], [⟨0, 2, .rw, 2⟩, ⟨2, 1, .rw, 1⟩, ⟨3, 2, .rw, 0⟩, ⟨5, 2, .rw, 0⟩, ⟨7, 2, .rw, 0⟩, ⟨9, 4, .rw, 0⟩, ⟨13, 19, .rsv, 0⟩]⟩,
  -- LANE_EQ (R380)
  ⟨0x40060004, [(8, 0x40)], [⟨0, 4, .rw, 8⟩, ⟨4, 1, .rw, 1⟩, ⟨5, 4, .rw, 4⟩, ⟨9, 23, .rsv, 0⟩]⟩,
  -- LANE_STAT (R380)
  ⟨0x40060008, [(8, 0x40)], [⟨0, 2, .ro, 2⟩, ⟨2, 1, .ro, 0⟩, ⟨3, 1, .ro, 0⟩, ⟨4, 1, .ro, 0⟩, ⟨5, 1, .ro, 0⟩, ⟨6, 4, .ro, 8⟩, ⟨10, 1, .w1c, 0⟩, ⟨11, 1, .w1c, 0⟩, ⟨12, 20, .ro, 0⟩]⟩,
  -- LANE_PRBS_ERR (R380)
  ⟨0x4006000C, [(8, 0x40)], [⟨0, 32, .cnt, 0⟩]⟩]

/-- The registers of the block at 0x4006_0000. -/
def b4006 : List RegD := b4006_0

def b4007_0 : List RegD := [
  -- GNOGO_ROLE (R381)
  ⟨0x40070000, [], [⟨0, 9, .ro, 0⟩, ⟨9, 3, .ro, 0⟩, ⟨12, 2, .ro, 0⟩, ⟨14, 1, .ro, 0⟩, ⟨15, 1, .ro, 0⟩, ⟨16, 16, .ro, 0⟩]⟩,
  -- GNOGO_STAT (R381)
  ⟨0x40070004, [], [⟨0, 1, .w1c, 0⟩, ⟨1, 1, .w1c, 0⟩, ⟨2, 30, .ro, 0⟩]⟩,
  -- GNOGO_RPT_DROP (R381)
  ⟨0x40070008, [], [⟨0, 32, .cnt, 0⟩]⟩,
  -- GNOGO_LINK_CTRL (R381)
  ⟨0x40070100, [(13, 0x40)], [⟨0, 1, .rw, 0⟩, ⟨1, 1, .rw, 0⟩, ⟨2, 2, .rw, 0⟩, ⟨4, 28, .rsv, 0⟩]⟩,
  -- GNOGO_LINK_STAT (R381)
  ⟨0x40070104, [(13, 0x40)], [⟨0, 2, .ro, 0⟩, ⟨2, 9, .ro, 0⟩, ⟨11, 1, .ro, 0⟩, ⟨12, 1, .w1c, 0⟩, ⟨13, 1, .w1c, 0⟩, ⟨14, 18, .ro, 0⟩]⟩,
  -- GNOGO_LINK_DLY (R381)
  ⟨0x40070108, [(13, 0x40)], [⟨0, 32, .ro, 0⟩]⟩,
  -- GNOGO_TUN_ADDR (R381)
  ⟨0x4007010C, [(13, 0x40)], [⟨0, 32, .rw, 0⟩]⟩,
  -- GNOGO_LINK_CNT (R381)
  ⟨0x40070110, [(13, 0x40), (8, 0x4)], [⟨0, 32, .cnt, 0⟩]⟩]

/-- The registers of the block at 0x4007_0000. -/
def b4007 : List RegD := b4007_0

def b4008_0 : List RegD := [
  -- JOIN_CTRL (R167)
  ⟨0x40080000, [], [⟨0, 1, .rw, 0⟩, ⟨1, 1, .rw, 0⟩, ⟨2, 30, .rsv, 0⟩]⟩,
  -- JOIN_STATUS (R167)
  ⟨0x40080004, [], [⟨0, 1, .ro, 0⟩, ⟨1, 1, .w1c, 0⟩, ⟨2, 1, .w1c, 0⟩, ⟨3, 1, .w1c, 0⟩, ⟨4, 1, .w1c, 0⟩, ⟨5, 1, .w1c, 0⟩, ⟨6, 1, .w1c, 0⟩, ⟨7, 1, .ro, 0⟩, ⟨8, 8, .ro, 0⟩, ⟨16, 1, .w1c, 0⟩, ⟨17, 15, .ro, 0⟩]⟩,
  -- JOIN_SCHED_SWAP (R167)
  ⟨0x40080008, [], [⟨0, 1, .w1s, 0⟩, ⟨1, 1, .ro, 0⟩, ⟨2, 30, .ro, 0⟩]⟩,
  -- JOIN_LOAD (R167)
  ⟨0x4008000C, [], [⟨0, 20, .ro, 0⟩, ⟨20, 12, .ro, 0⟩]⟩,
  -- JOIN_DONE (R167)
  ⟨0x40080010, [], [⟨0, 20, .ro, 0⟩, ⟨20, 12, .ro, 0⟩]⟩,
  -- JOIN_OVR_CNT (R167)
  ⟨0x40080014, [], [⟨0, 32, .cnt, 0⟩]⟩,
  -- JOIN_TBL_BASE (R168)
  ⟨0x40080020, [(8, 0x4)], [⟨0, 21, .rw, 0⟩, ⟨21, 11, .rsv, 0⟩]⟩,
  -- JOIN_CHG_T64_LO (R169)
  ⟨0x40080040, [], [⟨0, 32, .rw, 0⟩]⟩,
  -- JOIN_CHG_T64_HI (R169)
  ⟨0x40080044, [], [⟨0, 32, .rw, 0⟩]⟩,
  -- JOIN_CHG_TGT (R169)
  ⟨0x40080048, [], [⟨0, 4, .rw, 0⟩, ⟨4, 12, .rw, 0⟩, ⟨16, 12, .rw, 0⟩, ⟨28, 4, .rsv, 0⟩]⟩,
  -- JOIN_CHG_VAL (R169)
  ⟨0x4008004C, [], [⟨0, 24, .rw, 0⟩, ⟨24, 8, .rsv, 0⟩]⟩,
  -- JOIN_CHG_CTL (R169)
  ⟨0x40080050, [], [⟨0, 11, .rw, 64⟩, ⟨11, 1, .rw, 0⟩, ⟨12, 1, .w1s, 0⟩, ⟨13, 19, .rsv, 0⟩]⟩]

def b4008_1 : List RegD := [
  -- JOIN_CHG_LEVEL (R169)
  ⟨0x40080054, [], [⟨0, 11, .ro, 1024⟩, ⟨11, 21, .ro, 0⟩]⟩,
  -- JOIN_SNAP_CFG (R170)
  ⟨0x40080060, [], [⟨0, 8, .rw, 120⟩, ⟨8, 24, .rsv, 0⟩]⟩,
  -- JOIN_SNAP_SEQ (R170)
  ⟨0x40080064, [], [⟨0, 31, .ro, 0⟩, ⟨31, 1, .ro, 0⟩]⟩,
  -- JOIN_BUS_CFG (R170)
  ⟨0x40081000, [(512, 0x4)], [⟨0, 2, .rw, 0⟩, ⟨2, 30, .rsv, 0⟩]⟩,
  -- JOIN_SCHED_ACT0 (R137)
  ⟨0x40082000, [(256, 0x8)], [⟨0, 4, .ro, 0⟩, ⟨4, 1, .ro, 0⟩, ⟨5, 1, .ro, 0⟩, ⟨6, 4, .ro, 0⟩, ⟨10, 1, .ro, 0⟩, ⟨11, 21, .ro, 0⟩]⟩,
  -- JOIN_SCHED_SHD0 (R137)
  ⟨0x40082800, [(256, 0x8)], [⟨0, 4, .rw, 0⟩, ⟨4, 1, .rw, 0⟩, ⟨5, 1, .rw, 0⟩, ⟨6, 4, .rw, 0⟩, ⟨10, 1, .rw, 0⟩, ⟨11, 21, .rsv, 0⟩]⟩,
  -- JOIN_SCHED_ACT1 (R137)
  ⟨0x40082004, [(256, 0x8)], [⟨0, 12, .ro, 0⟩, ⟨12, 13, .ro, 0⟩, ⟨25, 7, .ro, 0⟩]⟩,
  -- JOIN_SCHED_SHD1 (R137)
  ⟨0x40082804, [(256, 0x8)], [⟨0, 12, .rw, 0⟩, ⟨12, 13, .rw, 0⟩, ⟨25, 7, .rsv, 0⟩]⟩,
  -- JOIN_SRC (R171)
  ⟨0x40084000, [(4096, 0x4)], [⟨0, 4, .rw, 0⟩, ⟨4, 12, .rw, 0⟩, ⟨16, 8, .rw, 0⟩, ⟨24, 8, .rsv, 0⟩]⟩,
  -- JOIN_DST (R171)
  ⟨0x40088000, [(4096, 0x4)], [⟨0, 4, .rw, 0⟩, ⟨4, 12, .rw, 0⟩, ⟨16, 8, .rw, 0⟩, ⟨24, 1, .rw, 0⟩, ⟨25, 3, .rw, 4⟩, ⟨28, 4, .rsv, 0⟩]⟩]

/-- The registers of the block at 0x4008_0000. -/
def b4008 : List RegD := b4008_0 ++ b4008_1

def b4009_0 : List RegD := [
  -- SAP_CTRL (R404)
  ⟨0x40090000, [(32, 0x400)], [⟨0, 1, .rw, 0⟩, ⟨1, 1, .rw, 0⟩, ⟨2, 2, .rw, 0⟩, ⟨4, 5, .rw, 1⟩, ⟨9, 2, .rw, 2⟩, ⟨11, 2, .rw, 1⟩, ⟨13, 1, .rw, 0⟩, ⟨14, 1, .rw, 0⟩, ⟨15, 1, .rw, 1⟩, ⟨16, 3, .rw, 0⟩, ⟨19, 1, .rw, 0⟩, ⟨20, 12, .rsv, 0⟩]⟩,
  -- SAP_STAT (R404)
  ⟨0x40090004, [(32, 0x400)], [⟨0, 3, .ro, 0⟩, ⟨3, 1, .w1c, 0⟩, ⟨4, 1, .w1c, 0⟩, ⟨5, 1, .w1c, 0⟩, ⟨6, 1, .w1c, 0⟩, ⟨7, 1, .w1c, 0⟩, ⟨8, 1, .w1c, 0⟩, ⟨9, 1, .w1c, 0⟩, ⟨10, 4, .ro, 15⟩, ⟨14, 18, .ro, 0⟩]⟩,
  -- SAP_SLOT_SWAP (R404)
  ⟨0x40090008, [(32, 0x400)], [⟨0, 1, .w1s, 0⟩, ⟨1, 1, .ro, 0⟩, ⟨2, 30, .ro, 0⟩]⟩,
  -- SAP_POS_LO (R404)
  ⟨0x40090010, [(32, 0x400)], [⟨0, 32, .ro, 0⟩]⟩,
  -- SAP_POS_HI (R404)
  ⟨0x40090014, [(32, 0x400)], [⟨0, 32, .ro, 0⟩]⟩,
  -- SAP_CNT (R404)
  ⟨0x40090020, [(32, 0x400), (4, 0x4)], [⟨0, 32, .cnt, 0⟩]⟩,
  -- SAP_SLOTMAP_ACT (R404)
  ⟨0x40090100, [(32, 0x400), (32, 0x4)], [⟨0, 8, .ro, 0⟩, ⟨8, 8, .ro, 0⟩, ⟨16, 1, .ro, 0⟩, ⟨17, 1, .ro, 0⟩, ⟨18, 1, .ro, 0⟩, ⟨19, 1, .ro, 0⟩, ⟨20, 12, .ro, 0⟩]⟩,
  -- SAP_SLOTMAP_SHD (R404)
  ⟨0x40090200, [(32, 0x400), (32, 0x4)], [⟨0, 8, .rw, 0⟩, ⟨8, 8, .rw, 0⟩, ⟨16, 1, .rw, 0⟩, ⟨17, 1, .rw, 0⟩, ⟨18, 1, .rw, 0⟩, ⟨19, 1, .rw, 0⟩, ⟨20, 12, .rsv, 0⟩]⟩,
  -- SAP_GRP_CTRL (R404)
  ⟨0x40098000, [(8, 0x10)], [⟨0, 1, .rw, 0⟩, ⟨1, 5, .rw, 1⟩, ⟨6, 1, .w1s, 0⟩, ⟨7, 25, .rsv, 0⟩]⟩,
  -- SAP_GRP_START_LO (R404)
  ⟨0x40098004, [(8, 0x10)], [⟨0, 32, .rw, 0⟩]⟩,
  -- SAP_GRP_START_HI (R404)
  ⟨0x40098008, [(8, 0x10)], [⟨0, 32, .rw, 0⟩]⟩,
  -- SAP_GRP_STAT (R404)
  ⟨0x4009800C, [(8, 0x10)], [⟨0, 1, .ro, 0⟩, ⟨1, 1, .ro, 0⟩, ⟨2, 1, .w1c, 0⟩, ⟨3, 29, .ro, 0⟩]⟩]

def b4009_1 : List RegD := [
  -- SAP_VCXO_CTRL (R404)
  ⟨0x40099000, [], [⟨0, 1, .rw, 0⟩, ⟨1, 1, .rw, 0⟩, ⟨2, 5, .rw, 0⟩, ⟨7, 3, .rw, 2⟩, ⟨10, 22, .rsv, 0⟩]⟩,
  -- SAP_VCXO_STAT (R404)
  ⟨0x40099004, [], [⟨0, 1, .ro, 0⟩, ⟨1, 1, .w1c, 0⟩, ⟨2, 14, .ro, 0⟩, ⟨16, 16, .ro, 0⟩]⟩,
  -- SAP_VCXO_CODE (R404)
  ⟨0x40099008, [], [⟨0, 16, .rwh, 32768⟩, ⟨16, 16, .rsv, 0⟩]⟩]

/-- The registers of the block at 0x4009_0000. -/
def b4009 : List RegD := b4009_0 ++ b4009_1

def b400A_0 : List RegD := [
  -- AES_RX_CTRL (R405)
  ⟨0x400A0000, [(8, 0x100)], [⟨0, 1, .rw, 0⟩, ⟨1, 1, .rw, 0⟩, ⟨2, 1, .rw, 1⟩, ⟨3, 29, .rsv, 0⟩]⟩,
  -- AES_RX_STAT (R405)
  ⟨0x400A0004, [(8, 0x100)], [⟨0, 2, .ro, 0⟩, ⟨2, 1, .ro, 0⟩, ⟨3, 1, .w1c, 0⟩, ⟨4, 1, .w1c, 0⟩, ⟨5, 1, .w1c, 0⟩, ⟨6, 1, .w1c, 0⟩, ⟨7, 1, .w1c, 0⟩, ⟨8, 1, .w1c, 0⟩, ⟨9, 4, .ro, 15⟩, ⟨13, 19, .ro, 0⟩]⟩,
  -- AES_RX_CS_SEQ (R405)
  ⟨0x400A0008, [(8, 0x100)], [⟨0, 16, .ro, 0⟩, ⟨16, 16, .ro, 0⟩]⟩,
  -- AES_RX_CNT (R405)
  ⟨0x400A0010, [(8, 0x100), (4, 0x4)], [⟨0, 32, .cnt, 0⟩]⟩,
  -- AES_RX_CS (R405)
  ⟨0x400A0020, [(8, 0x100), (2, 0x18), (6, 0x4)], [⟨0, 32, .ro, 0⟩]⟩,
  -- AES_RX_UB (R405)
  ⟨0x400A0050, [(8, 0x100), (2, 0x18), (6, 0x4)], [⟨0, 32, .ro, 0⟩]⟩,
  -- AES_TX_CTRL (R405)
  ⟨0x400A1000, [(8, 0x100)], [⟨0, 1, .rw, 0⟩, ⟨1, 1, .rw, 1⟩, ⟨2, 2, .rw, 1⟩, ⟨4, 1, .rw, 0⟩, ⟨5, 27, .rsv, 0⟩]⟩,
  -- AES_TX_STAT (R405)
  ⟨0x400A1004, [(8, 0x100)], [⟨0, 1, .w1c, 0⟩, ⟨1, 1, .w1c, 0⟩, ⟨2, 30, .ro, 0⟩]⟩,
  -- AES_TX_CS_SWAP (R405)
  ⟨0x400A1008, [(8, 0x100)], [⟨0, 1, .w1s, 0⟩, ⟨1, 1, .ro, 0⟩, ⟨2, 30, .ro, 0⟩]⟩,
  -- AES_TX_CS_ACT (R405)
  ⟨0x400A1020, [(8, 0x100), (2, 0x18), (6, 0x4)], [⟨0, 32, .ro, 0⟩]⟩,
  -- AES_TX_CS_SHD (R405)
  ⟨0x400A1050, [(8, 0x100), (2, 0x18), (6, 0x4)], [⟨0, 32, .rw, 0⟩]⟩,
  -- AES_TX_UB (R405)
  ⟨0x400A1080, [(8, 0x100), (2, 0x18), (6, 0x4)], [⟨0, 32, .rw, 0⟩]⟩]

/-- The registers of the block at 0x400A_0000. -/
def b400A : List RegD := b400A_0

def b400B_0 : List RegD := [
  -- ASRC_CH_CTRL (R406)
  ⟨0x400B0000, [(128, 0x10)], [⟨0, 1, .rw, 0⟩, ⟨1, 1, .rw, 0⟩, ⟨2, 1, .rw, 0⟩, ⟨3, 5, .rw, 0⟩, ⟨8, 5, .rw, 0⟩, ⟨13, 19, .rsv, 0⟩]⟩,
  -- ASRC_CH_STAT (R406)
  ⟨0x400B0004, [(128, 0x10)], [⟨0, 2, .ro, 0⟩, ⟨2, 1, .w1c, 0⟩, ⟨3, 1, .w1c, 0⟩, ⟨4, 28, .ro, 0⟩]⟩,
  -- ASRC_CH_RATIO (R406)
  ⟨0x400B0008, [(128, 0x10)], [⟨0, 32, .ro, 0⟩]⟩]

/-- The registers of the block at 0x400B_0000. -/
def b400B : List RegD := b400B_0

def b400C_0 : List RegD := [
  -- PINMUX_BALL (R286)
  ⟨0x400C0000, [(1444, 0x4)], [⟨0, 8, .rw, 0⟩, ⟨8, 8, .rw, 0⟩, ⟨16, 1, .ro, 0⟩, ⟨17, 2, .rw, 1⟩, ⟨19, 2, .rw, 1⟩, ⟨21, 1, .rw, 0⟩, ⟨22, 10, .rsv, 0⟩]⟩,
  -- PINMUX_CONFLICT (R286)
  ⟨0x400C2000, [], [⟨0, 1, .w1c, 0⟩, ⟨1, 2, .ro, 0⟩, ⟨3, 11, .ro, 0⟩, ⟨14, 8, .ro, 0⟩, ⟨22, 8, .ro, 0⟩, ⟨30, 2, .ro, 0⟩]⟩,
  -- PINMUX_CONFLICT_CNT (R286)
  ⟨0x400C2004, [], [⟨0, 32, .cnt, 0⟩]⟩,
  -- GPIO_IN (R286)
  ⟨0x400C3000, [], [⟨0, 16, .ro, 0⟩, ⟨16, 16, .ro, 0⟩]⟩,
  -- GPIO_OUT (R286)
  ⟨0x400C3004, [], [⟨0, 16, .rw, 0⟩, ⟨16, 16, .rsv, 0⟩]⟩,
  -- GPIO_OE (R286)
  ⟨0x400C3008, [], [⟨0, 16, .rw, 0⟩, ⟨16, 16, .rsv, 0⟩]⟩]

/-- The registers of the block at 0x400C_0000. -/
def b400C : List RegD := b400C_0

def b400D_0 : List RegD := [
  -- FAULT_CTRL (R482)
  ⟨0x400D0000, [], [⟨0, 1, .rw, 1⟩, ⟨1, 31, .rsv, 0⟩]⟩,
  -- FAULT_STAT (R482)
  ⟨0x400D0004, [], [⟨0, 2, .ro, 0⟩, ⟨2, 1, .ro, 0⟩, ⟨3, 1, .w1c, 0⟩, ⟨4, 1, .w1c, 0⟩, ⟨5, 6, .ro, 0⟩, ⟨11, 16, .ro, 0⟩, ⟨27, 5, .ro, 0⟩]⟩,
  -- FAULT_QUIET (R482)
  ⟨0x400D0008, [], [⟨0, 16, .rw, 5000⟩, ⟨16, 16, .rsv, 0⟩]⟩,
  -- FAULT_RECOV (R482)
  ⟨0x400D000C, [], [⟨0, 4, .rw, 4⟩, ⟨4, 4, .ro, 0⟩, ⟨8, 24, .cnt, 0⟩]⟩,
  -- FAULT_SCRUB (R482)
  ⟨0x400D0010, [], [⟨0, 1, .rw, 1⟩, ⟨1, 8, .rw, 60⟩, ⟨9, 23, .rsv, 0⟩]⟩,
  -- FAULT_LOST (R482)
  ⟨0x400D0014, [], [⟨0, 32, .cnt, 0⟩]⟩,
  -- FAULT_FENCE (R482)
  ⟨0x400D0018, [], [⟨0, 10, .ro, 0⟩, ⟨10, 4, .ro, 0⟩, ⟨14, 16, .ro, 0⟩, ⟨30, 2, .ro, 0⟩]⟩,
  -- FAULT_SHADOW (R482)
  ⟨0x400D0024, [(7, 0x4)], [⟨0, 10, .rw, 20⟩, ⟨10, 22, .rsv, 0⟩]⟩,
  -- FAULT_ECC_CE (R482)
  ⟨0x400D0050, [], [⟨0, 32, .cnt, 0⟩]⟩,
  -- FAULT_ECC_UE (R482)
  ⟨0x400D0054, [], [⟨0, 32, .cnt, 0⟩]⟩,
  -- FAULT_ECC_ADDR (R482)
  ⟨0x400D0058, [], [⟨0, 32, .ro, 0⟩]⟩,
  -- FAULT_STICKY (R482)
  ⟨0x400D0080, [(8, 0x4)], [⟨0, 32, .w1c, 0⟩]⟩]

def b400D_1 : List RegD := [
  -- FAULT_CLASS (R482)
  ⟨0x400D0400, [(256, 0x4)], [⟨0, 2, .rw, 0⟩, ⟨2, 1, .rw, 0⟩, ⟨3, 1, .rw, 0⟩, ⟨4, 28, .rsv, 0⟩]⟩,
  -- FAULT_FIRST0 (R483)
  ⟨0x400D00C0, [], [⟨0, 32, .ro, 0⟩]⟩,
  -- FAULT_HIST0 (R483)
  ⟨0x400D1000, [(64, 0x20)], [⟨0, 32, .ro, 0⟩]⟩,
  -- FAULT_FIRST1 (R483)
  ⟨0x400D00C4, [], [⟨0, 32, .ro, 0⟩]⟩,
  -- FAULT_HIST1 (R483)
  ⟨0x400D1004, [(64, 0x20)], [⟨0, 32, .ro, 0⟩]⟩,
  -- FAULT_FIRST2 (R483)
  ⟨0x400D00C8, [], [⟨0, 16, .ro, 0⟩, ⟨16, 2, .ro, 0⟩, ⟨18, 1, .ro, 0⟩, ⟨19, 1, .ro, 0⟩, ⟨20, 6, .ro, 0⟩, ⟨26, 6, .ro, 0⟩]⟩,
  -- FAULT_HIST2 (R483)
  ⟨0x400D1008, [(64, 0x20)], [⟨0, 16, .ro, 0⟩, ⟨16, 2, .ro, 0⟩, ⟨18, 1, .ro, 0⟩, ⟨19, 1, .ro, 0⟩, ⟨20, 6, .ro, 0⟩, ⟨26, 6, .ro, 0⟩]⟩,
  -- FAULT_FIRST3 (R483)
  ⟨0x400D00CC, [], [⟨0, 8, .ro, 0⟩, ⟨8, 4, .ro, 0⟩, ⟨12, 4, .ro, 0⟩, ⟨16, 16, .ro, 0⟩]⟩,
  -- FAULT_HIST3 (R483)
  ⟨0x400D100C, [(64, 0x20)], [⟨0, 8, .ro, 0⟩, ⟨8, 4, .ro, 0⟩, ⟨12, 4, .ro, 0⟩, ⟨16, 16, .ro, 0⟩]⟩,
  -- FAULT_FIRST4 (R483)
  ⟨0x400D00D0, [], [⟨0, 32, .ro, 0⟩]⟩,
  -- FAULT_HIST4 (R483)
  ⟨0x400D1010, [(64, 0x20)], [⟨0, 32, .ro, 0⟩]⟩,
  -- FAULT_FIRST5 (R483)
  ⟨0x400D00D4, [], [⟨0, 32, .ro, 0⟩]⟩]

def b400D_2 : List RegD := [
  -- FAULT_HIST5 (R483)
  ⟨0x400D1014, [(64, 0x20)], [⟨0, 32, .ro, 0⟩]⟩,
  -- FAULT_FIRST6 (R483)
  ⟨0x400D00D8, [], [⟨0, 16, .ro, 0⟩, ⟨16, 16, .ro, 0⟩]⟩,
  -- FAULT_HIST6 (R483)
  ⟨0x400D1018, [(64, 0x20)], [⟨0, 16, .ro, 0⟩, ⟨16, 16, .ro, 0⟩]⟩,
  -- FAULT_FIRST7 (R483)
  ⟨0x400D00DC, [], [⟨0, 1, .w1c, 0⟩, ⟨1, 31, .ro, 0⟩]⟩,
  -- FAULT_HIST7 (R483)
  ⟨0x400D101C, [(64, 0x20)], [⟨0, 1, .ro, 0⟩, ⟨1, 31, .ro, 0⟩]⟩]

/-- The registers of the block at 0x400D_0000. -/
def b400D : List RegD := b400D_0 ++ b400D_1 ++ b400D_2

def b400E_0 : List RegD := [
  -- TWIN_CTRL (R459)
  ⟨0x400E0000, [], [⟨0, 1, .rw, 0⟩, ⟨1, 1, .rwh, 0⟩, ⟨2, 30, .rsv, 0⟩]⟩,
  -- TWIN_STAT (R459)
  ⟨0x400E0004, [], [⟨0, 2, .ro, 0⟩, ⟨2, 1, .ro, 0⟩, ⟨3, 1, .ro, 0⟩, ⟨4, 1, .ro, 0⟩, ⟨5, 1, .rwh, 0⟩, ⟨6, 1, .ro, 0⟩, ⟨7, 1, .ro, 0⟩, ⟨8, 1, .w1c, 0⟩, ⟨9, 1, .w1c, 0⟩, ⟨10, 1, .w1c, 0⟩, ⟨11, 21, .ro, 0⟩]⟩,
  -- TWIN_CFG (R459)
  ⟨0x400E0008, [], [⟨0, 4, .rw, 1⟩, ⟨4, 10, .rw, 100⟩, ⟨14, 18, .rsv, 0⟩]⟩,
  -- TWIN_MIS (R459)
  ⟨0x400E000C, [], [⟨0, 12, .ro, 0⟩, ⟨12, 20, .ro, 0⟩]⟩,
  -- TWIN_MIS_T64_LO (R459)
  ⟨0x400E0010, [], [⟨0, 32, .ro, 0⟩]⟩,
  -- TWIN_MIS_T64_HI (R459)
  ⟨0x400E0014, [], [⟨0, 32, .ro, 0⟩]⟩,
  -- TWIN_CNT (R459)
  ⟨0x400E0020, [(6, 0x4)], [⟨0, 32, .cnt, 0⟩]⟩]

/-- The registers of the block at 0x400E_0000. -/
def b400E : List RegD := b400E_0

def b400F_0 : List RegD := [
  -- HOST_ID (R237)
  ⟨0x400F0000, [], [⟨0, 16, .ro, 2400⟩, ⟨16, 4, .ro, 1⟩, ⟨20, 4, .ro, 1⟩, ⟨24, 8, .ro, 0⟩]⟩,
  -- HOST_FW (R237)
  ⟨0x400F0004, [], [⟨0, 32, .ro, 0⟩]⟩,
  -- HOST_EPOCH (R237)
  ⟨0x400F0008, [], [⟨0, 32, .ro, 0⟩]⟩,
  -- MBX_STATUS (R237)
  ⟨0x400F0010, [], [⟨0, 1, .ro, 0⟩, ⟨1, 1, .ro, 0⟩, ⟨2, 1, .ro, 0⟩, ⟨3, 1, .w1c, 0⟩, ⟨4, 2, .ro, 0⟩, ⟨6, 2, .ro, 0⟩, ⟨8, 8, .cnt, 0⟩, ⟨16, 16, .ro, 0⟩]⟩,
  -- MBX_DOORBELL (R237)
  ⟨0x400F0014, [], [⟨0, 1, .w1s, 0⟩, ⟨1, 31, .ro, 0⟩]⟩,
  -- HOST_IRQ_STAT (R238)
  ⟨0x400F0020, [], [⟨0, 1, .w1c, 0⟩, ⟨1, 1, .w1c, 0⟩, ⟨2, 1, .w1c, 0⟩, ⟨3, 1, .w1c, 0⟩, ⟨4, 1, .w1c, 0⟩, ⟨5, 1, .w1c, 0⟩, ⟨6, 1, .w1c, 0⟩, ⟨7, 1, .w1c, 0⟩, ⟨8, 1, .w1c, 0⟩, ⟨9, 1, .w1c, 0⟩, ⟨10, 22, .ro, 0⟩]⟩,
  -- HOST_IRQ_EN (R238)
  ⟨0x400F0024, [], [⟨0, 1, .rw, 0⟩, ⟨1, 1, .rw, 0⟩, ⟨2, 1, .rw, 0⟩, ⟨3, 1, .rw, 0⟩, ⟨4, 1, .rw, 0⟩, ⟨5, 1, .rw, 0⟩, ⟨6, 1, .rw, 0⟩, ⟨7, 1, .rw, 0⟩, ⟨8, 1, .rw, 0⟩, ⟨9, 1, .rw, 0⟩, ⟨10, 22, .rsv, 0⟩]⟩,
  -- HOST_MUTE (R239)
  ⟨0x400F0030, [], [⟨0, 1, .rw, 0⟩, ⟨1, 1, .ro, 0⟩, ⟨2, 1, .ro, 0⟩, ⟨3, 29, .rsv, 0⟩]⟩,
  -- AMP_MASTER_EN (R239)
  ⟨0x400F0034, [], [⟨0, 1, .rwh, 0⟩, ⟨1, 1, .ro, 0⟩, ⟨2, 30, .rsv, 0⟩]⟩,
  -- HOST_T64_LO (R237)
  ⟨0x400F0040, [], [⟨0, 32, .ro, 0⟩]⟩,
  -- HOST_T64_HI (R237)
  ⟨0x400F0044, [], [⟨0, 32, .ro, 0⟩]⟩,
  -- MBX_DOOR_ACC (R237)
  ⟨0x400F0100, [(3, 0x8)], [⟨0, 32, .cnt, 0⟩]⟩]

def b400F_1 : List RegD := [
  -- MBX_DOOR_REJ (R237)
  ⟨0x400F0104, [(3, 0x8)], [⟨0, 16, .cnt, 0⟩, ⟨16, 16, .cnt, 0⟩]⟩]

/-- The registers of the block at 0x400F_0000. -/
def b400F : List RegD := b400F_0 ++ b400F_1

def b4010_0 : List RegD := [
  -- CLK_CTRL (R421)
  ⟨0x40100000, [], [⟨0, 1, .rw, 0⟩, ⟨1, 1, .rw, 0⟩, ⟨2, 1, .rw, 0⟩, ⟨3, 1, .rw, 0⟩, ⟨4, 4, .rw, 0⟩, ⟨8, 24, .rsv, 0⟩]⟩,
  -- CLK_STAT (R421)
  ⟨0x40100004, [], [⟨0, 3, .ro, 0⟩, ⟨3, 4, .ro, 15⟩, ⟨7, 4, .ro, 15⟩, ⟨11, 1, .ro, 0⟩, ⟨12, 1, .w1c, 0⟩, ⟨13, 1, .w1c, 0⟩, ⟨14, 18, .ro, 0⟩]⟩,
  -- CLK_QUAL0 (R421)
  ⟨0x40100008, [], [⟨0, 8, .rw, 20⟩, ⟨8, 8, .rw, 100⟩, ⟨16, 8, .rw, 10⟩, ⟨24, 8, .rw, 50⟩]⟩,
  -- CLK_QUAL1 (R421)
  ⟨0x4010000C, [], [⟨0, 8, .rw, 5⟩, ⟨8, 8, .rw, 10⟩, ⟨16, 16, .rsv, 0⟩]⟩,
  -- CLK_HOLD_CFG (R421)
  ⟨0x40100010, [], [⟨0, 16, .rw, 1440⟩, ⟨16, 16, .rsv, 0⟩]⟩,
  -- CLK_STEER (R421)
  ⟨0x40100014, [], [⟨0, 32, .rw, 0⟩]⟩,
  -- CLK_SW_CNT (R421)
  ⟨0x40100018, [], [⟨0, 32, .cnt, 0⟩]⟩,
  -- CLK_REF_CFG (R421)
  ⟨0x40100100, [(15, 0x10)], [⟨0, 1, .rw, 0⟩, ⟨1, 2, .rw, 0⟩, ⟨3, 4, .rw, 8⟩, ⟨7, 8, .rw, 128⟩, ⟨15, 1, .rw, 0⟩, ⟨16, 5, .rw, 0⟩, ⟨21, 11, .rsv, 0⟩]⟩,
  -- CLK_REF_WTR (R421)
  ⟨0x40100104, [(15, 0x10)], [⟨0, 12, .rw, 10⟩, ⟨12, 20, .rsv, 0⟩]⟩,
  -- CLK_REF_STAT (R421)
  ⟨0x40100108, [(15, 0x10)], [⟨0, 3, .ro, 0⟩, ⟨3, 4, .ro, 15⟩, ⟨7, 1, .w1c, 0⟩, ⟨8, 12, .ro, 0⟩, ⟨20, 12, .ro, 0⟩]⟩,
  -- CLK_REF_FREQ (R421)
  ⟨0x4010010C, [(15, 0x10)], [⟨0, 32, .ro, 0⟩]⟩]

/-- The registers of the block at 0x4010_0000. -/
def b4010 : List RegD := b4010_0

def b4011_0 : List RegD := [
  -- AMP_CARRIER (R439)
  ⟨0x40110040, [(16, 0x4)], [⟨0, 15, .rw, 0⟩, ⟨15, 5, .rw, 10⟩, ⟨20, 1, .rw, 0⟩, ⟨21, 11, .rsv, 0⟩]⟩,
  -- AMP_CTRL (R439)
  ⟨0x40110100, [(16, 0x40)], [⟨0, 1, .rw, 0⟩, ⟨1, 1, .rw, 0⟩, ⟨2, 1, .w1s, 0⟩, ⟨3, 1, .rw, 1⟩, ⟨4, 28, .rsv, 0⟩]⟩,
  -- AMP_CFG (R439)
  ⟨0x40110104, [(16, 0x40)], [⟨0, 15, .rw, 0⟩, ⟨15, 7, .rw, 30⟩, ⟨22, 2, .rw, 0⟩, ⟨24, 8, .rsv, 0⟩]⟩,
  -- AMP_OSC (R439)
  ⟨0x40110108, [(16, 0x40)], [⟨0, 10, .rw, 400⟩, ⟨10, 10, .rw, 200⟩, ⟨20, 10, .rw, 400⟩, ⟨30, 2, .rsv, 0⟩]⟩,
  -- AMP_BAND (R439)
  ⟨0x4011010C, [(16, 0x40)], [⟨0, 10, .rw, 0⟩, ⟨10, 10, .rw, 0⟩, ⟨20, 12, .rsv, 0⟩]⟩,
  -- AMP_PROT (R439)
  ⟨0x40110110, [(16, 0x40)], [⟨0, 10, .rw, 200⟩, ⟨10, 8, .rw, 32⟩, ⟨18, 1, .rw, 1⟩, ⟨19, 13, .rsv, 0⟩]⟩,
  -- AMP_STAT (R439)
  ⟨0x40110114, [(16, 0x40)], [⟨0, 3, .ro, 0⟩, ⟨3, 1, .w1c, 0⟩, ⟨4, 1, .ro, 0⟩, ⟨5, 1, .w1c, 0⟩, ⟨6, 1, .w1c, 0⟩, ⟨7, 1, .w1c, 0⟩, ⟨8, 3, .ro, 0⟩, ⟨11, 1, .ro, 0⟩, ⟨12, 20, .ro, 0⟩]⟩,
  -- AMP_TRIP_CNT (R439)
  ⟨0x40110118, [(16, 0x40)], [⟨0, 32, .cnt, 0⟩]⟩,
  -- AMP_MEAS (R439)
  ⟨0x4011011C, [(16, 0x40)], [⟨0, 16, .ro, 0⟩, ⟨16, 16, .ro, 0⟩]⟩]

/-- The registers of the block at 0x4011_0000. -/
def b4011 : List RegD := b4011_0

def b4012_0 : List RegD := [
  -- BOOST_CTRL (R440)
  ⟨0x40120000, [(4, 0x40)], [⟨0, 1, .rw, 0⟩, ⟨1, 2, .rw, 0⟩, ⟨3, 9, .rw, 250⟩, ⟨12, 20, .rsv, 0⟩]⟩,
  -- BOOST_RAIL (R440)
  ⟨0x40120004, [(4, 0x40)], [⟨0, 15, .rw, 5120⟩, ⟨15, 1, .rsv, 0⟩, ⟨16, 15, .rw, 12800⟩, ⟨31, 1, .rsv, 0⟩]⟩,
  -- BOOST_SLEW (R440)
  ⟨0x40120008, [(4, 0x40)], [⟨0, 12, .rw, 64⟩, ⟨12, 12, .rw, 16⟩, ⟨24, 8, .rsv, 0⟩]⟩,
  -- BOOST_OVP (R440)
  ⟨0x4012000C, [(4, 0x40)], [⟨0, 15, .rw, 20480⟩, ⟨15, 8, .rw, 64⟩, ⟨23, 9, .rsv, 0⟩]⟩,
  -- BOOST_SCALE (R440)
  ⟨0x40120010, [(4, 0x40)], [⟨0, 16, .rw, 0⟩, ⟨16, 16, .rw, 0⟩]⟩,
  -- BOOST_THERM (R440)
  ⟨0x40120014, [(4, 0x40)], [⟨0, 8, .rw, 100⟩, ⟨8, 8, .rw, 120⟩, ⟨16, 15, .rw, 9600⟩, ⟨31, 1, .rsv, 0⟩]⟩,
  -- BOOST_STAT (R440)
  ⟨0x40120018, [(4, 0x40)], [⟨0, 2, .ro, 0⟩, ⟨2, 1, .w1c, 0⟩, ⟨3, 1, .w1c, 0⟩, ⟨4, 1, .ro, 0⟩, ⟨5, 1, .ro, 0⟩, ⟨6, 1, .w1c, 0⟩, ⟨7, 25, .ro, 0⟩]⟩,
  -- BOOST_VMEAS (R440)
  ⟨0x4012001C, [(4, 0x40)], [⟨0, 15, .ro, 0⟩, ⟨15, 1, .ro, 0⟩, ⟨16, 15, .ro, 0⟩, ⟨31, 1, .ro, 0⟩]⟩]

/-- The registers of the block at 0x4012_0000. -/
def b4012 : List RegD := b4012_0

def b4013_0 : List RegD := [
  -- MON_CTRL (R548)
  ⟨0x40130000, [], [⟨0, 1, .w1s, 0⟩, ⟨1, 31, .rsv, 0⟩]⟩,
  -- MON_TEMP (R548)
  ⟨0x40130004, [], [⟨0, 12, .ro, 0⟩, ⟨12, 1, .ro, 0⟩, ⟨13, 1, .ro, 0⟩, ⟨14, 1, .ro, 0⟩, ⟨15, 12, .ro, 0⟩, ⟨27, 5, .ro, 0⟩]⟩,
  -- MON_AGE_LIM (R548)
  ⟨0x40130008, [], [⟨0, 16, .rw, 30000⟩, ⟨16, 16, .rsv, 0⟩]⟩,
  -- MON_RAIL (R548)
  ⟨0x40130020, [(14, 0x4)], [⟨0, 16, .ro, 0⟩, ⟨16, 1, .ro, 0⟩, ⟨17, 1, .w1c, 0⟩, ⟨18, 14, .ro, 0⟩]⟩,
  -- MON_AGE (R548)
  ⟨0x40130080, [(8, 0x4)], [⟨0, 16, .ro, 0⟩, ⟨16, 1, .ro, 0⟩, ⟨17, 15, .ro, 0⟩]⟩]

/-- The registers of the block at 0x4013_0000. -/
def b4013 : List RegD := b4013_0

def b4020_0 : List RegD := [
  -- BIST_CTRL (R526)
  ⟨0x40200000, [], [⟨0, 1, .w1s, 0⟩, ⟨1, 1, .rw, 0⟩, ⟨2, 30, .rsv, 0⟩]⟩,
  -- BIST_STAT (R526)
  ⟨0x40200004, [], [⟨0, 2, .ro, 0⟩, ⟨2, 4, .ro, 0⟩, ⟨6, 1, .w1c, 0⟩, ⟨7, 25, .ro, 0⟩]⟩,
  -- BIST_PMASK (R526)
  ⟨0x40200008, [], [⟨0, 32, .rw, 4294918143⟩]⟩,
  -- BIST_RES (R526)
  ⟨0x40200100, [(14, 0x10)], [⟨0, 3, .ro, 0⟩, ⟨3, 29, .ro, 0⟩]⟩,
  -- BIST_SIG_LO (R526)
  ⟨0x40200104, [(14, 0x10)], [⟨0, 32, .ro, 0⟩]⟩,
  -- BIST_SIG_HI (R526)
  ⟨0x40200108, [(14, 0x10)], [⟨0, 32, .ro, 0⟩]⟩,
  -- BIST_MRES (R526)
  ⟨0x40200200, [(16, 0x8)], [⟨0, 3, .ro, 0⟩, ⟨3, 13, .ro, 0⟩, ⟨16, 16, .ro, 0⟩]⟩,
  -- BIST_MADDR (R526)
  ⟨0x40200204, [(16, 0x8)], [⟨0, 32, .ro, 0⟩]⟩]

/-- The registers of the block at 0x4020_0000. -/
def b4020 : List RegD := b4020_0

def b4021_0 : List RegD := [
  -- SEC_STAT (R514)
  ⟨0x40210000, [], [⟨0, 1, .ro, 0⟩, ⟨1, 3, .ro, 0⟩, ⟨4, 1, .ro, 0⟩, ⟨5, 1, .ro, 0⟩, ⟨6, 1, .ro, 0⟩, ⟨7, 25, .ro, 0⟩]⟩,
  -- SEC_SERIAL (R514)
  ⟨0x40210010, [(4, 0x4)], [⟨0, 32, .ro, 0⟩]⟩,
  -- SEC_ROLLBACK (R514)
  ⟨0x40210020, [], [⟨0, 7, .ro, 0⟩, ⟨7, 25, .ro, 0⟩]⟩]

/-- The registers of the block at 0x4021_0000. -/
def b4021 : List RegD := b4021_0

def b4022_0 : List RegD := [
  -- TRUSS_CTRL (R100)
  ⟨0x40220000, [(10, 0x1000)], [⟨0, 1, .rwh, 0⟩, ⟨1, 1, .rw, 0⟩, ⟨2, 1, .w1s, 0⟩, ⟨3, 29, .rsv, 0⟩]⟩,
  -- TRUSS_STATUS (R101)
  ⟨0x40220004, [(10, 0x1000)], [⟨0, 2, .ro, 0⟩, ⟨2, 5, .ro, 0⟩, ⟨7, 1, .ro, 0⟩, ⟨8, 1, .ro, 0⟩, ⟨9, 1, .w1c, 0⟩, ⟨10, 1, .w1c, 0⟩, ⟨11, 1, .w1c, 0⟩, ⟨12, 20, .ro, 0⟩]⟩,
  -- TRUSS_TL_SWAP (R102)
  ⟨0x40220008, [(10, 0x1000)], [⟨0, 1, .w1s, 0⟩, ⟨1, 1, .ro, 0⟩, ⟨2, 30, .ro, 0⟩]⟩,
  -- TRUSS_TRAP (R102)
  ⟨0x40220010, [(10, 0x1000)], [⟨0, 5, .ro, 0⟩, ⟨5, 5, .ro, 0⟩, ⟨10, 1, .w1c, 0⟩, ⟨11, 21, .ro, 0⟩]⟩,
  -- TRUSS_TRAP_PC (R102)
  ⟨0x40220014, [(10, 0x1000)], [⟨0, 14, .ro, 0⟩, ⟨14, 18, .ro, 0⟩]⟩,
  -- TRUSS_TRAP_T64_LO (R102)
  ⟨0x40220018, [(10, 0x1000)], [⟨0, 32, .ro, 0⟩]⟩,
  -- TRUSS_TRAP_T64_HI (R102)
  ⟨0x4022001C, [(10, 0x1000)], [⟨0, 32, .ro, 0⟩]⟩,
  -- TRUSS_RUN_CYC (R102)
  ⟨0x40220100, [(10, 0x1000), (32, 0x4)], [⟨0, 20, .ro, 0⟩, ⟨20, 12, .ro, 0⟩]⟩,
  -- TRUSS_TL_ACT0 (R103)
  ⟨0x40220400, [(10, 0x1000), (32, 0x10)], [⟨0, 14, .ro, 0⟩, ⟨14, 5, .ro, 0⟩, ⟨19, 5, .ro, 0⟩, ⟨24, 1, .ro, 0⟩, ⟨25, 1, .ro, 0⟩, ⟨26, 1, .ro, 0⟩, ⟨27, 1, .ro, 0⟩, ⟨28, 4, .ro, 0⟩]⟩,
  -- TRUSS_TL_SHD0 (R103)
  ⟨0x40220800, [(10, 0x1000), (32, 0x10)], [⟨0, 14, .rw, 0⟩, ⟨14, 5, .rw, 0⟩, ⟨19, 5, .rw, 0⟩, ⟨24, 1, .rw, 0⟩, ⟨25, 1, .rw, 0⟩, ⟨26, 1, .rw, 0⟩, ⟨27, 1, .rw, 0⟩, ⟨28, 4, .rsv, 0⟩]⟩,
  -- TRUSS_TL_ACT1 (R103)
  ⟨0x40220404, [(10, 0x1000), (32, 0x10)], [⟨0, 16, .ro, 0⟩, ⟨16, 4, .ro, 0⟩, ⟨20, 4, .ro, 0⟩, ⟨24, 4, .ro, 0⟩, ⟨28, 4, .ro, 0⟩]⟩,
  -- TRUSS_TL_SHD1 (R103)
  ⟨0x40220804, [(10, 0x1000), (32, 0x10)], [⟨0, 16, .rw, 0⟩, ⟨16, 4, .rw, 0⟩, ⟨20, 4, .rw, 0⟩, ⟨24, 4, .rw, 0⟩, ⟨28, 4, .rw, 0⟩]⟩]

def b4022_1 : List RegD := [
  -- TRUSS_TL_ACT2 (R103)
  ⟨0x40220408, [(10, 0x1000), (32, 0x10)], [⟨0, 20, .ro, 0⟩, ⟨20, 12, .ro, 0⟩]⟩,
  -- TRUSS_TL_SHD2 (R103)
  ⟨0x40220808, [(10, 0x1000), (32, 0x10)], [⟨0, 20, .rw, 0⟩, ⟨20, 12, .rsv, 0⟩]⟩,
  -- TRUSS_TL_ACT3 (R103)
  ⟨0x4022040C, [(10, 0x1000), (32, 0x10)], [⟨0, 8, .ro, 0⟩, ⟨8, 9, .ro, 0⟩, ⟨17, 15, .ro, 0⟩]⟩,
  -- TRUSS_TL_SHD3 (R103)
  ⟨0x4022080C, [(10, 0x1000), (32, 0x10)], [⟨0, 8, .rw, 0⟩, ⟨8, 9, .rw, 0⟩, ⟨17, 15, .rsv, 0⟩]⟩,
  -- TRUSS_SYNC (R104)
  ⟨0x4022A000, [], [⟨0, 16, .ro, 0⟩, ⟨16, 16, .ro, 0⟩]⟩,
  -- TRUSS_BENT_OP (R104)
  ⟨0x4022A010, [(2, 0x10)], [⟨0, 4, .rw, 4⟩, ⟨4, 1, .w1s, 0⟩, ⟨5, 27, .rsv, 0⟩]⟩,
  -- TRUSS_BENT_STAT (R104)
  ⟨0x4022A014, [(2, 0x10)], [⟨0, 4, .ro, 4⟩, ⟨4, 8, .ro, 50⟩, ⟨12, 1, .ro, 0⟩, ⟨13, 5, .ro, 0⟩, ⟨18, 14, .ro, 0⟩]⟩]

/-- The registers of the block at 0x4022_0000. -/
def b4022 : List RegD := b4022_0 ++ b4022_1

/-- The registers of the 64 KB block that an address lies in (R274). MACB repeats MACA. -/
def ofBlock (a : Nat) : List RegD :=
  match a / 0x10000 with
  | 0x4000 => b4000
  | 0x4001 => b4001
  | 0x4002 => b4002
  | 0x4003 => b4003
  | 0x4004 => b4004
  | 0x4005 => b4004
  | 0x4006 => b4006
  | 0x4007 => b4007
  | 0x4008 => b4008
  | 0x4009 => b4009
  | 0x400A => b400A
  | 0x400B => b400B
  | 0x400C => b400C
  | 0x400D => b400D
  | 0x400E => b400E
  | 0x400F => b400F
  | 0x4010 => b4010
  | 0x4011 => b4011
  | 0x4012 => b4012
  | 0x4013 => b4013
  | 0x4020 => b4020
  | 0x4021 => b4021
  | 0x4022 => b4022
  | _ => []

end RegMap

end Sys2Proof
end

