-- ==== Sys2Proof/Machine/Tab.lean ====
section
/-! DEFINITION. Operations on sparse tables: reading, writing that keeps the canonical form (keys strictly
rising, no entry equal to what an unlisted key reads as), plain insertion, and the form itself. -/

namespace Sys2Proof

/-- The entry at key `n`, or `d` where no entry is listed. -/
def Tab.get {α : Type} (d : α) : Tab α → Nat → α
  | [], _ => d
  | (k, v) :: t, n => if k = n then v else Tab.get d t n

/-- Store `v` at key `n`, whatever `v` is. -/
def Tab.put {α : Type} : Tab α → Nat → α → Tab α
  | [], n, v => [(n, v)]
  | (k, w) :: t, n, v =>
    if n < k then (n, v) :: (k, w) :: t
    else if n = k then (n, v) :: t
    else (k, w) :: Tab.put t n v

/-- Remove the entry at key `n`. -/
def Tab.del {α : Type} (t : Tab α) (n : Nat) : Tab α := t.filter (fun e => e.1 != n)

/-- Store `v` at key `n`; storing the default removes the entry. -/
def Tab.set {α : Type} [DecidableEq α] (d : α) (t : Tab α) (n : Nat) (v : α) : Tab α :=
  if v = d then t.del n else t.put n v

/-- The entry listed at key `n`. -/
def Tab.find? {α : Type} : Tab α → Nat → Option α
  | [], _ => none
  | (k, v) :: t, n => if k = n then some v else Tab.find? t n

/-- Change the entry at key `n`. -/
def Tab.upd {α : Type} (d : α) (t : Tab α) (n : Nat) (f : α → α) : Tab α := t.put n (f (t.get d n))

/-- Change the entry at key `n` where it is listed. -/
def Tab.mod {α : Type} (t : Tab α) (n : Nat) (f : α → α) : Tab α :=
  t.map (fun e => if e.1 = n then (e.1, f e.2) else e)

/-- Every key of the table is above `n`. -/
def Tab.above {α : Type} (n : Nat) : Tab α → Bool
  | [] => true
  | (k, _) :: _ => decide (n < k)

/-- The keys rise strictly. -/
def Tab.sorted {α : Type} : Tab α → Bool
  | [] => true
  | (k, _) :: t => Tab.above k t && Tab.sorted t

/-- The canonical form: strictly rising keys and no entry equal to the default. -/
def Tab.wf {α : Type} [DecidableEq α] (d : α) (t : Tab α) : Bool :=
  Tab.sorted t && t.all (fun e => e.2 != d)

end Sys2Proof
end

