-- ==== Sys2Proof/Machine/Ops.lean ====
section
/-! DEFINITION. The named operations on the hardware that every family uses: register fields, memory,
the clock, the trace ring, and the raising of a fault event. -/

namespace Sys2Proof.Machine

/-! ### Register fields -/

/-- The key of a field in the register file. -/
def RFkey (f : RF) : Nat := f.addr * 32 + f.lo

/-- The value of a field. -/
def Hw.g (h : Hw) (f : RF) : Nat := h.regs.get f.rst (RFkey f)

/-- A field of one bit, or any field, as a truth value. -/
def Hw.b (h : Hw) (f : RF) : Bool := h.g f != 0

/-- Set a field; a value wider than the field is cut to its width. -/
def Hw.p (h : Hw) (f : RF) (v : Nat) : Hw := { h with regs := h.regs.put (RFkey f) (v % 2 ^ f.w) }

/-- Set a field to 1. -/
def Hw.s1 (h : Hw) (f : RF) : Hw := h.p f 1

/-- Set a field to 0. -/
def Hw.s0 (h : Hw) (f : RF) : Hw := h.p f 0

/-- Add `n` to a counting field, wrapping. -/
def Hw.add (h : Hw) (f : RF) (n : Nat) : Hw := h.p f (h.g f + n)

def Hw.inc (h : Hw) (f : RF) : Hw := h.add f 1

/-- Bit `i` of a field. -/
def Hw.bit (h : Hw) (f : RF) (i : Nat) : Bool := bitOf (h.g f) i

/-- Set or clear bit `i` of a field. -/
def Hw.setBit (h : Hw) (f : RF) (i : Nat) (v : Bool) : Hw :=
  if h.bit f i = v then h else if v then h.p f (h.g f + 2 ^ i) else h.p f (h.g f - 2 ^ i)

/-- Exchange the contents of two lists of fields (a swap of an active and a shadow copy). -/
def Hw.swapF (h : Hw) (xs : List (RF × RF)) : Hw :=
  xs.foldl (fun h e => let a := h.g e.1; let b := h.g e.2; (h.p e.1 b).p e.2 a) h

/-! ### Memory (R274) -/

/-- What a byte of memory that nothing has written reads as: 0 (DESIGN CHOICE, log entry 6). -/
def memDefault : Byte := 0

/-- The canonical form of a memory. -/
def Memory.wf (m : Tab Byte) : Bool := Tab.wf memDefault m

def Hw.rd8 (h : Hw) (a : Nat) : Byte := h.mem.get memDefault a

def Hw.wr8 (h : Hw) (a : Nat) (v : Byte) : Hw := { h with mem := h.mem.set memDefault a v }

def Hw.rdBytes (h : Hw) (a n : Nat) : List Byte := (List.range n).map (fun i => h.rd8 (a + i))

/-- Store bytes at rising addresses. -/
def wrList (m : Tab Byte) (a : Nat) : List Byte → Tab Byte
  | [] => m
  | b :: t => wrList (m.set memDefault a b) (a + 1) t

def Hw.wrBytes (h : Hw) (a : Nat) (bs : List Byte) : Hw := { h with mem := wrList h.mem a bs }

/-- A little-endian word of n bytes (R55). -/
def Hw.rdN (h : Hw) (a n : Nat) : Nat := leNat (h.rdBytes a n)

def Hw.wrN (h : Hw) (a n v : Nat) : Hw := h.wrBytes a (leBytes n v)

def Hw.rd32 (h : Hw) (a : Nat) : Word := BitVec.ofNat 32 (h.rdN a 4)

def Hw.wr32 (h : Hw) (a : Nat) (v : Word) : Hw := h.wrN a 4 v.toNat

/-- Zero every byte of memory but those at the addresses of `q`. -/
def Hw.keepMem (h : Hw) (q : Nat → Bool) : Hw := { h with mem := h.mem.filter (fun e => q e.1) }

/-- Store zeros over a range. -/
def Hw.clearMem (h : Hw) (a n : Nat) : Hw := h.keepMem (fun x => x < a || a + n ≤ x)

/-- The deck's first internal byte address. -/
def deckBase : Nat := 0x10000000

/-- Host window buffers stand at 0xFF00_0000 plus the host address, the form in which R280 records them. -/
def hostBase : Nat := 0xFF000000

/-! ### Time (R19, R338) -/

/-- Sample rate in Hz of a rate code (R27). -/
def rateHz (c : Nat) : Nat :=
  match c with
  | 0 => 44100
  | 1 => 48000
  | 2 => 88200
  | 3 => 96000
  | 4 => 176400
  | _ => 192000

def Hw.fs (h : Hw) : Nat := rateHz h.deal.rate.val

/-- Samples per block (R20, R27). -/
def Hw.bs (h : Hw) : Nat := 4 * 2 ^ h.deal.blk.val

/-- The media sample index at T64 value t (R19). -/
def Hw.media (h : Hw) (t : Nat) : Nat := t * h.fs / 1000000000

/-- The instant of media sample index n (R19). -/
def Hw.instant (h : Hw) (n : Nat) : Nat := ceilDiv (n * 1000000000) h.fs

/-- Carry the clock forward to the deadline that a command stands for (DESIGN CHOICE, log entry 9). -/
def Hw.advanceTo (h : Hw) (t : Nat) : Hw := if h.t64 < t then { h with t64 := t, sub := 0 } else h

/-- With no command waiting, one TIME cycle passes: T64 advances by 2 ns × (1 + rate), with 48 fractional
bits (R338; DESIGN CHOICE, log entry 4). -/
def Hw.idle (h : Hw) : Hw :=
  let step := (2 ^ 41 + 2 * h.time.rate) * 2 ^ 8
  let v := ((h.t64 * 2 ^ 48 + h.sub : Nat) : Int) + step
  { h with t64 := (v / 2 ^ 48).toNat, sub := (v % 2 ^ 48).toNat }

/-- The period of one block in ns, rounded up to the next tick's instant. -/
def Hw.nextTick (h : Hw) (t : Nat) : Nat := h.instant (t + h.bs)

/-- A free value, and the state that has drawn it (DESIGN CHOICE, log entry 3). -/
def Hw.draw (h : Hw) : Nat × Hw := (Config.freeValue h.fresh, { h with fresh := h.fresh + 1 })

/-! ### The trace ring (R54–R60) -/

/-- Time-uncertain (R22, R59, R419): the servo is not locked (TIME_STAT.state 0b10, R344), or CLK_STAT.state is not
locked (0b010, R419) (DEDUCED, log entry 50). -/
def Hw.uncertain (h : Hw) : Bool := h.g Reg.TIME_STAT_state != 2 || h.g Reg.CLK_STAT_state != 2

/-- Write one record: it takes its rseq whether stored or not; a frozen ring stores nothing (R56, R60). -/
def Hw.traceAt (h : Hw) (t : Nat) (type : Nat) (conseq : Bool) (payload : List Byte) : Hw :=
  let r := h.ring
  let rec' : TraceRec :=
    { t64 := t, engineId := h.g Reg.GNOGO_ROLE_engine_id, type := type,
      rflags := b2n conseq + 2 * b2n h.uncertain, rseq := r.rseq, payload := padB 16 payload }
  let seq := (r.rseq + 1) % 4294967296
  if r.postFreeze = 0 then { h with ring := { r with rseq := seq } }
  else
    let last := r.writeIdx + 1 = 8190
    let post := if r.postFreeze = 0xFFFF then 0xFFFF else r.postFreeze - 1
    { h with ring :=
      { r with
        recs := r.recs.put r.writeIdx rec'
        writeIdx := if last then 0 else r.writeIdx + 1
        wrapCnt := if last then (r.wrapCnt + 1) % 4294967296 else r.wrapCnt
        rseq := seq
        postFreeze := post
        freezeT64 := if post = 0 then h.t64 else 0 } }

def Hw.trace (h : Hw) (type : Nat) (payload : List Byte) : Hw := h.traceAt h.t64 type false payload

/-- Arm the freeze at a SEVERE or FATAL event (R60); an armed or frozen ring is not armed again. -/
def Hw.armFreeze (h : Hw) : Hw :=
  let r := h.ring
  if r.postFreeze != 0xFFFF then h
  else
    let h := { h with ring := { r with postFreeze := r.postCount,
                                       freezeT64 := if r.postCount = 0 then h.t64 else 0 } }
    h.s1 Reg.HOST_IRQ_STAT_trace

/-- A control change applied, record type 0x01 (R57, R553). -/
def Hw.traceChange (h : Hw) (t param inst : Nat) (v : Int) : Hw :=
  h.traceAt t 1 false (leBytes 4 param ++ leBytes 4 inst ++ leBytes 8 (lowBits 64 v))

/-! ### Fault events (R460, R472, R476) -/

/-- Insert an event in order of arrival, then of source number. -/
def insertEvent (e : FaultEvent) : List FaultEvent → List FaultEvent
  | [] => [e]
  | x :: t =>
    if x.t64 = e.t64 && e.source < x.source then e :: x :: t else x :: insertEvent e t

/-- The logic partitions (R515) and memory groups (R516) that a fault source watches. -/
def sourceParts (s : Nat) : List Nat × List Nat :=
  if s < 0x0A then ([s], [])
  else if 0x10 ≤ s && s < 0x1A then ([], [s - 0x10])
  else if s = 0x1A || s = 0x1B then ([], [s - 0x1A + 10])
  else if s = 0x1C then ([], [12])
  else if s = 0x1D then ([], [13])
  else if s = 0x1E || s = 0x1F then ([], [14])
  else if s = 0x20 then ([], [15])
  else if s = 0x28 then ([10], [])
  else if 0x32 ≤ s && s ≤ 0x35 then ([11], [])
  else if s = 0x48 || s = 0x49 || (0x50 ≤ s && s ≤ 0x5C) || (0x70 ≤ s && s ≤ 0xBF) then ([12], [])
  else if s = 0x3A || s = 0x4A then ([13], [])
  else ([], [])

/-- A core holds a group, or a re-deal gives it work. -/
def Hw.coreHeld (h : Hw) (n : Nat) : Bool :=
  let d := h.deal
  d.tasks.any (fun t => t.core.val = n) || d.restarts.any (fun r => r.place.any (fun p => p.1 == n))
    || d.moves.any (fun m => m.engine.isNone && m.dst = n)

/-- A quick test takes the item of a PMASK bit: a core without a group with its memories, the other partitions while no deal runs,
and memory groups 10–14 (R516, R520). -/
def Hw.quickTakes (h : Hw) (i : Nat) : Bool :=
  if i < 10 then !h.coreHeld i
  else if i < 16 then !h.deal.running
  else if i < 26 then !h.coreHeld (i - 16)
  else i < 31

/-- A partition or group under test masks the fault sources that watch it (R522). -/
def Hw.masked (h : Hw) (s : Nat) : Bool :=
  let tested := fun (i : Nat) => h.bit Reg.BIST_PMASK_mask i && (h.b Reg.BIST_CTRL_mode || h.quickTakes i)
  h.g Reg.BIST_STAT_state = 1
    && ((sourceParts s).1.any tested || (sourceParts s).2.any (fun g => tested (16 + g)))

/-- A fault event reaches the fault unit: its sticky bit is set; it waits in the queue of 16, from which
the highest-numbered of the newest arrivals is dropped and counted when it is full. -/
def Hw.raise (h : Hw) (source code context : Nat) (stream : Nat := 0xFFFFFFFF) : Hw :=
  if h.masked source then h
  else
    let h := h.setBit (Reg.FAULT_STICKY_bit (source / 32)) (source % 32) true
    let q := insertEvent ⟨source, code, context, h.t64, stream⟩ h.flt.queue
    let h := { h with flt := { h.flt with queue := q.take 16 } }
    if q.length ≤ 16 then h else (h.inc Reg.FAULT_LOST_count).s1 Reg.FAULT_STAT_ovf

/-! ### Small shared pieces -/

def Hw.core (h : Hw) (n : Nat) : Truss := h.cores.get {} n

def Hw.setCore (h : Hw) (n : Nat) (c : Truss) : Hw := { h with cores := h.cores.put n c }

def Hw.rail (h : Hw) (b : Nat) : Rail := h.rails.get {} b

def Hw.setRail (h : Hw) (b : Nat) (r : Rail) : Hw := { h with rails := h.rails.put b r }

end Sys2Proof.Machine
end

