-- ==== Sys2Proof/Machine/Mem.lean ====
section
/-! DEFINITION. The internal address map (R263–R275, R293–R294): what stands at an address for a master,
the recording of access errors, and plain reads and writes of memory words. -/

namespace Sys2Proof.Machine

/-- A fault event whose code and context the manual does not state: both are open values
(UNVERIFIED, log entry 22). -/
def Hw.raiseU (h : Hw) (source : Nat) : Hw :=
  let (v, h) := h.draw
  h.raise source (Config.faultCode source % 256) (v % 2 ^ 64)

/-- The same for an event that concerns a stream (R376). -/
def Hw.raiseStream (h : Hw) (source stream : Nat) : Hw :=
  let (v, h) := h.draw
  h.raise source (Config.faultCode source % 256) (v % 2 ^ 64) stream

/-- What an internal address names. -/
inductive Place where
  /-- a byte of memory -/
  | mem (a : Nat)
  /-- the boot ROM, read only -/
  | rom (off : Nat)
  /-- a register block -/
  | reg (a : Nat)
  /-- window w in remote mode, deck offset on the other engine -/
  | remote (w : Nat) (off : Nat)
  /-- a lane store that the deal has power-gated (R17) -/
  | gated
  /-- dealer and peg core debug -/
  | debug (a : Nat)
  /-- no region, or one that refuses the master (R275) -/
  | unmapped
deriving DecidableEq, Repr

def inRange (a lo hi : Nat) : Bool := decide (lo ≤ a) && decide (a ≤ hi)

/-- The register blocks of R274. -/
def isRegBlock (a : Nat) : Bool :=
  inRange a 0x40000000 0x4013FFFF || inRange a 0x40200000 0x4022FFFF

/-- The place of an address outside the window region. `dealer` is a DMA access of dealer origin (R550). -/
def Hw.placeBase (h : Hw) (m : Nat) (dealer : Bool) (a : Nat) : Place :=
  if a ≤ 0x0001FFFF then .rom a
  else if inRange a 0x10000000 0x11FFFFFF then .mem a
  else if inRange a 0x20000000 0x203FFFFF then .mem a
  else if inRange a 0x21000000 0x219FFFFF then
    let o := a % 0x100000
    if o < 0xA0000 then .mem a
    else if o < 0xB0000 then (if (h.core ((a - 0x21000000) / 0x100000)).gated then .gated else .mem a)
    else .unmapped
  else if inRange a 0x30000000 0x300FFFFF then (if m = 0x0A || dealer then .mem a else .unmapped)
  else if inRange a 0x30100000 0x3017FFFF then (if m = 0x0B || dealer then .mem a else .unmapped)
  else if inRange a 0x38000000 0x383FFFFF then .mem a
  else if isRegBlock a then .reg a
  else if inRange a 0xF0000000 0xF00FFFFF then
    (if m = 0x3F && h.b Reg.SYS_DEBUG_unlocked then .debug a else .unmapped)
  else .unmapped

/-- Base and length of window w, when it is enabled (R293). -/
def Hw.winSpan (h : Hw) (w : Nat) : Nat × Nat :=
  (h.g (Reg.XBAR_WIN_BASE_base w) * 65536, 2 ^ h.g (Reg.XBAR_WIN_CTRL_size w))

/-- The enabled window that covers an address. -/
def Hw.winOf (h : Hw) (a : Nat) : Option Nat :=
  (List.range 16).find? (fun w =>
    h.b (Reg.XBAR_WIN_CTRL_en w) && decide ((h.winSpan w).1 ≤ a)
      && decide (a < (h.winSpan w).1 + (h.winSpan w).2))

/-- The place of an internal address for a master (R274, R275, R293, R294). -/
def Hw.place (h : Hw) (m : Nat) (dealer : Bool) (a : Nat) : Place :=
  if inRange a 0x60000000 0x7FFFFFFF then
    match h.winOf a with
    | none => .unmapped
    | some w =>
      let t := h.g (Reg.XBAR_WIN_TGT_tgt w) + (a - (h.winSpan w).1)
      if h.b (Reg.XBAR_WIN_CTRL_remote w) then .remote w t else h.placeBase m dealer t
  else h.placeBase m dealer a

/-- Kinds of access error, the codes of SYS_ACC_ERR_INFO.kind and the bits of SYS_ACC_ERR (R280). -/
def kNarrow : Nat := 0
def kUnaligned : Nat := 1
def kTimeout : Nat := 2
def kDecode : Nat := 3
def kValue : Nat := 4

def accErrBit (kind : Nat) : RF :=
  match kind with
  | 0 => Reg.SYS_ACC_ERR_narrow
  | 1 => Reg.SYS_ACC_ERR_unaligned
  | 2 => Reg.SYS_ACC_ERR_timeout
  | 3 => Reg.SYS_ACC_ERR_decode
  | _ => Reg.SYS_ACC_ERR_value

/-- A register of the sill window while the bridge is down: the acknowledgement never returns, and the access ends with the
stall timeout (R269). -/
def Hw.stalls (h : Hw) (a : Nat) : Bool := inRange a 0x40100000 0x401FFFFF && !h.b Reg.SYS_STATE_bridge_up

/-- Record an access error (R281). Size codes of R280: 0 8-bit, 1 16-bit, 2 32-bit, 3 half of 64, 4 host. -/
def Hw.accErr (h : Hw) (kind addr : Nat) (write : Bool) (size master : Nat) : Hw :=
  let h := (h.s1 (accErrBit kind)).inc Reg.SYS_ACC_ERR_CNT_count
  let h := if h.b Reg.SYS_ACC_ERR_INFO_valid then h else
    (((((h.p Reg.SYS_ACC_ERR_ADDR_addr addr).p Reg.SYS_ACC_ERR_INFO_kind kind).p
      Reg.SYS_ACC_ERR_INFO_write (b2n write)).p Reg.SYS_ACC_ERR_INFO_size size).p
      Reg.SYS_ACC_ERR_INFO_master master).s1 Reg.SYS_ACC_ERR_INFO_valid
  h.raiseU 0x30

/-- A discarded reserved code (R273). -/
def Hw.valueErr (h : Hw) (addr master : Nat) : Hw := h.accErr kValue addr true 2 master

/-- The kind of error of an access to a place that does not answer: a power-gated lane store gives the stall timeout (R17,
R269), anything else is not mapped for the master (R275). -/
def placeErrKind (p : Place) : Nat := if p = .gated then kTimeout else kDecode

/-- A byte at a place that holds memory. -/
def Hw.placeByte (h : Hw) (p : Place) (i : Nat) : Byte :=
  match p with
  | .mem a => h.rd8 (a + i)
  | .rom o => Config.bootRom (o + i)
  | _ => 0

/-- The ECC source of the memory at an address (R463, R480). -/
def eccSource (a : Nat) : Nat :=
  if inRange a 0x21000000 0x219FFFFF then 0x10 + (a - 0x21000000) / 0x100000
  else if inRange a 0x20000000 0x201FFFFF then 0x1A
  else if inRange a 0x20200000 0x203FFFFF then 0x1B
  else if inRange a 0x30000000 0x300FFFFF then 0x1E
  else if inRange a 0x30100000 0x3017FFFF then 0x1F
  else if inRange a 0x38000000 0x383FFFFF then 0x1D
  else if inRange a 0x40020000 0x4002FFFF then 0x20
  else 0x1C

/-- An ECC error at an address: its word's address and an open SRAM instance in the context
(UNVERIFIED, log entry 30). -/
def Hw.eccEvent (h : Hw) (a : Nat) (double : Bool) : Hw :=
  let (v, h) := h.draw
  h.raise (eccSource a) (1 + b2n double) (a + 2 ^ 32 * (v % 2 ^ 16))

end Sys2Proof.Machine
end

