-- ==== Sys2Proof/Machine/XbarOps.lean ====
section
/-! DEFINITION. The crossbar (R288–R307): targets, bursts and pieces, arbitration, trump locks, and the
windows' statistics. -/

namespace Sys2Proof.Machine

/-- The crossbar target of a place (R289). -/
def targetOf (p : Place) : Option Nat :=
  match p with
  | .rom _ => some 0x2F
  | .reg a => some (if inRange a 0x40100000 0x4013FFFF then 0x31 else 0x30)
  | .remote _ _ => some 0x32
  | .mem a =>
    if inRange a 0x10000000 0x11FFFFFF then some ((a / 0x100000) % 32)
    else if inRange a 0x20000000 0x201FFFFF then some 0x21
    else if inRange a 0x20200000 0x203FFFFF then some 0x22
    else if inRange a 0x21000000 0x219FFFFF then some (0x23 + (a - 0x21000000) / 0x100000)
    else if inRange a 0x30000000 0x300FFFFF then some 0x2D
    else if inRange a 0x30100000 0x3017FFFF then some 0x2E
    else some 0x20
  | .gated => some 0x23
  | .debug _ => none
  | .unmapped => none

def Hw.arb (h : Hw) (t : Nat) : Arb := h.xbar.arbs.get {} t

/-- Store an arbiter; XBAR_ARB_STAT shows the lock's owner, or the parked master (R316). -/
def Hw.setArb (h : Hw) (t : Nat) (a : Arb) : Hw :=
  let x := h.xbar
  let h := { h with xbar := { x with arbs := x.arbs.put t a } }
  (h.p (Reg.XBAR_ARB_STAT_owner t) (a.owner.getD a.last)).p (Reg.XBAR_ARB_STAT_locked t) (b2n a.owner.isSome)

def Hw.burst (h : Hw) (m : Nat) : BurstSt := h.xbar.bursts.get {} m

def Hw.setBurst (h : Hw) (m : Nat) (b : BurstSt) : Hw :=
  let x := h.xbar
  { h with xbar := { x with bursts := x.bursts.put m b } }

/-- Attribute bits of R306. -/
def aErr : Nat := 1
def aTorn : Nat := 2
def aNolock : Nat := 4
def aBroken : Nat := 8

def Hw.addAttr (h : Hw) (m bits : Nat) : Hw :=
  let b := h.burst m
  h.setBurst m { b with attr := Nat.lor b.attr bits }

/-- The pieces of a burst of n bytes: none crosses a 256-byte boundary (R291). -/
def splitPieces (p : Piece) : Nat → Nat → List Byte → List Piece
  | 0, _, _ => []
  | f + 1, a, bytes =>
    let left := p.addr + p.len - a
    if left = 0 then []
    else
      let n := min left (256 - a % 256)
      { p with addr := a, len := n, data := bytes.take n, lock := p.lock && a = p.addr,
               unlock := p.unlock && n = left }
        :: splitPieces p f (a + n) (bytes.drop n)

/-- Origin of a piece of the DMA ports: that of the channel that runs (R550). -/
def Hw.dmaOrigin (h : Hw) : Bool :=
  (List.range 16).any (fun c =>
    h.b (Reg.DMA_CH_STAT_fw c) && (h.g (Reg.DMA_CH_STAT_state c) == 1 || h.g (Reg.DMA_CH_STAT_state c) == 2))

/-- A burst has ended: the pieces not yet requested are not issued (R292). -/
def Hw.endBurst (h : Hw) (m : Nat) : Hw := h.setBurst m { h.burst m with rest := [], done := true }

/-- A lock request meets another master's lock (R304): refused; the eighth refusal reserves. -/
def Arb.refuse (a : Arb) (p : Piece) : Arb :=
  let p := { p with tries := p.tries + 1 }
  { a with refused := a.refused ++ [p],
           resv := if p.tries ≥ 8 && a.resv.isNone then some p.master else a.resv }

/-- Whether a piece takes a lock at a target: 0x2F–0x32 ignore the attribute (R302). -/
def locks (t : Nat) (p : Piece) : Bool := p.lock && t < 0x2F

/-- A lock is released: a reserved master takes it (R304). -/
def Arb.release (a : Arb) : Arb :=
  let a := { a with owner := none, count := 0 }
  match a.resv with
  | some m =>
    match a.refused.find? (fun p => p.master = m) with
    | some p => { a with owner := some m, lockAddr := p.addr, resv := none, refused := a.refused.erase p,
                         queue := a.queue ++ [p] }
    | none => { a with resv := none }
  | none => a

/-- A lock is broken: it is released, and the rest of the owner's sequence goes on unlocked (R303). -/
def Arb.breakLock (a : Arb) (o : Nat) : Arb := let a := a.release; { a with broken := o :: a.broken.filter (· != o) }

/-- A piece is granted: it occupies the target; a lock is taken, counted, or broken at the fifth piece
(R302, R303). Answers the arbiter and whether a lock broke. -/
def Arb.grant (a : Arb) (t now : Nat) (p : Piece) : Arb × Option Nat :=
  let a := { a with inFlight := some p, last := p.master, idle := false }
  match a.owner with
  | some o =>
    if o = p.master then
      if a.count ≥ 4 then (a.breakLock o, some o)
      else ({ a with count := a.count + 1, lockedAt := if a.count = 0 then now else a.lockedAt }, none)
    else (a, none)
  | none =>
    if locks t p then
      let others := a.queue.filter (fun q => locks t q && q.master != p.master)
      let a := { a with queue := a.queue.filter (fun q => !(locks t q && q.master != p.master)),
                        owner := some p.master, count := 1, lockAddr := p.addr, lockedAt := now, broken := a.broken.filter (· != p.master) }
      (others.foldl Arb.refuse a, none)
    else (a, none)

/-- XBAR_ARB_STAT.overrun and LOCK_OVERRUN (R303). -/
def Hw.lockOverrun (h : Hw) (t o : Nat) : Hw :=
  ((h.s1 (Reg.XBAR_ARB_STAT_overrun t)).p (Reg.XBAR_ARB_STAT_ovr_master t) o).raiseU 0x33

/-- Grant a piece at target t, with the attributes its grant earns. -/
def Hw.grantPiece (h : Hw) (t : Nat) (p : Piece) : Hw :=
  let a := h.arb t
  let took := locks t p && (a.owner.isNone || (a.owner = some p.master && a.count = 0))
  let (a', broke) := a.grant t h.t64 p
  let h := h.setArb t a'
  let h := if took && h.b (Reg.XBAR_ARB_STAT_torn t) then h.addAttr p.master aTorn else h
  let h := if p.lock && t ≥ 0x2F then h.addAttr p.master aNolock else h
  match broke with
  | some o => h.lockOverrun t o
  | none => h

/-- The bent clock that serves a target is stopped for a retune, and its accesses wait (R17). -/
def Hw.retuning (h : Hw) (t : Nat) : Bool :=
  let b := if t = 0x21 then some 0 else if t = 0x22 then some 1
    else if inRange t 0x23 0x2C then some ((t - 0x23) / 5) else none
  match b with
  | some b => (h.rail b).retune.isSome
  | none => false

/-- A piece arrives at its target: a locked target refuses another master's lock request; the parked
master's request at an idle arbiter is granted in the cycle it arrives, though others request at that T64 too (R300, R304;
DEDUCED, log entry 29). -/
def Hw.present (h : Hw) (t : Nat) (p : Piece) : Hw :=
  let a := h.arb t
  let foreign := match a.owner with
    | some o => o != p.master
    | none => false
  if locks t p && foreign then h.setArb t (a.refuse p)
  else if a.idle && a.queue.all (fun q => q.arrived = h.t64) && a.inFlight.isNone && a.last = p.master && !foreign && !h.retuning t
    then h.grantPiece t p
  else h.setArb t { a with queue := a.queue ++ [{ p with arrived := h.t64 }] }

/-- An access outside every region, to a window region no enabled window covers, or a write to a remote
window: an error response and SYS_ACC_ERR.decode (R275, R294). -/
def Hw.decodeError (h : Hw) (p : Piece) : Hw :=
  let h := h.accErr kDecode p.addr p.write 2 p.master
  (h.addAttr p.master aErr).endBurst p.master

/-- Request the next piece of a master's bursts. -/
def Hw.issue (h : Hw) (m : Nat) : Hw :=
  let b := h.burst m
  match b.rest with
  | [] => h.setBurst m { b with done := true }
  | p :: t =>
    let p := { p with first := h.t64 }
    let h := h.setBurst m { b with rest := t, done := false }
    match h.place m p.dealer p.addr with
    | .remote _ _ => if p.write then h.decodeError p else h.present 0x32 p
    | pl => match targetOf pl with
      | some tg => h.present (if pl = .gated then 0x23 + (p.addr - 0x21000000) / 0x100000 else tg) p
      | none => h.decodeError p

/-- XBAR_BURST_REQUEST (R290, R291): up to 256 beats; a burst behind another of its master follows it. -/
def Hw.burstRequest (h : Hw) (m : Nat) (write lock unlock : Bool) (addr beats : Nat) (data : List Byte) : Hw :=
  let n := 16 * min beats 256
  let len := if write then min data.length n else n
  let p : Piece := { master := m, write := write, lock := lock && 0x0A ≤ m && (m ≤ 0x0B || m = 0x10 || m = 0x11),
                     unlock := unlock, addr := addr, len := len, data := if write then data.take n else [],
                     dealer := (m = 0x10 || m = 0x11) && h.dmaOrigin }
  let ps := splitPieces p (len + 1) addr p.data
  if ps.isEmpty then h
  else
    let b := h.burst m
    if b.done then (h.setBurst m { rest := ps, done := false }).issue m
    else h.setBurst m { b with rest := b.rest ++ ps }

/-- Masters in round-robin order after the last granted. -/
def rrKey (last m : Nat) : Nat := (m + 64 - (last + 1)) % 64

/-- The piece an arbiter grants (R299, R301, R302): the lock's owner alone; else the guarded in their order;
else the highest priority, round robin. -/
def Hw.choose (h : Hw) (a : Arb) : Option Piece :=
  let can : List Piece := match a.owner with
    | some o => a.queue.filter (fun p => p.master = o)
    | none => a.queue
  let heads := can.foldl (fun (s : List Piece) (p : Piece) => if s.any (fun q => q.master = p.master) then s else s ++ [p]) []
  let guardedPs := heads.filter (fun p => p.guarded.isSome)
  let better := fun (p q : Piece) =>
    if guardedPs.isEmpty then
      let pp := h.g (Reg.XBAR_PRIO_prio p.master)
      let qp := h.g (Reg.XBAR_PRIO_prio q.master)
      if pp != qp then qp < pp else rrKey a.last p.master < rrKey a.last q.master
    else
      let pg := p.guarded.getD 0
      let qg := q.guarded.getD 0
      if pg != qg then pg < qg else p.master < q.master
  let pool := if guardedPs.isEmpty then heads else guardedPs
  pool.foldl (fun (b : Option Piece) p => match b with
    | none => some p
    | some q => if better p q then some p else some q) none

/-- The requests that lost a decision: the 31st loss guards them (R301). -/
def Arb.losers (a : Arb) : Arb :=
  let hit := a.queue.any (fun p => p.lost + 1 ≥ 31 && p.guarded.isNone)
  { a with
    queue := a.queue.map (fun p =>
      { p with lost := p.lost + 1,
               guarded := if p.lost + 1 ≥ 31 && p.guarded.isNone then some a.guards else p.guarded })
    guards := if hit then a.guards + 1 else a.guards }

/-- XBAR_LOCK_CFG.wait_us in ns; 0 is taken as 1 (R316). -/
def Hw.lockWaitNs (h : Hw) : Nat := max 1 (h.g Reg.XBAR_LOCK_CFG_wait_us) * 1000

/-- The lock requests that wait at a target past XBAR_LOCK_CFG.wait_us end without effect, with nolock; a grant in the
deadline's own cycle is on time (R7, R304). -/
def Hw.expireLocks (h : Hw) (t : Nat) : Hw :=
  let a := h.arb t
  let late := fun (p : Piece) => locks t p && a.owner != some p.master
    && decide (p.first + h.lockWaitNs < h.t64)
  ((a.queue ++ a.refused).filter late).foldl (fun h p =>
    let a := h.arb t
    let h := h.setArb t { a with
      queue := a.queue.erase p
      refused := a.refused.erase p
      resv := if a.resv = some p.master then none else a.resv }
    ((h.inc (Reg.XBAR_ARB_NOLOCK_count t)).addAttr p.master aNolock).endBurst p.master) h

/-- The clock of a target in MHz (R15, R274, R289): bent, dealer, peg, else FABRIC. -/
def Hw.targetMHz (h : Hw) (t : Nat) : Nat :=
  if t = 0x21 || t = 0x22 then 200 + 50 * h.g (Reg.TRUSS_BENT_STAT_freq_act (t - 0x21))
  else if inRange t 0x23 0x2C then 200 + 50 * h.g (Reg.TRUSS_BENT_STAT_freq_act ((t - 0x23) / 5))
  else if t = 0x2E then 500
  else 800

/-- The last T64 in ns of the 64 target cycles after the locking grant (R303). -/
def Hw.lockEnd (h : Hw) (t : Nat) : Nat := (h.arb t).lockedAt + 64000 / h.targetMHz t

/-- The unlock piece of the lock's owner is granted and not yet complete. -/
def Arb.unlocking (a : Arb) : Bool :=
  match a.inFlight with
  | some p => p.unlock && a.owner = some p.master
  | none => false

/-- A lock whose unlock piece has not been granted within 64 target cycles is broken; a grant in the 64th is on time (R7, R303). -/
def Hw.expireLock (h : Hw) (t : Nat) : Hw :=
  let a := h.arb t
  match a.owner with
  | some o =>
    if 0 < a.count && !a.unlocking && decide (h.lockEnd t < h.t64) then (h.setArb t (a.breakLock o)).lockOverrun t o else h
  | none => h

/-- XBAR_PIECE_GRANT (R298–R302): one decision of an arbiter whose target is free. -/
def Hw.pieceGrant (h : Hw) (t : Nat) : Hw :=
  let h := (h.expireLocks t).expireLock t
  let a := h.arb t
  if a.inFlight.isSome || h.retuning t then h
  else
    match h.choose a with
    | none => h.setArb t (if a.queue.isEmpty then { a with idle := true } else a.losers)
    | some p => (h.setArb t ({ a with queue := a.queue.erase p }.losers)).grantPiece t p

/-- The piece in flight has completed: the target is free; an unlock releases the lock or ends a broken
sequence (R302, R303). -/
def Hw.pieceDone (h : Hw) (t : Nat) (p : Piece) : Hw :=
  let h := (h.expireLocks t).expireLock t
  let a := h.arb t
  let a := { a with inFlight := none }
  let h := if a.broken.contains p.master then h.addAttr p.master aBroken else h
  let a := if p.unlock then
      (if a.owner = some p.master then a.release
       else { a with broken := a.broken.filter (· != p.master) })
    else a
  h.setArb t { a with idle := a.queue.isEmpty }

/-- LOCK_BREAK (R303): the unlock piece is not granted within 64 target cycles. -/
def Hw.lockBreak (h : Hw) (t : Nat) : Hw :=
  let h := h.expireLocks t
  let a := h.arb t
  match a.owner with
  | none => h
  | some o =>
    if a.unlocking then h
    else
      let h := if 0 < a.count then h.advanceTo (h.lockEnd t) else h
      (h.setArb t (a.breakLock o)).lockOverrun t o

/-- LOCK_RETRY (R304): the refused request is made again. -/
def Hw.lockRetry (h : Hw) (t m : Nat) : Hw :=
  let h := h.expireLocks t
  let a := h.arb t
  match a.refused.find? (fun p => p.master = m) with
  | none => h
  | some p => (h.setArb t { a with refused := a.refused.erase p }).present t p

/-- LOCK_WAIT_EXPIRE (R304): at its deadline the lock request ends without effect, with nolock. -/
def Hw.lockWaitExpire (h : Hw) (t m : Nat) : Hw :=
  let a := h.arb t
  let mine := fun (p : Piece) => p.master = m && locks t p && a.owner != some m
  match (a.refused ++ a.queue).find? mine with
  | none => h
  | some p =>
    let h := h.advanceTo (p.first + h.lockWaitNs)
    let h := h.setArb t { a with refused := a.refused.filter (fun p => !mine p),
                                 queue := a.queue.filter (fun p => !mine p),
                                 resv := if a.resv = some m then none else a.resv }
    ((h.inc (Reg.XBAR_ARB_NOLOCK_count t)).addAttr m aNolock).endBurst m

/-- MASTER_RESET_DURING_BURST (R305, R307): waiting requests are withdrawn, the piece in flight keeps its
beats with strobes off, and locks are torn. The dealer core owns the channels of dealer origin (R317) (DEDUCED, log entry 29). -/
def Hw.masterReset (h : Hw) (m : Nat) : Hw :=
  let h := (List.range 51).foldl (fun h t =>
    let a := h.arb t
    let waits := a.queue.any (fun p => p.master = m) || a.refused.any (fun p => p.master = m)
    let flies := match a.inFlight with
      | some p => p.master = m
      | none => false
    if !waits && !flies && a.owner != some m then h
    else
      let a : Arb := { a with
        queue := a.queue.filter (fun p => p.master != m)
        refused := a.refused.filter (fun p => p.master != m)
        resv := if a.resv = some m then none else a.resv
        inFlight := a.inFlight.map (fun p => if p.master = m then { p with data := [], len := 0 } else p) }
      if a.owner = some m then
        let h := h.setArb t a.release
        (((h.s1 (Reg.XBAR_ARB_STAT_torn t)).p (Reg.XBAR_ARB_STAT_torn_master t) m).p
          (Reg.XBAR_ARB_ADDR_addr t) a.lockAddr).raiseU 0x32
      else h.setArb t a) h
  let h := h.endBurst m
  if m = 0x10 || m = 0x11 then
    (List.range 16).foldl (fun h c =>
      if h.g (Reg.DMA_CH_STAT_state c) == 1 || h.g (Reg.DMA_CH_STAT_state c) == 2
      then h.s0 (Reg.DMA_CH_CFG_en c) else h) h
  else if m = 0x0A then
    (List.range 16).foldl (fun h c => if h.b (Reg.DMA_CH_STAT_fw c) then h.s0 (Reg.DMA_CH_CFG_en c) else h) h
  else h

/-! ### Windows -/

/-- A remote piece ended in error: counted, and WIN_ERR (R296). -/
def Hw.winErr (h : Hw) (w : Nat) : Hw := (h.inc (Reg.XBAR_WIN_STAT_err w)).raiseU 0x35

/-- The remote timeout of a window in ns; 0 is taken as 1 (R316). -/
def Hw.winTmoNs (h : Hw) (w : Nat) : Nat := max 1 (h.g (Reg.XBAR_WIN_CTRL_tmo w)) * 1000

/-- A remote piece completes or ends with an error; an answer later than tmo is too late (R296); longest time in FABRIC cycles of 1.25 ns (R297). -/
def Hw.remoteEnd (h : Hw) (tag : Nat) (data : Option (List Byte)) : Hw :=
  match h.xbar.remote.find? tag with
  | none => h
  | some r =>
    let x := h.xbar
    let h := { h with xbar := { x with remote := x.remote.del tag } }
    let m := r.piece.master
    let late := decide (r.sent + h.winTmoNs r.window < h.t64)
    match (if late then none else data) with
    | some d =>
      let cyc := min ((h.t64 - r.sent) * 4 / 5) 1048575
      let h := if h.g (Reg.XBAR_WIN_STAT_max_cyc r.window) < cyc then h.p (Reg.XBAR_WIN_STAT_max_cyc r.window) cyc
               else h
      let b := h.burst m
      (h.setBurst m { b with data := b.data ++ padB r.piece.len d }).issue m
    | none => ((h.winErr r.window).addAttr m aErr).endBurst m

/-- WINDOW_TIMEOUT (R296): no answer within tmo. -/
def Hw.windowTimeout (h : Hw) (w tag : Nat) : Hw :=
  match h.xbar.remote.find? tag with
  | some r =>
    if r.window = w then (h.advanceTo (r.sent + h.winTmoNs w)).remoteEnd tag none else h
  | none => h

end Sys2Proof.Machine
end

