-- ==== Sys2Proof/Machine/DmaOps.lean ====
section
/-! DEFINITION. The DMA engine (R308–R315, R550): events, descriptors, and what a descriptor moves. -/

namespace Sys2Proof.Machine

def dIdle : Nat := 0
def dFetching : Nat := 1
def dRunning : Nat := 2
def dParked : Nat := 3
def dError : Nat := 4

def Hw.dmaState (h : Hw) (c : Nat) : Nat := h.g (Reg.DMA_CH_STAT_state c)

def Hw.setDma (h : Hw) (c s : Nat) : Hw := h.p (Reg.DMA_CH_STAT_state c) s

/-- An address of the descriptor store or of deck banks 0–7. -/
def descPlace (a : Nat) : Bool := a % 32 = 0 && (inRange a 0x40028000 0x4002FFFF || inRange a 0x10000000 0x107FFFFF)

/-- Word j of the descriptor at an address. -/
def Hw.descWord (h : Hw) (a j : Nat) : Nat :=
  if a ≥ 0x40000000 then h.g (Reg.DMA_DESC_word ((a - 0x40028000) / 32) j) else h.rdN (a + 4 * j) 4

def Hw.setDescWord (h : Hw) (a j v : Nat) : Hw :=
  if a ≥ 0x40000000 then h.p (Reg.DMA_DESC_word ((a - 0x40028000) / 32) j) v else h.wrN (a + 4 * j) 4 v

/-- An error stops the channel (R312); code 6 leaves it idle. -/
def Hw.dmaError (h : Hw) (c code : Nat) : Hw :=
  let h := (h.setDma c (if code = 6 then dIdle else dError)).p (Reg.DMA_CH_STAT_err c) code
  let h := (h.s0 (Reg.DMA_CH_STAT_pend c)).setBit Reg.DMA_IRQ_STAT_err c true
  h.raiseU 0x34

/-- Write back words 6, 7 and then 5 (R310). -/
def Hw.dmaWriteBack (h : Hw) (c code : Nat) (torn broken : Bool) : Hw :=
  let a := h.g (Reg.DMA_CH_CUR_addr c)
  let h := (h.setDescWord a 6 h.t64).setDescWord a 7 (h.t64 / 2 ^ 32)
  let h := h.setDescWord a 5 (2 * b2n (code = 0) + 4 * b2n torn + 8 * b2n broken + 16 * code)
  h.inc (Reg.DMA_CH_CNT_count c)

/-- Begin the fetch of the descriptor at an address. -/
def Hw.dmaFetch (h : Hw) (c a : Nat) : Hw := (h.setDma c dFetching).p (Reg.DMA_CH_CUR_addr c) a

/-- An event reaches a parked channel: in mode 1 it goes on by the copy it fetched, where that is no tail (R311, R313); else it
reads its tail again. -/
def Hw.dmaTail (h : Hw) (c : Nat) : Hw :=
  let a := h.g (Reg.DMA_CH_CUR_addr c)
  let w0 := h.descWord a 0
  match h.dma.find? c with
  | some ws => ({ h with dma := h.dma.del c } : Hw).dmaFetch c (ws.getD 4 0)
  | none =>
  if bitOf w0 0 then h
  else if bitOf w0 1 then h.dmaFetch c (h.descWord a 4)
  else h.dmaError c 2

/-- A doorbell or trigger that counts as an event of its own reaches an enabled channel (R311, R313). -/
def Hw.dmaEvent (h : Hw) (c : Nat) : Hw :=
  match h.dmaState c with
  | 0 => h.dmaFetch c (h.g (Reg.DMA_CH_HEAD_addr c))
  | 1 | 2 =>
    if h.g (Reg.DMA_CH_CFG_mode c) = 1 && h.b (Reg.DMA_CH_STAT_pend c) then h.s1 (Reg.DMA_CH_STAT_trig_lost c)
    else h.s1 (Reg.DMA_CH_STAT_pend c)
  | 3 => h.dmaTail c
  | _ => h

/-- A trigger and a doorbell of a channel in one cycle count as one event: the second of them changes nothing (R313; one T64
counts as one cycle, DEDUCED, log entry 29). -/
def Hw.dmaArrive (h : Hw) (c : Nat) (trig : Bool) : Hw :=
  if !h.b (Reg.DMA_CH_CFG_en c) then h
  else
    let x := h.xbar
    if x.dmaAt.find? c = some (h.t64, !trig) then { h with xbar := { x with dmaAt := x.dmaAt.del c } }
    else ({ h with xbar := { x with dmaAt := x.dmaAt.put c (h.t64, trig) } } : Hw).dmaEvent c

/-- DMA_TRIGGER: the channels that an event timer or a completion triggers (R313). -/
def Hw.dmaTrigger (h : Hw) (kind idx : Nat) : Hw :=
  (List.range 16).foldl (fun h c =>
    if h.g (Reg.DMA_CH_CFG_trig_kind c) = kind && h.g (Reg.DMA_CH_CFG_trig_idx c) = idx then h.dmaArrive c true else h) h

/-- DMA_DOORBELL: the ring bit is taken. -/
def Hw.dmaDoorbell (h : Hw) (c : Nat) : Hw := (h.dmaArrive c false).s0 (Reg.DMA_CH_DOORBELL_ring c)

/-- A channel parks, and reads the tail at once when an event is held (R311); in mode 1 a channel waits for
its next event in the same way. -/
def Hw.dmaPark (h : Hw) (c : Nat) : Hw :=
  let h := h.setDma c dParked
  if h.b (Reg.DMA_CH_STAT_pend c) then (h.s0 (Reg.DMA_CH_STAT_pend c)).dmaTail c else h

/-- The region classes that a descriptor may not name (R309). -/
def isRegPlace (p : Place) : Bool :=
  match p with
  | .reg _ => true
  | _ => false

/-- The checks of R309 on a fetched copy. -/
def Hw.descBad (h : Hw) (ws : List Nat) : Bool :=
  let w := fun i => ws.getD i 0
  let len := w 3 % 2 ^ 24
  let fill := bitOf (w 0) 4
  let sp := h.place 0x10 true (w 1)
  let dp := h.place 0x11 true (w 2)
  let badDst := match dp with
    | .reg _ | .rom _ | .remote _ _ => true
    | _ => false
  w 0 / 64 != 0 || w 3 / 2 ^ 24 != 0 || w 5 / 512 != 0
    || len < 4 || len % 4 != 0 || len > 16777212 || w 2 % 4 != 0 || (!fill && w 1 % 4 != 0)
    || (!bitOf (w 0) 0 && !bitOf (w 0) 1)
    || (bitOf (w 0) 5 && (len > 128 || (!fill && targetOf sp != targetOf dp)))
    || (!fill && isRegPlace sp) || badDst
    || (bitOf (w 0) 1 && !descPlace (w 4))

/-- DMA_DESC_FETCH (R309). -/
def Hw.dmaDescFetch (h : Hw) (c : Nat) (err : Bool) : Hw :=
  if h.dmaState c != dFetching then h
  else
    let a := h.g (Reg.DMA_CH_CUR_addr c)
    if err || !(descPlace a) then h.dmaError c 1
    else
      let ws := (List.range 8).map (fun j => h.descWord a j)
      if !bitOf (ws.getD 5 0) 0 then h.dmaError c 3
      else if h.descBad ws then (h.dmaWriteBack c 2 false false).dmaError c 2
      else { (h.setDma c dRunning) with dma := h.dma.put c ws }

/-- The bytes at a source, or none where the access ends with an error response (DESIGN CHOICE, log entry 25). -/
def Hw.dmaRead (h : Hw) (dealer : Bool) (a n : Nat) : Option (List Byte) :=
  match h.place 0x10 dealer a with
  | .mem b => some (h.rdBytes b n)
  | .rom o => some ((List.range n).map (fun i => Config.bootRom (o + i)))
  | .remote _ o => some ((List.range n).map (fun i => BitVec.ofNat 8 (Config.freeValue (h.fresh + o + i))))
  | _ => none

/-- Move bytes one piece at a time; a piece ends at a 256-byte boundary of source or destination. Answers the
error code of R312, 0 when all is moved. -/
def Hw.dmaMove (dealer fill : Bool) (pat : Nat) : Nat → Hw → Nat → Nat → Nat → Hw × Nat
  | 0, h, _, _, _ => (h, 0)
  | f + 1, h, src, dst, left =>
    if left = 0 then (h, 0)
    else
      let n := min left (min (256 - dst % 256) (if fill then 256 else 256 - src % 256))
      let bytes := if fill then some ((List.range n).map (fun i => BitVec.ofNat 8 (pat / 256 ^ (i % 4))))
                   else h.dmaRead dealer src n
      match bytes with
      | none => (h.accErr (placeErrKind (h.place 0x10 dealer src)) src false 2 0x10, 4)
      | some bs =>
        match h.place 0x11 dealer dst with
        | .mem b => Hw.dmaMove dealer fill pat f (h.wrBytes b bs) (if fill then src else src + n) (dst + n) (left - n)
        | pl => (h.accErr (placeErrKind pl) dst true 2 0x11, 5)

/-- Do what a descriptor says, as far as `upTo` bytes. -/
def Hw.dmaDo (h : Hw) (c : Nat) (upTo : Nat) : Hw × Nat :=
  let ws := h.dma.get [] c
  let w := fun i => ws.getD i 0
  let len := min (w 3 % 2 ^ 24) upTo
  let (h', e) := Hw.dmaMove (h.b (Reg.DMA_CH_STAT_fw c)) (bitOf (w 0) 4) (w 1) (len + 1) h (w 1) (w 2) len
  ({ h' with fresh := h'.fresh + 1 }, e)

/-- DMA_DESC_COMPLETE (R310, R311). Outcome 0 is no error; 1 and 2 an error response of a source read or a
destination write, after an open number of pieces; 3 the lock's wait limit (DESIGN CHOICE, log entry 29). A source read that
finds a double-bit error ends with an error response (R480). -/
def Hw.dmaDescComplete (h : Hw) (c outcome : Nat) (torn broken : Bool) (ecc : Option Ecc) : Hw :=
  if h.dmaState c != dRunning then h
  else
    let h := match ecc with
      | some e => h.eccEvent e.addr.toNat e.double
      | none => h
    let outcome := if ecc.any (·.double) then 1 else outcome
    let ws := h.dma.get [] c
    let w0 := ws.getD 0 0
    let (v, h) := if outcome = 1 || outcome = 2 then h.draw else (0, h)
    let (h, e) := match outcome with
      | 0 => h.dmaDo c (2 ^ 24)
      | 3 => (h, 7)
      | _ => let (h, e) := h.dmaDo c (v % (ws.getD 3 0 % 2 ^ 24 + 1) / 256 * 256)
             (h, if e = 0 then 3 + outcome else e)
    let h := h.dmaWriteBack c e torn broken
    let h := { h with dma := h.dma.del c }
    if e != 0 then h.dmaError c e
    else
      let h := if bitOf w0 2 then h.setBit Reg.DMA_IRQ_STAT_done c true else h
      let h := if bitOf w0 0 then h.dmaPark c
               else if h.g (Reg.DMA_CH_CFG_mode c) = 1 then ({ h with dma := h.dma.put c ws } : Hw).dmaPark c
               else h.dmaFetch c (ws.getD 4 0)
      if bitOf w0 3 then h.dmaTrigger 2 c else h

/-- DMA_ABORT (R307, R312): the descriptor that runs is written back as ABORTED after an open number of
pieces; the channel is idle and disabled (DESIGN CHOICE, log entry 29). -/
def Hw.dmaAbort (h : Hw) (c : Nat) : Hw :=
  let st := h.dmaState c
  let h := if st = dRunning then
      let (v, h) := h.draw
      let len := (h.dma.get [] c).getD 3 0 % 2 ^ 24
      let (h, _) := h.dmaDo c (v % (len + 1) / 256 * 256)
      let h := h.dmaWriteBack c 6 false false
      (({ h with dma := h.dma.del c } : Hw)).dmaError c 6
    else if st = dFetching then h.dmaError c 6
    else (({ h with dma := h.dma.del c } : Hw).setDma c dIdle).s0 (Reg.DMA_CH_STAT_pend c)
  (h.s0 (Reg.DMA_CH_CFG_en c)).s0 (Reg.DMA_CH_CFG_abort c)

/-- A write of DMA_CH_CFG (R317, R550): mode and trigger kind stay while the channel is enabled; clearing and
setting en again returns a channel from error to idle; the origin follows the master that sets en. -/
def Hw.dmaCfgWrite (h : Hw) (c m w : Nat) : Hw :=
  let live := h.b (Reg.DMA_CH_CFG_en c)
  let en := w % 2
  let moved := bitsOf w 1 1 != h.g (Reg.DMA_CH_CFG_mode c) || bitsOf w 5 2 != h.g (Reg.DMA_CH_CFG_trig_kind c)
  let h := if live then (if moved then h.s1 (Reg.DMA_CH_STAT_live_wr c) else h)
           else (h.p (Reg.DMA_CH_CFG_mode c) (bitsOf w 1 1)).p (Reg.DMA_CH_CFG_trig_kind c) (bitsOf w 5 2)
  let h := (h.p (Reg.DMA_CH_CFG_prio c) (bitsOf w 3 2)).p (Reg.DMA_CH_CFG_trig_idx c) (bitsOf w 7 5)
  let h := h.p (Reg.DMA_CH_CFG_en c) en
  let h := if en = 1 then
      let h := h.p (Reg.DMA_CH_STAT_fw c) (b2n (m = 0x0A))
      if !live && h.dmaState c = dError then h.setDma c dIdle else h
    else h
  if bitOf w 2 then (h.s1 (Reg.DMA_CH_CFG_abort c)).dmaAbort c else h

end Sys2Proof.Machine
end

