-- ==== Sys2Proof/Machine/PinOps.lean ====
section
/-! DEFINITION. Ball ownership (R282–R287, R529, R531): which function a multiplexed ball may carry, claims and
releases, conflicts, and which functions are active. -/

namespace Sys2Proof.Machine

/-- The multiplexed balls (R529). -/
def multiplexed (b : Nat) : Bool := inRange b 184 347

/-- The home function of a ball and its unit (R529, R283). -/
def homeOf (b : Nat) : Option (Nat × Nat) :=
  if inRange b 184 191 then some (0x08, b - 184)
  else if inRange b 192 199 then some (0x09, b - 192)
  else if inRange b 200 327 then some (0x04 + (b - 200) % 4, (b - 200) / 4)
  else if inRange b 328 331 then some (0x0A, b - 328)
  else none

/-- A function and unit that exist (R283) and that the ball is eligible for (R531). -/
def fnOk (b f u : Nat) : Bool :=
  ((f == 0x01 || f == 0x02) && decide (u < 16)) || (f == 0x03 && inRange u 1 31) || homeOf b == some (f, u)

/-- The ball that a function owns. -/
def Hw.ballOf (h : Hw) (f u : Nat) : Option Nat :=
  ((List.range 164).map (· + 184)).find? (fun b => h.g (Reg.PINMUX_BALL_func b) == f && h.g (Reg.PINMUX_BALL_unit b) == u)

/-- A conflict is recorded and reported (R287). -/
def Hw.pinConflict (h : Hw) (kind ball f u : Nat) : Hw :=
  let h := h.inc Reg.PINMUX_CONFLICT_CNT_count
  let h := if h.b Reg.PINMUX_CONFLICT_flag then h else
    ((((h.s1 Reg.PINMUX_CONFLICT_flag).p Reg.PINMUX_CONFLICT_kind kind).p Reg.PINMUX_CONFLICT_ball ball).p
      Reg.PINMUX_CONFLICT_func f).p Reg.PINMUX_CONFLICT_unit u
  h.raiseU 0x31

/-- The pull, drive and slew fields of a write. -/
def Hw.pinDrive (h : Hw) (b w : Nat) : Hw :=
  ((h.p (Reg.PINMUX_BALL_pull b) (bitsOf w 17 2)).p (Reg.PINMUX_BALL_drive b) (bitsOf w 19 2)).p
    (Reg.PINMUX_BALL_slow b) (bitsOf w 21 1)

/-- PINMUX_WRITE (R284), decided against the owner field as it stands. -/
def Hw.pinWrite (h : Hw) (b w master : Nat) : Hw :=
  let f := bitsOf w 0 8
  let u := bitsOf w 8 8
  let f0 := h.g (Reg.PINMUX_BALL_func b)
  let u0 := h.g (Reg.PINMUX_BALL_unit b)
  let set := fun (h : Hw) => ((h.p (Reg.PINMUX_BALL_func b) f).p (Reg.PINMUX_BALL_unit b) u).pinDrive b w
  if !multiplexed b then h.valueErr (0x400C0000 + 4 * b) master
  else if f = 0 then
    if h.b (Reg.PINMUX_BALL_active b) then h.pinConflict 1 b f u else set h
  else if !fnOk b f u then h.valueErr (0x400C0000 + 4 * b) master
  else if f = f0 && u = u0 then h.pinDrive b w
  else if f0 != 0 then h.pinConflict 0 b f u
  else if (h.ballOf f u).isSome then h.pinConflict 2 b f u
  else set h

/-- An enable of a function is written: active where it owns a ball, else a conflict of kind 3 (R285). -/
def Hw.fnEnable (h : Hw) (f u : Nat) : Hw :=
  match h.ballOf f u with
  | some b => h.s1 (Reg.PINMUX_BALL_active b)
  | none => h.pinConflict 3 0x7FF f u

/-- The block disables a function. -/
def Hw.fnDisable (h : Hw) (f u : Nat) : Hw :=
  match h.ballOf f u with
  | some b => h.s0 (Reg.PINMUX_BALL_active b)
  | none => h

/-- A function is active: its block enables it and it owns its ball (R285). -/
def Hw.fnActive (h : Hw) (f u : Nat) : Bool :=
  match h.ballOf f u with
  | some b => h.b (Reg.PINMUX_BALL_active b)
  | none => false

/-- A block's enable of a function goes from `was` to `on`. -/
def Hw.fnSet (h : Hw) (f u : Nat) (was on : Bool) : Hw :=
  if was = on then h else if on then h.fnEnable f u else h.fnDisable f u

/-- The functions of a SAP port: its clocks, and the data lines that its active slot map uses. -/
def Hw.sapFns (h : Hw) (n : Nat) : List Nat :=
  let slots := List.range 32
  [0x04, 0x05] ++ (if slots.any (fun s => h.b (Reg.SAP_SLOTMAP_ACT_in_en n s)) then [0x06] else [])
    ++ (if slots.any (fun s => h.b (Reg.SAP_SLOTMAP_ACT_out_en n s)) then [0x07] else [])

/-- A SAP port is enabled or disabled. -/
def Hw.sapPins (h : Hw) (n : Nat) (was on : Bool) : Hw :=
  if was = on then h
  else if on then (h.sapFns n).foldl (fun h f => h.fnEnable f n) h
  else [0x04, 0x05, 0x06, 0x07].foldl (fun h f => h.fnDisable f n) h

/-- Whether its block enables a function. -/
def Hw.fnOn (h : Hw) (f u : Nat) : Bool :=
  match f with
  | 0x01 => h.bit Reg.GPIO_OE_oe u
  | 0x02 => h.b (Reg.TIME_CAP_CTRL_edge u)
  | 0x03 => h.b (Reg.TIME_TMR_CTRL_pin u)
  | 0x08 => h.b (Reg.AES_RX_CTRL_en u)
  | 0x09 => h.b (Reg.AES_TX_CTRL_en u)
  | 0x0A => h.b (Reg.CLK_REF_CFG_en (u + 2))
  | 0x04 | 0x05 | 0x06 | 0x07 => h.b (Reg.SAP_CTRL_en u) && (h.sapFns u).contains f
  | _ => false

/-- After a deal's switch: the dealer claims balls before it enables their functions (R285). -/
def Hw.pinsAfterDeal (h : Hw) : Hw :=
  (List.range 164).foldl (fun h i =>
    let b := i + 184
    h.p (Reg.PINMUX_BALL_active b) (b2n (h.fnOn (h.g (Reg.PINMUX_BALL_func b)) (h.g (Reg.PINMUX_BALL_unit b))))) h

/-- GPIO_OE is written: each bit is the enable of its GPIO (R286). -/
def Hw.gpioOe (h : Hw) (w : Nat) : Hw :=
  let was := h.g Reg.GPIO_OE_oe
  let h := h.p Reg.GPIO_OE_oe w
  (List.range 16).foldl (fun h i => h.fnSet 0x01 i (bitOf was i) (bitOf w i)) h

/-- GPIO_IN: the level at each GPIO's ball, its own where it drives it; 0 without a ball (R286)
(UNVERIFIED, log entry 24). -/
def Hw.gpioIn (h : Hw) : Nat :=
  (List.range 16).foldl (fun v i =>
    match h.ballOf 0x01 i with
    | none => v
    | some b =>
      let level := if h.b (Reg.PINMUX_BALL_active b) then h.bit Reg.GPIO_OUT_level i else Config.ballLevel b h.t64
      v + (if level then 2 ^ i else 0)) 0

end Sys2Proof.Machine
end

