-- ==== Sys2Proof/Machine/Float32.lean ====
section
/-! DEFINITION. Binary32 arithmetic of the truss lanes (R111–R115): every operation is computed exactly
over the integers and rounded once, under the rounding mode and the flush setting of ST. -/

namespace Sys2Proof.F32

/-- Sticky flags at their places in ST (R109). -/
def fSat : Nat := 1
def fAov : Nat := 2
def fNv : Nat := 4
def fOf : Nat := 8
def fUf : Nat := 16
def fNx : Nat := 32

/-- A result and the flags it raises. -/
structure Res where
  w : Word
  fl : Nat
deriving DecidableEq, Repr

/-- An operand: a NaN (signalling or not), an infinity, or (−1)^s × m × 2^e. -/
inductive Val where
  | nan (signalling : Bool)
  | inf (s : Bool)
  | fin (s : Bool) (m : Nat) (e : Int)
deriving DecidableEq, Repr

/-- The rounding setting: ST.rm and ST.ftz. -/
structure Mode where
  rm : Nat
  ftz : Bool
deriving DecidableEq, Repr

def defaultNan : Word := 0x7FC00000

/-- Read an operand; a subnormal reads as zero under ftz (R112). -/
def unpack (md : Mode) (w : Word) : Val :=
  let n := w.toNat
  let s := bitOf n 31
  let e := bitsOf n 23 8
  let f := bitsOf n 0 23
  if e = 255 then (if f = 0 then .inf s else .nan (f < 0x400000))
  else if e = 0 then (if md.ftz then .fin s 0 (-149) else .fin s f (-149))
  else .fin s (f + 0x800000) ((e : Int) - 150)

def signBit (s : Bool) : Nat := if s then 0x80000000 else 0

def zeroW (s : Bool) : Word := BitVec.ofNat 32 (signBit s)

def infW (s : Bool) : Word := BitVec.ofNat 32 (signBit s + 0x7F800000)

/-- Whether a magnitude with remainder `rem` of 2^d below it rounds up. -/
def roundsUp (rm : Nat) (s : Bool) (hi rem d : Nat) : Bool :=
  match rm with
  | 0 => decide (2 * rem > 2 ^ d) || (decide (2 * rem = 2 ^ d) && hi % 2 == 1)
  | 1 => false
  | 2 => !s && rem != 0
  | _ => s && rem != 0

/-- m × 2^e as an integer multiple of 2^q under the rounding mode, and whether it was inexact. -/
def quantise (rm : Nat) (s : Bool) (m : Nat) (e q : Int) : Nat × Bool :=
  if q ≤ e then (m * 2 ^ (e - q).toNat, false)
  else
    let d := (q - e).toNat
    let hi := m / 2 ^ d
    let rem := m % 2 ^ d
    (if roundsUp rm s hi rem d then hi + 1 else hi, rem != 0)

/-- The overflow result of a rounding mode (IEEE 754-2019 7.4). -/
def overflowW (rm : Nat) (s : Bool) : Word :=
  let toInf := rm = 0 || (rm = 2 && !s) || (rm = 3 && s)
  if toInf then infW s else BitVec.ofNat 32 (signBit s + 0x7F7FFFFF)

/-- Round (−1)^s × m × 2^e, m > 0, to binary32. -/
def round (md : Mode) (s : Bool) (m : Nat) (e : Int) : Res :=
  let len : Int := (Nat.log2 m + 1 : Nat)
  let qn := e + len - 24
  let q := if qn < -149 then -149 else qn
  let (r0, nx) := quantise md.rm s m e q
  let (r, q) := if r0 = 2 ^ 24 then (2 ^ 23, q + 1) else (r0, q)
  if r ≥ 2 ^ 23 && q > 104 then ⟨overflowW md.rm s, fOf + fNx⟩
  else if r < 2 ^ 23 then
    if md.ftz then ⟨zeroW s, fUf + fNx⟩
    else ⟨BitVec.ofNat 32 (signBit s + r), if nx then fUf + fNx else 0⟩
  else
    let field := (q + 150).toNat
    -- tiny after rounding: the unbounded rounding lies below 2^−126
    let tiny := qn < -149 && (quantise md.rm s m e qn).1 < 2 ^ 24
    ⟨BitVec.ofNat 32 (signBit s + field * 2 ^ 23 + (r - 2 ^ 23)),
      (if nx then fNx else 0) + (if nx && tiny then fUf else 0)⟩

/-- Round a signed exact value; `zs` is the sign of an exact zero. -/
def roundI (md : Mode) (zs : Bool) (v : Int) (e : Int) : Res :=
  if v = 0 then ⟨zeroW zs, 0⟩ else round md (v < 0) v.natAbs e

def nanRes (nv : Bool) : Res := ⟨defaultNan, if nv then fNv else 0⟩

def isSig : Val → Bool
  | .nan b => b
  | _ => false

def isNan : Val → Bool
  | .nan _ => true
  | _ => false

def neg : Val → Val
  | .nan b => .nan b
  | .inf s => .inf (!s)
  | .fin s m e => .fin (!s) m e

def sInt (s : Bool) (m : Nat) : Int := if s then -(m : Int) else (m : Int)

/-- The sum of an exact product (sign, magnitude, exponent) and an addend. -/
def addExact (md : Mode) (ps : Bool) (pm : Nat) (pe : Int) (cs : Bool) (cm : Nat) (ce : Int) : Res :=
  let e := if pe ≤ ce then pe else ce
  let v := sInt ps pm * 2 ^ (pe - e).toNat + sInt cs cm * 2 ^ (ce - e).toNat
  let zs := if ps = cs then ps else md.rm = 3
  roundI md zs v e

/-- Whether 0 × ∞ + NaN raises invalid: IEEE 754-2019 leaves it to the implementation. -/
def fmaVal (md : Mode) (a b c : Val) : Res :=
  let sig := isSig a || isSig b || isSig c
  let zeroInf : Bool := match a, b with
    | .inf _, .fin _ m _ => m == 0
    | .fin _ m _, .inf _ => m == 0
    | _, _ => false
  if isNan a || isNan b then nanRes sig
  else if zeroInf then (if isNan c then nanRes (sig || Config.fmaInvalid) else nanRes true)
  else if isNan c then nanRes sig
  else
    match a, b, c with
    | .fin sa ma ea, .fin sb mb eb, .fin sc mc ec => addExact md (sa != sb) (ma * mb) (ea + eb) sc mc ec
    | .fin _ _ _, .fin _ _ _, .inf sc => ⟨infW sc, 0⟩
    | .inf sa, .inf sb, .inf sc => if (sa != sb) = sc then ⟨infW sc, 0⟩ else nanRes true
    | .inf sa, .fin sb _ _, .inf sc => if (sa != sb) = sc then ⟨infW sc, 0⟩ else nanRes true
    | .fin sa _ _, .inf sb, .inf sc => if (sa != sb) = sc then ⟨infW sc, 0⟩ else nanRes true
    | .inf sa, .inf sb, _ => ⟨infW (sa != sb), 0⟩
    | .inf sa, .fin sb _ _, _ => ⟨infW (sa != sb), 0⟩
    | .fin sa _ _, .inf sb, _ => ⟨infW (sa != sb), 0⟩
    | _, _, _ => nanRes sig

/-- a × b + c rounded once (R111). -/
def fma (md : Mode) (negP negC : Bool) (a b c : Word) : Res :=
  let va := unpack md a
  let vc := unpack md c
  fmaVal md (if negP then neg va else va) (unpack md b) (if negC then neg vc else vc)

def mulVal (md : Mode) (a b : Val) : Res :=
  match a, b with
  | .fin sa ma ea, .fin sb mb eb => roundI md (sa != sb) (sInt (sa != sb) (ma * mb)) (ea + eb)
  | _, _ => fmaVal md a b (.fin false 0 0)

def mul (md : Mode) (negP : Bool) (a b : Word) : Res :=
  let va := unpack md a
  mulVal md (if negP then neg va else va) (unpack md b)

def one : Val := .fin false 1 0

def add (md : Mode) (a b : Word) : Res := fmaVal md (unpack md a) one (unpack md b)

def sub (md : Mode) (a b : Word) : Res := fmaVal md (unpack md a) one (neg (unpack md b))

/-- A total order of non-NaN values as a scaled integer, −0 below +0 (R113). -/
def key (v : Val) : Int × Int :=
  match v with
  | .nan _ => (0, 0)
  | .inf s => (if s then -(2 ^ 400) else 2 ^ 400, 0)
  | .fin s m e => (sInt s (m * 2 ^ (e + 149).toNat), if s then -1 else 0)

def ltKey (a b : Int × Int) : Bool := a.1 < b.1 || (a.1 == b.1 && a.2 < b.2)

def pack (md : Mode) (w : Word) : Word :=
  match unpack md w with
  | .fin s 0 _ => zeroW s
  | _ => w

/-- minimumNumber and maximumNumber (R113). -/
def minMax (md : Mode) (isMax : Bool) (a b : Word) : Res :=
  let va := unpack md a
  let vb := unpack md b
  let fl := if isSig va || isSig vb then fNv else 0
  if isNan va && isNan vb then ⟨defaultNan, fl⟩
  else if isNan va then ⟨pack md b, fl⟩
  else if isNan vb then ⟨pack md a, fl⟩
  else
    let lt := ltKey (key va) (key vb)
    ⟨if lt = isMax then pack md b else pack md a, fl⟩

/-- Numeric comparison of two non-NaN values: −0 equals +0. -/
def lt (md : Mode) (a b : Word) : Bool := (key (unpack md a)).1 < (key (unpack md b)).1

def eq (md : Mode) (a b : Word) : Bool := (key (unpack md a)).1 == (key (unpack md b)).1

def nanW (md : Mode) (a : Word) : Bool := isNan (unpack md a)

def sigW (md : Mode) (a : Word) : Bool := isSig (unpack md a)

/-- Integer to binary32, times 2^−s (R115). -/
def ofInt (md : Mode) (x : Word) (s : Nat) : Res := roundI md false x.toInt (-(s : Int))

/-- Binary32 times 2^s to a signed integer, saturating (R115). -/
def toInt (md : Mode) (x : Word) (s : Nat) : Res :=
  match unpack md x with
  | .nan _ => ⟨0, fNv⟩
  | .inf sg => ⟨if sg then 0x80000000 else 0x7FFFFFFF, fSat + fNv⟩
  | .fin sg m e =>
    let (r, nx) := quantise md.rm sg m (e + s) 0
    let v := sInt sg r
    if v > 2147483647 then ⟨0x7FFFFFFF, fSat + fNv⟩
    else if v < -2147483648 then ⟨0x80000000, fSat + fNv⟩
    else ⟨BitVec.ofInt 32 v, if nx then fNx else 0⟩

end Sys2Proof.F32
end

