-- ==== Sys2Proof/Machine/Flags.lean ====
section
/-! DEFINITION. The status register ST of a truss core (R109–R110) and the flag rules of its operations
(R106–R108, R111–R118). -/

namespace Sys2Proof.Machine

/-- ST.rm and ST.ftz as the rounding mode of binary32. -/
def Truss.fmode (c : Truss) : F32.Mode := ⟨bitsOf c.st.toNat 6 2, bitOf c.st.toNat 8⟩

def Truss.bexp (c : Truss) : Nat := bitsOf c.st.toNat 9 7

def Truss.stLane (c : Truss) : Nat := bitsOf c.st.toNat 16 5

/-- Set sticky flags: a flag set stays set. -/
def Truss.raise (c : Truss) (fl : Nat) : Truss := { c with st := c.st ||| BitVec.ofNat 32 (fl % 64) }

/-- Replace bits [lo + w − 1 : lo] of a word. -/
def setBits (x : Word) (lo w v : Nat) : Word :=
  (x &&& ~~~(BitVec.ofNat 32 ((2 ^ w - 1) * 2 ^ lo))) ||| BitVec.ofNat 32 (v % 2 ^ w * 2 ^ lo)

def Truss.setBexp (c : Truss) (v : Nat) : Truss := { c with st := setBits c.st 9 7 v }

def Truss.setStLane (c : Truss) (v : Nat) : Truss := { c with st := setBits c.st 16 5 v }

/-- ST.bexp ← the smaller of ST.bexp and n (R116, R117). -/
def Truss.minBexp (c : Truss) (n : Nat) : Truss := if n < c.bexp then c.setBexp n else c

/-- The flags of ST.sat and ST.aov when a value was limited. -/
def satFlag (b : Bool) : Nat := if b then F32.fSat else 0

def aovFlag (b : Bool) : Nat := if b then F32.fAov else 0

/-- The accumulator limits of R106. -/
def accMax : Int := 2 ^ 79 - 1
def accMin : Int := -(2 ^ 79)

/-- An 80-bit result saturated, with the ST.aov flag (R106). -/
def accSat (x : Int) : Acc × Nat :=
  if x > accMax then (BitVec.ofInt 80 accMax, F32.fAov)
  else if x < accMin then (BitVec.ofInt 80 accMin, F32.fAov)
  else (BitVec.ofInt 80 x, 0)

/-- A signed 32-bit result, wrapping or saturating with ST.sat (R108). -/
def res32 (sat : Bool) (x : Int) : Word × Nat :=
  if sat && (x > 2147483647 || x < -2147483648) then (BitVec.ofInt 32 (satH x), F32.fSat)
  else (BitVec.ofInt 32 x, 0)

/-- Redundant sign bits of an n-bit two's complement value: leading bits equal to the sign, less one. -/
def redundant (n : Nat) (x : Int) : Nat :=
  let m := if x < 0 then (-x - 1).toNat else x.toNat
  if m = 0 then n - 1 else n - 2 - Nat.log2 m

end Sys2Proof.Machine
end

