-- ==== Sys2Proof/Machine/Operands.lean ====
section
/-! DEFINITION. The operand forms of the truss cores: lanes and predicates (R65), the E and EW operands
(R126, R128), and the addressing of the memory slots (R66–R77, R129, R130). -/

namespace Sys2Proof.Machine

/-! ### Registers -/

def Truss.vg (c : Truss) (r i : Nat) : Word := c.v.get 0 (r * 32 + i)
def Truss.ag (c : Truss) (r i : Nat) : Acc := c.a.get 0 (r * 32 + i)
def Truss.pg (c : Truss) (n : Nat) : Word := c.p.get 0 n
def Truss.mg (c : Truss) (n : Nat) : Word := c.m.get 0 n
def Truss.lg (c : Truss) (n : Nat) : Word := c.l.get 0 n
def Truss.qg (c : Truss) (n : Nat) : Word := c.q.get 0 n

def Truss.vp (c : Truss) (r i : Nat) (w : Word) : Truss := { c with v := c.v.set 0 (r * 32 + i) w }
def Truss.ap (c : Truss) (r i : Nat) (w : Acc) : Truss := { c with a := c.a.set 0 (r * 32 + i) w }
def Truss.pp (c : Truss) (n : Nat) (w : Word) : Truss := { c with p := c.p.set 0 n w }
def Truss.mp (c : Truss) (n : Nat) (w : Word) : Truss := { c with m := c.m.set 0 n w }
def Truss.lp (c : Truss) (n : Nat) (w : Word) : Truss := { c with l := c.l.set 0 n w }
def Truss.qp (c : Truss) (n : Nat) (w : Word) : Truss := { c with q := c.q.set 0 n w }

/-- The active lanes under Q(pq) AND Q0 (R65). -/
def Truss.active (c : Truss) (pq : Nat) : List Nat :=
  let m := (c.qg pq &&& c.qg 0).toNat
  (List.range 32).filter (bitOf m)

/-- Write V register d in the given lanes from a function of the lane. -/
def Truss.mapV (c : Truss) (d : Nat) (lanes : List Nat) (f : Nat → Word) : Truss :=
  lanes.foldl (fun t i => t.vp d i (f i)) c

/-- As mapV, with the flags the lanes raise. -/
def Truss.mapVF (c : Truss) (d : Nat) (lanes : List Nat) (f : Nat → Word × Nat) : Truss :=
  lanes.foldl (fun t i => (t.vp d i (f i).1).raise (f i).2) c

def Truss.mapAF (c : Truss) (d : Nat) (lanes : List Nat) (f : Nat → Acc × Nat) : Truss :=
  lanes.foldl (fun t i => (t.ap d i (f i).1).raise (f i).2) c

/-! ### E and EW operands -/

/-- The fields of an E operation in either slot: destination, first source, predicate, modifier, the
second operand by lane, the count of EXT, ALD, shifts, CVT and ACC, and the b field as a register. -/
structure EOp where
  d : Nat
  a : Nat
  b : Nat
  pq : Nat
  m : Nat
  wide : Bool
  imm : Nat
deriving DecidableEq, Repr

def eOp : EArgs → EOp
  | .e d a b pq m => ⟨d.toNat, a.toNat, b.toNat, pq.toNat, m.toNat, false, 0⟩
  | .ew d a pq imm => ⟨d.toNat, a.toNat, 0, pq.toNat, imm.toNat / 4096, true, imm.toNat⟩

/-- The second operand in lane i: Vb, or imm[11:0] sign-extended (R128). -/
def EOp.second (o : EOp) (c : Truss) (i : Nat) : Word :=
  if o.wide then BitVec.ofInt 32 (sext 12 o.imm) else c.vg o.b i

/-- The count of EXT and ALD: {m[0], b}, or imm[5:0] in the wide form. -/
def EOp.count6 (o : EOp) : Nat := if o.wide then o.imm % 64 else o.m % 2 * 32 + o.b

/-- The count of CVT and ACC: the b field, or imm[5:0] in the wide form. -/
def EOp.count5 (o : EOp) : Nat := if o.wide then o.imm % 64 else o.b

/-- The shift count of lane i: bits [5:0] of Vb, or the b field when m[3] = 1 (R108). -/
def EOp.shiftCount (o : EOp) (c : Truss) (i : Nat) : Nat :=
  if o.wide then o.imm % 64 else if bitOf o.m 3 then o.b else (c.vg o.b i).toNat % 64

/-- An accumulator is named in bits [2:0] with bits [4:3] at 0 (R126). -/
def isAcc (n : Nat) : Bool := n < 8

/-- A Q register is named in bits [1:0]; Q0 is never a destination. -/
def isQDest (n : Nat) : Bool := 1 ≤ n && n < 4

/-! ### Addressing -/

/-- The address spaces of "Memories seen from a core". -/
inductive Space where
  | x | y | ls | bent | far
deriving DecidableEq, Repr

/-- Element patterns of R77, with the register they take. -/
inductive Pattern where
  | contiguous
  | strided (m : Nat)
  | broadcast
  | rotated (m : Nat)
  | indexed (v : Nat)
deriving DecidableEq, Repr

/-- Post-modify sources: none, an immediate, plus or minus a modifier register. -/
inductive PostMod where
  | none
  | imm (n : Int)
  | reg (m : Nat) (negate : Bool)
deriving DecidableEq, Repr

/-- A decoded memory slot. -/
structure MemOp where
  space : Space
  v : Nat
  ptr : Nat
  pattern : Pattern
  post : PostMod
deriving DecidableEq, Repr

def pmCode (n m : Nat) : PostMod :=
  match n with
  | 0 => .none
  | 1 => .imm 1
  | 2 => .imm (-1)
  | 3 => .imm 32
  | 4 => .imm (-32)
  | 5 => .reg m false
  | 6 => .reg m true
  | _ => .imm 2

/-- The patterns of MA and MB (R129): LS takes contiguous only. -/
def patCode (ls : Bool) (n m : Nat) : Option Pattern :=
  if ls && n != 0 then none
  else
    match n with
    | 0 => some .contiguous
    | 1 => some (.strided m)
    | 2 => some .broadcast
    | 3 => some (.rotated m)
    | _ => none

/-- The memory operation of a slot; none for a reserved code or a nonzero reserved field (R81, R124). -/
def memDec : MemArgs → Option MemOp
  | .ma sp v ptr pat pm =>
    let space := match sp.toNat with
      | 0 => Space.x
      | 1 => .ls
      | 2 => .bent
      | _ => .far
    let n := ptr.toNat
    (patCode (space = .ls) pat.toNat n).map (fun p => ⟨space, v.toNat, n, p, pmCode pm.toNat n⟩)
  | .mb sp v ptr pat pm =>
    let n := 8 + ptr.toNat
    match sp.toNat with
    | 0 => (patCode false pat.toNat n).map (fun p => ⟨.y, v.toNat, n, p, pmCode pm.toNat n⟩)
    | 1 => (patCode true pat.toNat n).map (fun p => ⟨.ls, v.toNat, n, p, pmCode pm.toNat n⟩)
    | _ => none
  | .ml sp v ptr pat idx pmk pmv =>
    let n := ptr.toNat
    let space := match sp.toNat with
      | 0 => some Space.x
      | 1 => some .y
      | 2 => some .ls
      | 3 => some .bent
      | 4 => some .far
      | _ => none
    let post := match pmk.toNat with
      | 0 => if pmv = 0 then some PostMod.none else none
      | 1 => if pmv.toNat < 16 then some (.reg pmv.toNat false) else none
      | 2 => if pmv.toNat < 64 then some (.imm (sext 6 pmv.toNat)) else none
      | _ => none
    match space, post with
    | some s, some q =>
      if pat.toNat = 4 then some ⟨s, v.toNat, n, .indexed idx.toNat, q⟩
      else if idx != 0 then none
      else (patCode (s = .ls) pat.toNat n).map (fun p => ⟨s, v.toNat, n, p, q⟩)
    | _, _ => none

/-- The mode of Ln (R74): linear, circular with length N, bit-reversed with K. -/
inductive PtrMode where
  | linear
  | circular (n : Nat)
  | reversed (k : Nat)
deriving DecidableEq, Repr

/-- None for a reserved mode code, and for a length outside the stated range, which is reserved too (DEDUCED, log entry 65). -/
def ptrMode (l : Word) : Option PtrMode :=
  let n := l.toNat % 2 ^ 20
  match bitsOf l.toNat 20 4 with
  | 0 => some .linear
  | 1 => if n = 0 then none else some (.circular n)
  | 2 => if 1 ≤ n && n ≤ 16 then some (.reversed n) else none
  | _ => none

/-- Reverse the low k bits of n. -/
def revBits : Nat → Nat → Nat
  | 0, _ => 0
  | k + 1, n => n % 2 * 2 ^ k + revBits k (n / 2)

/-- Reversed-carry addition of k in bits [K − 1 : 0] (R76). -/
def revAdd (kk p : Nat) (k : Int) : Nat :=
  let lo := revBits kk ((revBits kk (p % 2 ^ kk) + revBits kk (lowBits kk k)) % 2 ^ kk)
  p / 2 ^ kk * 2 ^ kk + lo

/-- The base of a circular buffer: the pointer with its low ceil(log2 N) bits cleared (R75). -/
def circBase (n p : Nat) : Nat := p / 2 ^ ceilLog2 32 n * 2 ^ ceilLog2 32 n

/-- The address of offset k from the pointer (R74). -/
def ptrAddr (md : PtrMode) (p : Word) (k : Int) : Nat :=
  match md with
  | .linear => lowBits 32 ((p.toNat : Int) + k)
  | .circular n =>
    let b := circBase n p.toNat
    lowBits 32 ((b : Int) + ((p.toNat - b : Nat) + k) % (n : Int))
  | .reversed kk => revAdd kk p.toNat k

/-- The pointer after post-modify by m, with one wrap (R74, R75). -/
def ptrPost (md : PtrMode) (p : Word) (m : Int) : Word :=
  match md with
  | .linear => BitVec.ofInt 32 ((p.toNat : Int) + m)
  | .circular n =>
    let b := circBase n p.toNat
    let o := ((p.toNat - b : Nat) : Int) + m
    let o := if o ≥ (n : Int) then o - n else if o < 0 then o + n else o
    BitVec.ofInt 32 ((b : Int) + o)
  | .reversed kk => BitVec.ofNat 32 (revAdd kk p.toNat m)

/-- The offset of element i under a pattern (R77). -/
def Truss.offset (c : Truss) (pat : Pattern) (i : Nat) : Int :=
  match pat with
  | .contiguous => (i : Int)
  | .strided m => (i : Int) * (c.mg m).toInt
  | .broadcast => 0
  | .rotated m => ((i + (c.mg m).toNat % 32) % 32 : Nat)
  | .indexed v => sext 20 (c.vg v i).toNat

def Truss.postAmount (c : Truss) (pm : PostMod) : Int :=
  match pm with
  | .none => 0
  | .imm n => n
  | .reg m neg => if neg then -(c.mg m).toInt else (c.mg m).toInt

/-- Bits of the pointer that a space uses (R66). -/
def Space.bits : Space → Nat
  | .x => 16
  | .y => 16
  | .ls => 9
  | .bent => 19
  | .far => 32

/-- Whether R66 allows an address in a space. -/
def Space.ok (s : Space) (a : Nat) : Bool :=
  decide (a < 2 ^ s.bits) && (s != .far || a % 4 == 0)

/-- The space address of lane i (R68, R74, R77). -/
def Truss.laneAddr (c : Truss) (o : MemOp) (md : PtrMode) (i : Nat) : Nat :=
  match o.space, o.pattern with
  | .ls, .indexed v => (c.vg v i).toNat % 512
  | .ls, _ => (c.pg o.ptr).toNat
  | _, pat => ptrAddr md (c.pg o.ptr) (c.offset pat i)

/-- The internal byte address of a space address of core n, lane i (R274). -/
def spaceByte (n : Nat) (s : Space) (i a : Nat) : Nat :=
  match s with
  | .x => 0x21000000 + n * 0x100000 + 4 * a
  | .y => 0x21040000 + n * 0x100000 + 4 * a
  | .ls => 0x210A0000 + n * 0x100000 + i * 0x800 + 4 * a
  | .bent => 0x20000000 + n / 5 * 0x200000 + 4 * a
  | .far => a

end Sys2Proof.Machine
end

