-- ==== Sys2Proof/Machine/LaneOps.lean ====
section
/-! DEFINITION. What each E and EW operation does to the registers of a core (R105–R123, R127, R128), and
which field values make its bundle illegal (R81, R124, R126). -/

namespace Sys2Proof.Machine

/-- The E operations (R127). -/
inductive EKind where
  | mpy | mac | msu | fma | fmpy | ext | ald | add | sub | and | or | xor | abs | neg | min | max
  | shl | shra | shrl | cmp | fadd | fsub | fmul | fmin | fmax | cvt | bexp | bexpa | acc
deriving DecidableEq, Repr

/-- The field values that an E operation allows (R124, R126, R127). In the wide form b is 0 by encoding. -/
def EKind.legal (k : EKind) (o : EOp) : Bool :=
  match k with
  | .mpy | .mac | .msu => isAcc o.d
  | .fma | .fmpy => isAcc o.d && o.m < 2
  | .ext => isAcc o.a && bitsOf o.m 1 2 != 3
  | .ald => isAcc o.d && o.m < 2
  | .add | .sub | .min | .max => o.m < 2
  | .and | .or | .xor => o.m == 0
  | .abs | .neg => o.m < 2 && o.b == 0
  | .shl | .shra | .shrl => true
  | .cmp => isQDest o.d
  | .fadd | .fsub | .fmul | .fmin | .fmax => o.m == 0
  | .cvt => o.m < 2
  | .bexp => o.m == 0 && o.b == 0
  | .bexpa => o.m == 0 && o.d == 0 && isAcc o.a && o.b == 0
  | .acc =>
    isAcc o.d && o.m < 6 &&
      (if o.m = 0 then o.a == 0 && o.b == 0 else if o.m < 4 then isAcc o.a && o.b == 0 else o.a == 0)

/-- The exact product under the sign mode m[1:0], shifted left by m[3:2] (R105). -/
def product (m : Nat) (x y : Word) : Int :=
  let a : Int := if bitOf m 1 then (x.toNat : Int) else x.toInt
  let b : Int := if bitOf m 0 then (y.toNat : Int) else y.toInt
  a * b * 2 ^ bitsOf m 2 2

/-- Extraction of R107: shift s, rounding code r, saturation. -/
def extract (x : Int) (s r : Nat) (sat : Bool) : Word × Nat :=
  let inc : Int :=
    if s = 0 || r = 0 then 0
    else if r = 1 then 2 ^ (s - 1)
    else if lowBits s x = 2 ^ (s - 1) && asr x s % 2 == 0 then 2 ^ (s - 1) - 1 else 2 ^ (s - 1)
  let y := asr (x + inc) s
  if sat then res32 true y else (BitVec.ofInt 32 y, 0)

/-- Sign mode of the E form: m[1:0] is (first, second) with 1 unsigned in bit 1 and bit 0 (R105). -/
def maskIf (b : Bool) (v : Nat) : Nat := if b then v else 0

/-- Shift left of R108. -/
def shlW (sat : Bool) (x : Word) (n : Nat) : Word × Nat :=
  if sat then res32 true (x.toInt * 2 ^ n) else (if n ≥ 32 then 0 else x <<< n, 0)

/-- Arithmetic shift right of R108; 32 or more gives the sign fill. -/
def shraW (rnd : Bool) (x : Word) (n : Nat) : Word :=
  if n ≥ 32 then (if x.toInt < 0 then 0xFFFFFFFF else 0)
  else BitVec.ofInt 32 (asr (x.toInt + (if rnd && n != 0 then 2 ^ (n - 1) else 0)) n)

def shrlW (x : Word) (n : Nat) : Word := if n ≥ 32 then 0 else x >>> n

/-- The condition of CMP (R127). -/
def cmpCond (md : F32.Mode) (m : Nat) (x y : Word) : Bool :=
  if bitOf m 3 then
    let nan := F32.nanW md x || F32.nanW md y
    let lt := F32.lt md x y
    let gt := F32.lt md y x
    let eq := F32.eq md x y
    match m % 8 with
    | 0 => !nan && eq
    | 1 => nan || !eq
    | 2 => !nan && lt
    | 3 => !nan && (lt || eq)
    | 4 => !nan && gt
    | 5 => !nan && (gt || eq)
    | 6 => !nan && lt
    | _ => !nan && (gt || eq)
  else
    match m % 8 with
    | 0 => x == y
    | 1 => x != y
    | 2 => decide (x.toInt < y.toInt)
    | 3 => decide (x.toInt ≤ y.toInt)
    | 4 => decide (x.toInt > y.toInt)
    | 5 => decide (x.toInt ≥ y.toInt)
    | 6 => decide (x.toNat < y.toNat)
    | _ => decide (x.toNat ≥ y.toNat)

/-- A Q register with the bits of the given lanes replaced; other lanes keep theirs (R65). -/
def qWith (q : Word) (lanes : List Nat) (f : Nat → Bool) : Word :=
  lanes.foldl (fun w i => setBits w i 1 (b2n (f i))) q

def accLow (x : Acc) : Word := x.truncate 32
def accOfWord (w : Word) : Acc := w.zeroExtend 80

def resV (r : F32.Res) : Word × Nat := (r.w, r.fl)
def resA (r : F32.Res) : Acc × Nat := (accOfWord r.w, r.fl)

/-- The least of a list of counts and a start. -/
def leastOf (n : Nat) (l : List Nat) : Nat := l.foldl Nat.min n

/-- An E operation whose fields are legal. -/
def EKind.run (k : EKind) (o : EOp) (c : Truss) : Truss :=
  let act := c.active o.pq
  let md := c.fmode
  let x := fun i => c.vg o.a i
  let y := o.second c
  match k with
  | .mpy => c.mapAF o.d act (fun i => accSat (product o.m (x i) (y i)))
  | .mac => c.mapAF o.d act (fun i => accSat ((c.ag o.d i).toInt + product o.m (x i) (y i)))
  | .msu => c.mapAF o.d act (fun i => accSat ((c.ag o.d i).toInt - product o.m (x i) (y i)))
  | .fma => c.mapAF o.d act (fun i =>
      resA (F32.fma md (o.m == 1) false (x i) (y i) (accLow (c.ag o.d i))))
  | .fmpy => c.mapAF o.d act (fun i => resA (F32.mul md (o.m == 1) (x i) (y i)))
  | .ext => c.mapVF o.d act (fun i =>
      extract (c.ag o.a i).toInt o.count6 (bitsOf o.m 1 2) (bitOf o.m 3))
  | .ald => c.mapAF o.d act (fun i => accSat ((x i).toInt * 2 ^ o.count6))
  | .add => c.mapVF o.d act (fun i => res32 (o.m == 1) ((x i).toInt + (y i).toInt))
  | .sub => c.mapVF o.d act (fun i => res32 (o.m == 1) ((x i).toInt - (y i).toInt))
  | .and => c.mapV o.d act (fun i => x i &&& y i)
  | .or => c.mapV o.d act (fun i => x i ||| y i)
  | .xor => c.mapV o.d act (fun i => x i ^^^ y i)
  | .abs => c.mapVF o.d act (fun i => res32 (o.m == 1) ((x i).toInt.natAbs : Int))
  | .neg => c.mapVF o.d act (fun i => res32 (o.m == 1) (-(x i).toInt))
  | .min => c.mapV o.d act (fun i =>
      let lt := if o.m = 1 then decide ((y i).toNat < (x i).toNat) else decide ((y i).toInt < (x i).toInt)
      if lt then y i else x i)
  | .max => c.mapV o.d act (fun i =>
      let lt := if o.m = 1 then decide ((x i).toNat < (y i).toNat) else decide ((x i).toInt < (y i).toInt)
      if lt then y i else x i)
  | .shl => c.mapVF o.d act (fun i => shlW (bitOf o.m 0) (x i) (o.shiftCount c i))
  | .shra => c.mapV o.d act (fun i => shraW (bitOf o.m 1) (x i) (o.shiftCount c i))
  | .shrl => c.mapV o.d act (fun i => shrlW (x i) (o.shiftCount c i))
  | .cmp =>
    let q := qWith (c.qg o.d) act (fun i => cmpCond md o.m (x i) (y i))
    let nv := bitOf o.m 3 && act.any (fun i => F32.sigW md (x i) || F32.sigW md (y i))
    (c.qp o.d q).raise (maskIf nv F32.fNv)
  | .fadd => c.mapVF o.d act (fun i => resV (F32.add md (x i) (y i)))
  | .fsub => c.mapVF o.d act (fun i => resV (F32.sub md (x i) (y i)))
  | .fmul => c.mapVF o.d act (fun i => resV (F32.mul md false (x i) (y i)))
  | .fmin => c.mapVF o.d act (fun i => resV (F32.minMax md false (x i) (y i)))
  | .fmax => c.mapVF o.d act (fun i => resV (F32.minMax md true (x i) (y i)))
  | .cvt => c.mapVF o.d act (fun i =>
      resV (if o.m = 0 then F32.ofInt md (x i) o.count5 else F32.toInt md (x i) o.count5))
  | .bexp =>
    let n := fun i => redundant 32 (x i).toInt
    (c.mapV o.d act (fun i => BitVec.ofNat 32 (n i))).minBexp (leastOf 127 (act.map n))
  | .bexpa => c.minBexp (leastOf 127 (act.map (fun i => redundant 80 (c.ag o.a i).toInt)))
  | .acc => c.mapAF o.d act (fun i =>
      let d := (c.ag o.d i).toInt
      let a := (c.ag o.a i).toInt
      match o.m with
      | 0 => (0, 0)
      | 1 => (c.ag o.a i, 0)
      | 2 => accSat (d + a)
      | 3 => accSat (d - a)
      | 4 => (BitVec.ofInt 80 (asr d o.count5), 0)
      | _ => accSat (d * 2 ^ o.count5))

/-- The operations that only the EW slot has (R128). -/
inductive WKind where
  | fma3 | macx | sel | maxi | mini | shuf | red | ldi | ldih | fromp
deriving DecidableEq, Repr

/-- The fields of an EW operation as numbers. -/
structure WOp where
  d : Nat
  a : Nat
  b : Nat
  c : Nat
  pq : Nat
  imm : Nat
deriving DecidableEq, Repr

def wOp (x : EWArgs) : WOp := ⟨x.d.toNat, x.a.toNat, x.b.toNat, x.c.toNat, x.pq.toNat, x.imm.toNat⟩

/-- The field values that an EW operation allows (R124, R128). The lane of RED and the count of SHUF may hold any value in a kind
that does not use them: neither is a register number. -/
def WKind.legal (k : WKind) (o : WOp) : Bool :=
  match k with
  | .fma3 => o.imm < 4
  | .macx => o.imm < 0x800 && bitsOf o.imm 6 2 != 3
  | .sel => o.imm == 0 && o.c < 4
  | .maxi | .mini => o.b == 0 && o.imm < 64
  | .shuf =>
    let kind := bitsOf o.imm 8 4
    kind < 9 && o.imm < 0x1000 && bitsOf o.imm 5 3 == 0
      && ((3 ≤ kind && kind ≤ 6) || kind == 8 || o.b == 0) && (kind == 7 || o.c == 0)
  | .red =>
    let kind := o.imm % 16
    o.b == 0 && o.c == 0 && kind < 11 && o.imm < 0x200
      && (if kind = 0 then isAcc o.d && isAcc o.a
          else o.d < 16 && (kind != 10 || o.a < 4))
  | .ldi | .ldih => o.a == 0 && o.b == 0 && o.c == 0
  | .fromp => o.a < 16 && o.b == 0 && o.c == 0 && o.imm == 0

/-- Whether MAXI or MINI replaces lane i (R119). -/
def betterThan (md : F32.Mode) (isMax : Bool) (imm : Nat) (a d : Word) : Bool :=
  let gt : Word → Word → Bool := fun p q =>
    if bitOf imm 4 then !F32.nanW md a && (F32.nanW md d || F32.lt md q p)
    else if bitOf imm 5 then decide (p.toNat > q.toNat) else decide (p.toInt > q.toInt)
  if bitOf imm 4 && F32.nanW md d then false else if isMax then gt a d else gt d a

/-- The source lane of SHUF (R123): true reads Va, false Vb. -/
def shufSrc (c : Truss) (o : WOp) (i : Nat) : Bool × Nat :=
  let k := o.imm % 32
  match bitsOf o.imm 8 4 with
  | 0 => (true, (i + k) % 32)
  | 1 => (true, Nat.xor i k)
  | 2 => (true, k)
  | 3 => if i % 2 = 0 then (true, i / 2) else (false, (i - 1) / 2)
  | 4 => if i % 2 = 0 then (true, 16 + i / 2) else (false, 16 + (i - 1) / 2)
  | 5 => if i < 16 then (true, 2 * i) else (false, 2 * (i - 16))
  | 6 => if i < 16 then (true, 2 * i + 1) else (false, 2 * (i - 16) + 1)
  | 7 => (true, (c.vg o.c i).toNat % 32)
  | _ => if i + k < 32 then (true, i + k) else (false, i + k - 32)

/-- The lowest lane whose element wins under `better new best`, with the element. -/
def pickBest (better : Word → Word → Bool) : List (Nat × Word) → Option (Nat × Word)
  | [] => none
  | e :: t => some (t.foldl (fun b x => if better x.2 b.2 then x else b) e)

/-- One level of the adding tree of FRSUM (R122). -/
def pairAdd (md : F32.Mode) : List Word → List Word × Nat
  | a :: b :: t =>
    let r := F32.add md a b
    let (l, f) := pairAdd md t
    (r.w :: l, r.fl ||| f)
  | l => (l, 0)

def treeAdd (md : F32.Mode) : Nat → List Word × Nat → List Word × Nat
  | 0, s => s
  | n + 1, s => let (l, f) := pairAdd md s.1; treeAdd md n (l, f ||| s.2)

/-- Population count of a word. -/
def popcount (w : Word) : Nat := ((List.range 32).filter (bitOf w.toNat)).length

def Truss.redResult (c : Truss) (o : WOp) (w : Word) : Truss := c.pp (o.d % 16) w

/-- A search reduction: the word for P(d) and the lane for ST.lane (R120, R121). -/
def Truss.redSearch (c : Truss) (o : WOp) (empty : Word) (l : List (Nat × Word))
    (better : Word → Word → Bool) : Truss :=
  match pickBest better l with
  | none => (c.redResult o empty).setStLane 0
  | some (i, w) => (c.redResult o w).setStLane i

/-- RED (R120–R122). -/
def Truss.red (c : Truss) (o : WOp) : Truss :=
  let act := c.active o.pq
  let md := c.fmode
  let els := act.map (fun i => (i, c.vg o.a i))
  let sig := act.any (fun i => F32.sigW md (c.vg o.a i))
  let fsearch := fun (isMax : Bool) (empty : Word) =>
    let good := (els.filter (fun e => !F32.nanW md e.2)).map (fun e => (e.1, F32.pack md e.2))
    let c := c.raise (maskIf sig F32.fNv)
    if els.isEmpty then (c.redResult o empty).setStLane 0
    else if good.isEmpty then (c.redResult o F32.defaultNan).setStLane 0
    else c.redSearch o empty good (fun x b =>
      let kx := F32.key (F32.unpack md x)
      let kb := F32.key (F32.unpack md b)
      if isMax then F32.ltKey kb kx else F32.ltKey kx kb)
  match o.imm % 16 with
  | 0 =>
    let r := accSat (act.foldl (fun (s : Int) i => s + (c.ag o.a i).toInt) 0)
    c.mapAF o.d act (fun _ => r)
  | 1 => c.redSearch o 0x80000000 els (fun x b => decide (x.toInt > b.toInt))
  | 2 => c.redSearch o 0x7FFFFFFF els (fun x b => decide (x.toInt < b.toInt))
  | 3 => c.redSearch o 0 els (fun x b => decide (x.toNat > b.toNat))
  | 4 => c.redSearch o 0xFFFFFFFF els (fun x b => decide (x.toNat < b.toNat))
  | 5 => fsearch true 0xFF800000
  | 6 => fsearch false 0x7F800000
  | 7 =>
    if act.isEmpty then (c.redResult o 0).setStLane 0
    else
      let l := (List.range 32).map (fun i => if act.contains i then c.vg o.a i else 0)
      let (r, f) := treeAdd md 5 (l, 0)
      (c.redResult o (r.headD 0)).raise f
  | 8 => c.redResult o (c.vg o.a c.stLane)
  | 9 => c.redResult o (c.vg o.a (bitsOf o.imm 4 5))
  | _ => c.redResult o (BitVec.ofNat 32 (popcount (c.qg (o.a % 4) &&& c.qg 0)))

/-- An EW operation whose fields are legal. -/
def WKind.run (k : WKind) (o : WOp) (c : Truss) : Truss :=
  let act := c.active o.pq
  let md := c.fmode
  let x := fun i => c.vg o.a i
  match k with
  | .fma3 => c.mapVF o.d act (fun i =>
      resV (F32.fma md (bitOf o.imm 0) (bitOf o.imm 1) (x i) (c.vg o.b i) (c.vg o.c i)))
  | .macx => c.mapVF o.d act (fun i =>
      let s := o.imm % 64
      let sum := accSat ((c.vg o.c i).toInt * 2 ^ s + product (bitsOf o.imm 9 2) (x i) (c.vg o.b i))
      let (w, f) := extract sum.1.toInt s (bitsOf o.imm 6 2) (bitOf o.imm 8)
      (w, f ||| sum.2))
  | .sel => c.mapV o.d act (fun i => if bitOf (c.qg (o.c % 4)).toNat i then x i else c.vg o.b i)
  | .maxi | .mini =>
    let p := c.pg (o.imm % 16)
    let win := act.filter (fun i => betterThan md (k = .maxi) o.imm (x i) (c.vg o.d i))
    (c.mapV o.d win x).mapV o.c win (fun _ => p)
  | .shuf => c.mapV o.d act (fun i =>
      let (fromA, j) := shufSrc c o i
      if fromA then c.vg o.a j else c.vg o.b j)
  | .red => c.red o
  | .ldi => c.mapV o.d act (fun _ => BitVec.ofInt 32 (sext 16 o.imm))
  | .ldih => c.mapV o.d act (fun i => setBits (c.vg o.d i) 16 16 o.imm)
  | .fromp => c.mapV o.d act (fun _ => c.pg (o.a % 16))

end Sys2Proof.Machine
end

