-- ==== Sys2Proof/Machine/Concealment.lean ====
section
/-! DEFINITION. Hold-and-fade concealment (R37, R39) and the counters of R41, which kitties and the delay
modules share. -/

namespace Sys2Proof.Machine

/-! ### Counters of R41 -/

def cFcs : Nat := 0
def cFormat : Nat := 1
def cSeq : Nat := 2
def cMisalign : Nat := 3
def cLate : Nat := 4
def cEarly : Nat := 5
def cDup : Nat := 6
def cGmacSkip : Nat := 7
def cGmacFail : Nat := 8
def cUnderrun : Nat := 9
def cConceal : Nat := 10
def cSquashIn : Nat := 11
def cSpecReplay : Nat := 12
def cSpecSquash : Nat := 13
def cSpecTimeout : Nat := 14
def cLateConfirm : Nat := 15
def cAwait : Nat := 16

/-- Add 1 to a 32-bit counter, wrapping. -/
def bump (t : Tab Nat) (c : Nat) : Tab Nat := t.put c ((t.get 0 c + 1) % 4294967296)

/-! ### Concealment (R37, R39) -/

/-- Length of the concealment fade: round(0.002 × fs). -/
def concealF (fs : Nat) : Nat := (2 * fs + 500) / 1000

/-- The concealment of a held sample at sample s from the start of the concealment. -/
def concealAt (F hold bs s : Nat) (held : Int) : Int :=
  if hold = 255 || s < hold * bs then held else scale24 held (fadeOut F (s - hold * bs))

/-- Conceal one more block: its samples and the new position. -/
def Conceal.miss (c : Conceal) (fs bs hold chans : Nat) (cause : Nat) : Block × Conceal :=
  let fresh := c.run = 0 || c.cause = 0
  let held := if fresh then c.last else c.held
  let run := if fresh then 0 else c.run
  let blk : Block := (List.range chans).map (fun ch =>
    (List.range bs).map (fun i => concealAt (concealF fs) hold bs (run * bs + i) (nthI held ch)))
  (blk, { c with held := held, run := run + 1, ret := 0, cause := if fresh then cause else c.cause,
                 last := blk.map (fun l => l.getLastD 0) })

/-- Deliver a block: the 64-sample ramp when it returns after concealment. -/
def Conceal.take (c : Conceal) (fs bs hold : Nat) (x : Block) : Block × Conceal :=
  if c.run = 0 then (x, { c with last := x.map (fun l => l.getLastD 0) })
  else
    let ret0 := if c.ret < 64 && c.cause = 0 then c.ret else 0
    let blk : Block := x.zipIdx.map (fun e => e.1.zipIdx.map (fun s =>
      let k := ret0 + s.2
      if k ≥ 64 then s.1
      else
        let cc := concealAt (concealF fs) hold bs (c.run * bs + k) (nthI c.held e.2)
        xfade cc s.1 (scarf 64 false k)))
    let ret := ret0 + bs
    (blk, { c with ret := min ret 64, run := if ret ≥ 64 then 0 else c.run, cause := 0,
                   last := blk.map (fun l => l.getLastD 0) })

end Sys2Proof.Machine
end

