-- ==== Sys2Proof/Machine/ModuleOps.lean ====
section
/-! DEFINITION. The library modules that run on truss cores (R172–R195, R556, R557): delay lines, FIR paths,
the noise, sweep and transfer modules. A module reads and writes the typed channel buffers of the epoch. -/

namespace Sys2Proof.Machine

def Hw.buf (h : Hw) (b : Nat) : List Int := h.bufs.get (List.replicate h.bs 0) b

def Hw.setBuf (h : Hw) (b : Nat) (x : List Int) : Hw := { h with bufs := h.bufs.put b x }

/-! ### Delay lines (R173–R178, R190, R191) -/

/-- A tap control record (R177). -/
structure TapRec where
  cur : Nat
  nxt : Nat
  start : Nat
  len : Nat
  law : Bool
  running : Bool
  line : Nat
  lineLen : Nat
deriving DecidableEq, Repr

def Hw.tapAt (h : Hw) (a : Nat) : TapRec :=
  { cur := h.rdN a 4 % 2 ^ 26, nxt := h.rdN (a + 4) 4 % 2 ^ 26, start := h.rdN (a + 8) 8,
    len := h.rdN (a + 16) 2, law := h.rdN (a + 18) 1 = 1, running := h.rdN (a + 19) 1 = 1,
    line := h.rdN (a + 20) 4, lineLen := max (h.rdN (a + 24) 4) 1 }

/-- The allocated length of a line (R173). -/
def lineAlloc (maxDelay bs : Nat) : Nat := (maxDelay + 8 + bs + 15) / 16 * 16

/-- The sample at media sample index n of a line. -/
def Hw.lineGet (h : Hw) (r : TapRec) (n : Int) : Int :=
  sext 32 (h.rdN (r.line + 4 * (n % (r.lineLen : Int)).toNat) 4)

/-- The sample of a remote line: what the other engine's deck holds is not this engine's state
(DESIGN CHOICE, log entry 25). -/
def Hw.remoteGet (h : Hw) (r : TapRec) (n : Int) : Int :=
  sext 32 (Config.freeValue (h.fresh + (n % (r.lineLen : Int)).toNat))

/-- Coefficient k = i − 7 of the interpolator at phase f in Q1.30 (R176): the sinc of cutoff 0.45 fs about the delay f / 64
under a Kaiser window over 8 samples to each side, rounded down or up (UNVERIFIED, log entry 17). -/
def delayCoef (f i : Nat) : Int :=
  let q : Int := 64 * ((i : Int) - 7) - (f : Int)
  let ideal := sinTurn ((45 * q % 6400) * fxOne / 6400) * 64 * fxOne / (fxPi * q)
  let b2 : Int := (Config.kaiserBeta : Int) * (Config.kaiserBeta : Int) * fxOne / 2 ^ 34
  let bessel := fun (y : Int) => besselTerms y 60 0 fxOne
  let win := bessel (b2 - b2 * (q * q) / 262144) * fxOne / bessel b2
  asr (fxMul ideal win) 66 + b2n (Config.delayUp f i)

/-- A tap of encoded delay d at media sample index n (R175, R176). -/
def tapSample (get : Int → Int) (d : Nat) (n : Int) : Int :=
  let D : Int := ((d / 64 : Nat) : Int)
  if d % 64 = 0 then get (n - D)
  else
    let acc := (List.range 16).foldl (fun a i =>
      a + delayCoef (d % 64) i * get (n - D - ((i : Int) - 7))) 0
    let half := 2 ^ 29
    let inc := if lowBits 30 acc = half && asr acc 30 % 2 == 0 then (half : Int) - 1 else (half : Int)
    satH (asr (acc + inc) 30)

/-- A delay tap is in range (R175, R190). -/
def tapDelayOk (maxDelay bs d : Nat) (remote : Bool) : Bool :=
  let whole := d / 64
  let least := (if remote then 2 * bs else 0) + (if d % 64 = 0 then 0 else 7)
  d < 2 ^ 26 && least ≤ whole && whole ≤ maxDelay

/-- The block of a tap, with a change running over it (R178). -/
def tapBlock (get : Int → Int) (r : TapRec) (t bs : Nat) : List Int :=
  (List.range bs).map (fun k =>
    let n : Int := ((t + k : Nat) : Int)
    if r.running && r.start ≤ t + k then
      xfade (tapSample get r.cur n) (tapSample get r.nxt n) (scarf r.len r.law (t + k - r.start))
    else tapSample get r.cur n)

/-- The epoch's samples go into the line before any tap reads (R173, R174). -/
def Hw.lineWrite (h : Hw) (r : TapRec) (x : List Int) : Hw :=
  x.zipIdx.foldl (fun h e =>
    h.wrN (r.line + 4 * ((h.epoch.t + e.2) % r.lineLen)) 4 (lowBits 32 e.1)) h

/-- A FAR load of core n's task from the line of a remote tap ended in FAR_ERR in this run, at its deck address or through
its window (R73, R191). -/
def Hw.farFailed (h : Hw) (n : Nat) (r : TapRec) : Bool :=
  (h.core n).farErrs.any (fun a =>
    let o := match h.place n false a with
      | .remote _ o => 0x10000000 + o
      | _ => a
    decide (r.line ≤ o) && decide (o < r.line + 4 * r.lineLen))

/-- The concealment of a tap from which the epoch's block goes on: a replay starts again where the epoch did. -/
def TapConceal.base (c : TapConceal) (n : Nat) : Conceal := if c.epoch = some n then c.before else c.now

/-- A remote tap's block of the epoch, or its concealment, counted once at the tap's sink kitty, with the records of its onset and
end (R57, R58, R191). -/
def Hw.runRemote (h : Hw) (failed : Bool) (r : TapRec) (tc : TapCfg) : Hw :=
  let c := h.mods.tapConceal.get {} tc.tap
  let base := c.base h.epoch.n
  let again := c.epoch = some h.epoch.n && c.counted
  let m := h.mods
  if failed then
    let (b, x) := base.miss h.fs h.bs tc.hold 1 5
    let h : Hw := { h with
      mods := { m with tapConceal := m.tapConceal.put tc.tap ⟨x, base, some h.epoch.n, true⟩ }
      kout := if again then h.kout else h.kout.mod tc.sinkKitty (fun k => { k with cnt := bump k.cnt cConceal }) }
    (if again || base.run != 0 then h else h.trace 0x08 (leBytes 4 tc.sinkKitty ++ [9])).setBuf tc.outBuf (b.getD 0 [])
  else
    let (b, x) := base.take h.fs h.bs tc.hold [tapBlock (h.remoteGet r) r h.epoch.t h.bs]
    let h : Hw := { h with
      mods := { m with tapConceal := m.tapConceal.put tc.tap ⟨x, base, some h.epoch.n, again⟩ }
      fresh := h.fresh + r.lineLen }
    (if base.run = 0 then h else h.trace 0x09 (leBytes 4 tc.sinkKitty ++ leBytes 4 base.run)).setBuf tc.outBuf (b.getD 0 [])

/-- One tap of a delay module. -/
def Hw.runTap (h : Hw) (n : Nat) (tc : TapCfg) : Hw :=
  match h.join.tapRec.find? tc.tap with
  | none => h
  | some a =>
    let r := h.tapAt a
    if tc.remote then h.runRemote (h.farFailed n r) r tc
    else h.setBuf tc.outBuf (tapBlock (h.lineGet r) r h.epoch.t h.bs)

/-- The delay module (R173–R178). -/
def Hw.runDelay (h : Hw) (n inBuf : Nat) (taps : List TapCfg) : Hw :=
  let own := taps.find? (fun t => !t.remote && (h.join.tapRec.find? t.tap).isSome)
  let h := match own.bind (fun t => h.join.tapRec.find? t.tap) with
    | some a => h.lineWrite (h.tapAt a) (h.buf inBuf)
    | none => h
  taps.foldl (fun h t => h.runTap n t) h

/-- At the end of the epoch in which a tap's scarf completes, cur becomes nxt and the state steady (R178). -/
def Hw.tapsEnd (h : Hw) : Hw :=
  h.deal.tasks.foldl (fun h t => match t.module with
    | .delay _ _ taps _ => taps.foldl (fun h tc => match h.join.tapRec.find? tc.tap with
      | some a =>
        let r := h.tapAt a
        if r.running && decide (r.start + scarfLen r.len ≤ h.epoch.t + h.bs) then (h.wrN a 4 r.nxt).wrBytes (a + 19) [0] else h
      | none => h) h
    | _ => h) h

/-! ### FIR paths (R179–R189, R557) -/

/-- Round to nearest even, flush to zero (R181). -/
def fmd : F32.Mode := ⟨0, true⟩

def fadd (a b : Word) : Word := (F32.add fmd a b).w
def fsub (a b : Word) : Word := (F32.sub fmd a b).w
def fmulW (a b : Word) : Word := (F32.mul fmd false a b).w
def fmaW (a b c : Word) : Word := (F32.fma fmd false false a b c).w

def Cx.zero : Cx := ⟨0, 0⟩
def Cx.conj (a : Cx) : Cx := ⟨a.re, a.im ^^^ 0x80000000⟩
def Cx.add (a b : Cx) : Cx := ⟨fadd a.re b.re, fadd a.im b.im⟩
def Cx.sub (a b : Cx) : Cx := ⟨fsub a.re b.re, fsub a.im b.im⟩

/-- The complex product of R557: the first factor is a + jb, the second c + jd. -/
def Cx.mul (a b : Cx) : Cx :=
  ⟨fmaW a.re b.re (F32.mul fmd true a.im b.im).w, fmaW a.re b.im (fmulW a.im b.re)⟩

def Cx.scale (s : Word) (a : Cx) : Cx := ⟨fmulW s a.re, fmulW s a.im⟩

/-- j × a. -/
def Cx.timesJ (a : Cx) : Cx := ⟨a.im ^^^ 0x80000000, a.re⟩

/-- A value with 96 fractional bits as the nearest binary32. -/
def fxToF32 (v : Int) : Word := (F32.roundI ⟨0, false⟩ false v (-96)).w

/-- cos(2π k / M) − j sin(2π k / M) for 0 ≤ k < M, each part rounded to nearest binary32; exact at the quarter turns. -/
def twiddle (k M : Nat) : Cx :=
  let a := 2 * k
  if k = 0 then ⟨0x3F800000, 0⟩
  else if 4 * k = M then ⟨0, 0xBF800000⟩
  else if a = M then ⟨0xBF800000, 0⟩
  else if 4 * k = 3 * M then ⟨0, 0x3F800000⟩
  else if a ≤ M then ⟨fxToF32 (cosPi a M), fxToF32 (-(sinPi a M))⟩
  else ⟨fxToF32 (cosPi (2 * M - a) M), fxToF32 (sinPi (2 * M - a) M)⟩

/-- Elements r, r + 4, r + 8, … of a list. -/
def everyNth (s r : Nat) (xs : List Cx) : List Cx :=
  (xs.zipIdx.filter (fun e => e.2 % s = r)).map (·.1)

/-- The complex FFT of 2^g points: a radix-2 stage first where g is odd, then radix-4 stages (R557). `inv`
conjugates the twiddle factors. -/
def fft (inv : Bool) : Nat → List Cx → List Cx
  | 0, xs => xs
  | 1, xs =>
    let x0 := xs.getD 0 Cx.zero
    let w := if inv then (twiddle 0 2).conj else twiddle 0 2
    let x1 := w.mul (xs.getD 1 Cx.zero)
    [x0.add x1, x0.sub x1]
  | g + 2, xs =>
    let q := 2 ^ g
    let M := 4 * q
    let part := fun r => fft inv g (everyNth 4 r xs)
    let p0 := part 0
    let p1 := part 1
    let p2 := part 2
    let p3 := part 3
    let tw := fun k => if inv then (twiddle k M).conj else twiddle k M
    let rows := (List.range q).map (fun k =>
      let x0 := p0.getD k Cx.zero
      let x1 := (tw k).mul (p1.getD k Cx.zero)
      let x2 := (tw (2 * k)).mul (p2.getD k Cx.zero)
      let x3 := (tw (3 * k)).mul (p3.getD k Cx.zero)
      let t0 := x0.add x2
      let t1 := x0.sub x2
      let t2 := x1.add x3
      let t3 := x1.sub x3
      let down : Cx := ⟨fadd t1.re t3.im, fsub t1.im t3.re⟩
      let up : Cx := ⟨fsub t1.re t3.im, fadd t1.im t3.re⟩
      if inv then (t0.add t2, up, t0.sub t2, down) else (t0.add t2, down, t0.sub t2, up))
    rows.map (·.1) ++ rows.map (·.2.1) ++ rows.map (·.2.2.1) ++ rows.map (·.2.2.2)

/-- 0.5 in binary32. -/
def half32 : Word := 0x3F000000

/-- The forward transform of M = 2^(g + 1) real points to bins 0 … M / 2 (R557). -/
def realFft (g : Nat) (f : List Word) : List Cx :=
  let n := 2 ^ g
  let z := fft false g ((List.range n).map (fun i => ⟨f.getD (2 * i) 0, f.getD (2 * i + 1) 0⟩))
  let zg := fun k => z.getD (k % n) Cx.zero
  (List.range (n + 1)).map (fun k =>
    let a := zg k
    let b := (zg (n - k)).conj
    let e := Cx.scale half32 (a.add b)
    let o := Cx.scale half32 (a.sub b)
    let o' : Cx := ⟨o.im, o.re ^^^ 0x80000000⟩
    e.add ((twiddle k (2 * n)).mul o'))

/-- The inverse transform from bins 0 … M / 2 to M real points (R557). -/
def realIfft (g : Nat) (F : List Cx) : List Word :=
  let n := 2 ^ g
  let fg := fun k => F.getD k Cx.zero
  let z := fft true g ((List.range n).map (fun k =>
    let b := (fg (n - k)).conj
    let s := Cx.scale half32 ((fg k).add b)
    let d := ((twiddle k (2 * n)).conj).mul ((fg k).sub b)
    s.add (Cx.timesJ (Cx.scale half32 d))))
  let sc := (F32.roundI ⟨0, false⟩ false 1 (-(g : Int))).w
  z.flatMap (fun c => [fmulW sc c.re, fmulW sc c.im])

/-- Words [a, a + n) of a list, zero beyond its end. -/
def wordsAt (l : List Word) (a n : Nat) : List Word :=
  let s := (l.drop a).take n
  s ++ List.replicate (n - s.length) 0

/-- Partitions of a level (R179). -/
def firParts1 (B N : Nat) : Nat := min 3 (ceilDiv (N - 4 * B) (4 * B))

def firParts2 (B N : Nat) : Nat := ceilDiv (N - 16 * B) (16 * B)

/-- A level of a FIR path (R179): its number, the first tap and the size of its partitions, their number, its frame period in
ticks, log2 of the points of its half-length transform, and where its spectra stand in a coefficient set and in a history
(R184, in the order of its table; DEDUCED, log entry 67). -/
structure FirLevel where
  level : Nat
  first : Nat
  size : Nat
  parts : Nat
  frame : Nat
  g : Nat
  coefOff : Nat
  histOff : Nat
deriving DecidableEq, Repr

/-- Bytes of the spectra of a level: size + 1 bins of 8 bytes a partition (R184). -/
def FirLevel.bytes (l : FirLevel) : Nat := 8 * (l.size + 1) * l.parts

/-- Level 1 of a path of N taps; `blk` is the block size code, so that B = 2^(blk + 2). -/
def firLevel1 (blk B N : Nat) : FirLevel :=
  { level := 1, first := 4 * B, size := 4 * B, parts := firParts1 B N, frame := 4, g := blk + 4,
    coefOff := 4 * min N (4 * B), histOff := 0 }

def firLevel2 (blk B N : Nat) : FirLevel :=
  let l := firLevel1 blk B N
  { level := 2, first := 16 * B, size := 16 * B, parts := firParts2 B N, frame := 16, g := blk + 6,
    coefOff := l.coefOff + l.bytes, histOff := l.bytes }

/-- Bytes of a coefficient set and of an input history of N taps (R184). -/
def firSetBytes (blk B N : Nat) : Nat := (firLevel2 blk B N).coefOff + (firLevel2 blk B N).bytes

def firHistBytes (blk B N : Nat) : Nat := (firLevel2 blk B N).histOff + (firLevel2 blk B N).bytes

/-- Complex bins in the deck, real part first (R55, R184). -/
def Hw.rdBins (h : Hw) (a n : Nat) : List Cx :=
  (List.range n).map (fun i => ⟨BitVec.ofNat 32 (h.rdN (a + 8 * i) 4), BitVec.ofNat 32 (h.rdN (a + 8 * i + 4) 4)⟩)

def binBytes (xs : List Cx) : List Byte := xs.flatMap (fun c => leBytes 4 c.re.toNat ++ leBytes 4 c.im.toNat)

/-- The bytes of a coefficient set: the direct taps as given, then the spectra of the partitions of both levels, of which the
last is zero-padded (R179, R184, R557). -/
def firSet (blk B N : Nat) (taps : List Word) : List Byte :=
  let h := wordsAt taps 0 N
  let level := fun (l : FirLevel) => (List.range l.parts).flatMap (fun p =>
    binBytes (realFft l.g (wordsAt h (l.first + p * l.size) l.size ++ List.replicate l.size 0)))
  (h.take (4 * B)).flatMap (fun w => leBytes 4 w.toNat) ++ level (firLevel1 blk B N) ++ level (firLevel2 blk B N)

/-- The deck address of a bank; a path that is not steerable has one (R187). -/
def firBank (p : FirPath) (b : Bool) : Nat := if b then p.bank1.getD p.bank0 else p.bank0

/-- The older partitions that slice j = 1, 2, … of a frame adds, in descending order: two a slice of level 2, or as many as
its 15 slices need, and one a slice of level 1 (R183; DEDUCED, log entry 67). -/
def FirLevel.slice (l : FirLevel) (j : Nat) : List Nat :=
  let m := if l.level = 1 then 1 else max 2 (ceilDiv (l.parts - 1) 15)
  let top := m * (if l.level = 1 then 2 else 15)
  (((List.range m).map (fun i => top - m * (j - 1) - i)).filter (fun p => decide (1 ≤ p) && decide (p < l.parts)))

/-- The product of partition p with the spectrum of its frame, added to the accumulated bins (R557). -/
def Hw.firAdd (h : Hw) (l : FirLevel) (coef hist frame : Nat) (a : List Cx) (p : Nat) : List Cx :=
  let n := l.size + 1
  let x := h.rdBins (hist + l.histOff + 8 * n * ((frame + l.parts - p) % l.parts)) n
  List.zipWith Cx.add a (List.zipWith Cx.mul (h.rdBins (coef + l.coefOff + 8 * n * p) n) x)

def FirSt.acc (s : FirSt) (b : Bool) (level parity size : Nat) : List Cx :=
  match s.accs.find? (fun x => x.bank = b && x.level = level && x.parity = parity) with
  | some x => x.bins
  | none => List.replicate (size + 1) Cx.zero

def FirSt.setAcc (s : FirSt) (b : Bool) (level parity : Nat) (bins : List Cx) : FirSt :=
  { s with accs := ⟨b, level, parity, bins⟩ :: s.accs.filter (fun x => !(x.bank = b && x.level = level && x.parity = parity)) }

/-- A level's slice of one tick for one bank: the accumulators after it. A speculative group alternates between two sets by
tick parity, so that a replay adds no product twice (R183, R184). -/
def Hw.firAccumulate (h : Hw) (l : FirLevel) (p : FirPath) (s : FirSt) (spec : Bool) (frame j k : Nat) (b : Bool) : List Cx :=
  let old := if spec then (k + 1) % 2 else 0
  let from' := if j = 1 then List.replicate (l.size + 1) Cx.zero else s.acc b l.level old l.size
  (if j = l.frame then [0] else l.slice j).foldl (h.firAdd l (firBank p b) p.hist frame) from'

/-- One level's slice of the tick of index k (R180, R183): the closing slice transforms the new frame into the history, adds
partition 0, and gives the outputs from the next sample on; the others add older partitions. Both banks of a steerable path
are computed (R188; DESIGN CHOICE, log entry 67). -/
def Hw.firSlice (h : Hw) (l : FirLevel) (phase : Nat) (p : FirPath) (s : FirSt) (spec : Bool) : Hw × FirSt :=
  if l.parts = 0 then (h, s)
  else
    let k := h.epoch.n
    let wait := (phase + l.frame - k % l.frame) % l.frame
    let j := l.frame - wait
    let frame := (k + wait) / l.frame
    let closing := wait = 0
    let h := if closing then
        h.wrBytes (p.hist + l.histOff + 8 * (l.size + 1) * (frame % l.parts))
          (binBytes (realFft l.g (wordsAt s.hist 0 (2 * l.size)).reverse))
      else h
    let banks := if p.bank1.isSome then [false, true] else [false]
    let next := h.epoch.t + h.bs
    (h, banks.foldl (fun (s : FirSt) b =>
      let acc := h.firAccumulate l p s spec frame j k b
      let s := s.setAcc b l.level (if spec then k % 2 else 0) acc
      if closing then
        let keep := s.outs.filter (fun o => !(o.level = l.level && o.bank = b) || (o.start < next && next < o.start + 2 * l.size + 1))
        { s with outs := ⟨b, l.level, next, (realIfft l.g acc).drop l.size⟩ :: keep }
      else s) s)

/-- The stored output of a level for media sample index n. -/
def FirSt.level (s : FirSt) (b : Bool) (lv n : Nat) : Word :=
  match s.outs.find? (fun o => o.bank = b && o.level = lv && o.start ≤ n && n < o.start + o.y.length) with
  | some o => o.y.getD (n - o.start) 0
  | none => 0

/-- The direct segment: ascending taps, one fused multiply-add each (R557). -/
def firDirect (taps hist : List Word) (back : Nat) : Word :=
  taps.zipIdx.foldl (fun a e => fmaW e.1 (hist.getD (back + e.2) 0) a) 0

/-- One bank's output for the epoch (R557). -/
def Hw.firOut (h : Hw) (p : FirPath) (s : FirSt) (b : Bool) : List Int :=
  let B := h.bs
  let taps := (List.range (min p.taps (4 * B))).map (fun i => BitVec.ofNat 32 (h.rdN (firBank p b + 4 * i) 4))
  (List.range B).map (fun k =>
    let n := h.epoch.t + k
    let y := fadd (fadd (firDirect taps s.hist (B - 1 - k)) (s.level b 1 n)) (s.level b 2 n)
    (F32.toInt fmd y 28).w.toInt)

/-- The input of an epoch enters the history; a replay writes the same positions. -/
def FirSt.push (s : FirSt) (t B : Nat) (x : List Int) : FirSt :=
  let keep := if s.histEnd = t + B then s.hist.drop B else s.hist
  let new := (x.map (fun v => (F32.ofInt fmd (intToWord v) 28).w)).reverse
  { s with hist := (new ++ keep).take (34 * B), histEnd := t + B }

/-- The bank swap at a tick (R188): a scarf that has completed ends, the new bank being the active one, and a swap whose T64
has come starts when no other runs (DESIGN CHOICE, log entry 67). -/
def FirSt.swapTick (s : FirSt) (t tick : Nat) : FirSt :=
  let s : FirSt := match s.running with
    | some (start, w) => if start + scarfLen w.len ≤ t then { s with running := none, active := !s.active } else s
    | none => s
  match s.swap with
  | some w => if s.running.isNone && decide (w.t64 ≤ tick) then { s with running := some (t, w), swap := none } else s
  | none => s

/-- The banks that a host may not write: the active one, and the incoming one while its scarf runs (R187, R188). -/
def FirSt.locked (s : FirSt) (b : Bool) : Bool := b = s.active || s.running.isSome

/-- A path of a FIR group in its epoch (R179–R188). -/
def Hw.runPath (h : Hw) (part : FirPart) (ph1 ph2 : Nat) (spec : Bool) (p : FirPath) : Hw :=
  let B := h.bs
  let t := h.epoch.t
  let s := ((h.mods.fir.get {} p.path).swapTick t h.epoch.tick).push t B (h.buf p.inBuf)
  let blk := h.deal.blk.val
  let (h, s) := if part.level1 then h.firSlice (firLevel1 blk B p.taps) ph1 p s spec else (h, s)
  let (h, s) := if part.level2 then h.firSlice (firLevel2 blk B p.taps) ph2 p s spec else (h, s)
  let m := h.mods
  let h : Hw := { h with mods := { m with fir := m.fir.put p.path s } }
  if part.direct then
    let y := h.firOut p s s.active
    h.setBuf p.outBuf (match s.running with
      | some (start, w) => (h.firOut p s (!s.active)).zipIdx.map (fun e =>
          xfade (nthI y e.2) e.1 (scarf w.len w.law (t + e.2 - start)))
      | none => y)
  else h

/-- The FIR module: the paths of its group (R182). -/
def Hw.runFir (h : Hw) (paths : List FirPath) (part : FirPart) (ph1 ph2 : Nat) (spec : Bool) : Hw :=
  paths.foldl (fun h p => h.runPath part ph1 ph2 spec p) h

/-! ### Measurement modules (R192–R195) -/

/-- One step of the LFSR (R192). -/
def lfsrStep (s : Nat) : Nat := if s % 2 = 1 then Nat.xor (s / 2) 0x80200003 else s / 2

def lfsrN : Nat → Nat → Nat
  | 0, s => s
  | n + 1, s => lfsrN n (lfsrStep s)

/-- The sum of the next four states, as signed integers, and the state after them. -/
def whiteSum (s : Nat) : Int × Nat :=
  let a := lfsrStep s
  let b := lfsrStep a
  let c := lfsrStep b
  let d := lfsrStep c
  (sext 32 a + sext 32 b + sext 32 c + sext 32 d, d)

/-- The gain of the white option in Q2.30: round(2^30 × (√3 / 16) × 10^(L / 20)), L in units of 1/256 dB (R192). -/
def whiteGain (level : Int) : Int := asr (fxMul fxSqrt3 (fxDb level 256) + 2 ^ 69) 70

/-- The pink-filtered sum at position j of a sequence: the filter's response over the white sums so far (R192). -/
def pinkSum (rate seed j : Nat) : Int :=
  asr ((List.range (j + 1)).foldl (fun a k => a + Config.pinkCoef rate k * (whiteSum (lfsrN (4 * (j - k)) seed)).1) 0) 30

/-- The noise generator (R192). The state after p steps is remembered with p, and recomputed from the seed
when an earlier position is asked for, as a replay does. -/
def Hw.runNoise (h : Hw) (key outBuf seed : Nat) (isPink : Bool) (level : Int) (n0 : Nat) : Hw :=
  let p := 4 * (h.epoch.t - n0)
  let mem := h.mods.noise.get 0 key
  let (p0, s0) := (mem / 2 ^ 32, mem % 2 ^ 32)
  let s := if mem != 0 && p0 ≤ p then lfsrN (p - p0) s0 else lfsrN p seed
  let rate := h.deal.rate.val
  let gain : Int := if isPink then (Config.pinkGain rate level : Int) else whiteGain level
  let (y, _) := (List.range h.bs).foldl (fun (a : List Int × Nat) k =>
    let (w, s) := whiteSum a.2
    let v := if isPink then pinkSum rate seed (h.epoch.t + k - n0) else w
    (a.1 ++ [satH (asr (v * gain + 536870912) 30)], s)) ([], s)
  let m := h.mods
  let h := { h with mods := { m with noise := m.noise.put key (p * 2 ^ 32 + s) } }
  h.setBuf outBuf y

/-- The phase of sample j of a sweep in turns, its fraction with 96 fractional bits (R193):
f1 · T / (fs · ln(f2 / f1)) · (e^((j / T) · ln(f2 / f1)) − 1). -/
def sweepPhase (fs f1 f2 T j : Nat) : Int :=
  let ln := fxLn f2 - fxLn f1
  (f1 * T : Nat) * (fxExp (ln * (j : Int) / (T : Int)) - fxOne) * fxOne / ((fs : Int) * ln) % fxOne

/-- Sample j of a sweep of a peak level, in units of 1/256 dBFS, with its raised-cosine fades of 5 ms (R193, R549). -/
def sweepSample (fs f1 f2 T : Nat) (level : Int) (j : Nat) : Int :=
  let F := ceilDiv (5 * fs) 1000
  let x := fxMul (fxDb level 256) (sinTurn (sweepPhase fs f1 f2 T j))
  let w := if j < F then fadeIn F j else if T < j + F then fadeOut F (j + F - T) else 16777216
  satH (asr (asr (x * (w : Int)) 24) 68 + b2n (Config.sweepUp j))

/-- The settings that R193 allows a sweep: k = 14–22 and 10 Hz ≤ f1 < f2 ≤ 0.45 fs. -/
def sweepOk (fs f1 f2 k : Nat) : Bool :=
  decide (14 ≤ k) && decide (k ≤ 22) && decide (10 ≤ f1) && decide (f1 < f2) && decide (100 * f2 ≤ 45 * fs)

/-- The sweep generator (R193): silent before its start, and after its end unless it repeats. -/
def Hw.runSweep (h : Hw) (outBuf f1 f2 k : Nat) (level : Int) (start : Nat) (rep : Bool) : Hw :=
  let T := 2 ^ k
  h.setBuf outBuf ((List.range h.bs).map (fun i =>
    let n := h.epoch.t + i
    if n < start || (!rep && n ≥ start + T) then 0
    else sweepSample h.fs f1 f2 T level ((n - start) % T)))

/-! ### The transfer measurement (R194, R195) -/

/-- The transfer module takes the epoch's samples; they join its frame once the epoch has resolved. -/
def Hw.runTransfer (h : Hw) (key refBuf measBuf : Nat) : Hw :=
  let m := h.mods
  let x := m.xfer.get {} key
  { h with mods := { m with xfer := m.xfer.put key { x with pendRef := h.buf refBuf, pendMeas := h.buf measBuf } } }

/-- A complex number in fixed point. -/
abbrev Fx := Int × Int

def fxCMul (a b : Fx) : Fx := (fxMul a.1 b.1 - fxMul a.2 b.2, fxMul a.1 b.2 + fxMul a.2 b.1)

/-- The transform of 2^g points in fixed point; `inv` conjugates the twiddle factors and does not scale. -/
def fxFft (inv : Bool) : Nat → List Fx → List Fx
  | 0, xs => xs
  | g + 1, xs =>
    let pick := fun (r : Nat) => (xs.zipIdx.filter (fun e => e.2 % 2 = r)).map (·.1)
    let even := fxFft inv g (pick 0)
    let odd := (fxFft inv g (pick 1)).zipIdx.map (fun e =>
      let u := (e.2 : Int) * fxOne / (2 ^ (g + 1) : Int)
      fxCMul (cosTurn u, if inv then sinTurn u else -sinTurn u) e.1)
    let add := fun (a b : Fx) => (a.1 + b.1, a.2 + b.2)
    let sub := fun (a b : Fx) => (a.1 - b.1, a.2 - b.2)
    List.zipWith add even odd ++ List.zipWith sub even odd

/-- A frame of 2^k samples under a Hann window. -/
def hann (k : Nat) (x : List Int) : List Fx :=
  x.zipIdx.map (fun e => (e.1 * (fxOne - cosTurn ((e.2 : Int) * fxOne / (2 ^ k : Int))) / 2, 0))

/-- The spectra of one frame (R194). -/
def xferBins (k : Nat) (ref meas : List Int) : List XferBin :=
  let x := fxFft false k (hann k ref)
  let y := fxFft false k (hann k meas)
  let sq := fun (a b : Int) => asr (a * b) 160
  (List.zipWith (fun (a b : Fx) => (⟨sq a.1 a.1 + sq a.2 a.2, sq b.1 b.1 + sq b.2 b.2,
    sq a.1 b.1 + sq a.2 b.2, sq a.1 b.2 - sq a.2 b.1⟩ : XferBin)) x y).take (2 ^ (k - 1) + 1)

def XferBin.map2 (f : Int → Int → Int) (a b : XferBin) : XferBin := ⟨f a.xx b.xx, f a.yy b.yy, f a.re b.re, f a.im b.im⟩

/-- A new frame enters the average: the last `frames` of them, or the exponential mean of time constant tau ms over the hop of
half a frame (R194; DESIGN CHOICE, log entry 67). -/
def xferAverage (fs k frames tau : Nat) (old : List (List XferBin)) (new : List XferBin) : List (List XferBin) :=
  if tau = 0 then (new :: old).take (max frames 1)
  else
    match old with
    | [] => [new]
    | a :: _ =>
      let keep := fxExp (-((2 ^ (k - 1) * 1000 : Nat) : Int) * fxOne / ((fs * tau : Nat) : Int))
      [List.zipWith (XferBin.map2 (fun p q => q + fxMul (p - q) keep)) a new]

/-- The averaged spectra of a measurement. -/
def XferSt.average (x : XferSt) : List XferBin :=
  match x.spectra with
  | [] => []
  | a :: t => t.foldl (fun s f => List.zipWith (XferBin.map2 (· + ·)) s f) a

/-- The samples of a resolved epoch join the frame (R195): a frame with a squashed epoch or a concealed
consumed block is dropped and counted; frames overlap by half. -/
def XferSt.commit (x : XferSt) (fs k frames tau tick : Nat) (bad : Bool) : XferSt :=
  if x.pendRef.isEmpty then x
  else
    let r := x.ref ++ x.pendRef
    let m := x.meas ++ x.pendMeas
    let isBad := x.bad || bad
    let x := { x with pendRef := [], pendMeas := [] }
    if r.length < 2 ^ k then { x with ref := r, meas := m, bad := isBad }
    else
      let rest := { x with ref := r.drop (2 ^ (k - 1)), meas := m.drop (2 ^ (k - 1)), bad := false }
      if isBad then { rest with dropped := x.dropped + 1, bad := bad }
      else { rest with frames := x.frames + 1, t64 := tick,
                       spectra := xferAverage fs k frames tau x.spectra (xferBins k (r.take (2 ^ k)) (m.take (2 ^ k))) }

/-- Every transfer module at the end of an epoch. -/
def Hw.xferCommit (h : Hw) : Hw :=
  let bad := h.epoch.outcome != 0 || h.epoch.concealed || !h.epoch.squashed.isEmpty
  h.deal.tasks.foldl (fun h t =>
    match t.module with
    | .transfer _ _ k frames tau =>
      let m := h.mods
      let key := t.core.val * 32 + t.entry.val
      { h with mods := { m with xfer := m.xfer.mod key (fun x => x.commit h.fs k frames tau h.epoch.tick bad) } }
    | _ => h) h

/-- The settings that R194 allows: k = 11–16, 1–1,024 frames or a time constant of 0.1–60 s. -/
def xferOk (k frames tau : Nat) : Bool :=
  decide (11 ≤ k) && decide (k ≤ 16)
    && (if tau = 0 then decide (1 ≤ frames) && decide (frames ≤ 1024) else decide (100 ≤ tau) && decide (tau ≤ 60000))

/-- The magnitude of a bin in Q8.8 dB: the cross spectrum over the reference's auto spectrum. -/
def XferBin.magnitude (b : XferBin) : Nat :=
  let p := (b.re * b.re + b.im * b.im).toNat
  let q := (b.xx * b.xx).toNat
  if p = 0 then 0x8000
  else if q = 0 then 0x7FFF
  else
    let d := dbPow88 p q
    if d < -32765 then 0x8000 else if d > 32767 then 0x7FFF else lowBits 16 d

/-- The greatest t in [lo, lo + 2^f) of units of 1/4096 rad at which the direction (re, im), with im ≥ 0, is not yet passed. -/
def angleSearch (re im : Int) : Nat → Nat → Nat
  | 0, lo => lo
  | f + 1, lo =>
    let mid := lo + 2 ^ f
    let x := (mid : Int) * fxOne / 4096
    let c := if 12868 ≤ mid then -fxOne else fxCos x
    let s := if 12868 ≤ mid then 0 else sinTurn ((x * fxOne / (2 * fxPi)) % fxOne)
    if im * c - re * s ≥ 0 then angleSearch re im f mid else angleSearch re im f lo

/-- The phase of a bin in Q3.12 radians, from −π to +π. -/
def XferBin.phase (b : XferBin) (up : Bool) : Nat :=
  let a : Int := (min 12867 (angleSearch b.re b.im.natAbs 14 0 + (if up then 1 else 0)) : Nat)
  lowBits 16 (if b.im < 0 then -a else a)

/-- The coherence of a bin in Q0.16. -/
def XferBin.coherence (b : XferBin) (up : Bool) : Nat :=
  let q := b.xx * b.yy
  if q ≤ 0 then 0 else min 65535 ((65536 * (b.re * b.re + b.im * b.im) / q).toNat + (if up then 1 else 0))

/-- The delay in 1/64 sample: the peak of the impulse response found by inverse transform, with parabolic interpolation between
its neighbours, within ±2^(k − 1) samples (R194). -/
def xferDelay (k : Nat) (bins : List XferBin) : Int :=
  let n := 2 ^ k
  let half := bins.map (fun b => if b.xx = 0 then ((0, 0) : Fx) else (b.re * fxOne / b.xx, b.im * fxOne / b.xx))
  let mirror := ((half.drop 1).dropLast).reverse.map (fun (c : Fx) => (c.1, -c.2))
  let ir := (fxFft true k (half ++ mirror)).map (fun (c : Fx) => ((c.1.natAbs : Nat) : Int))
  let at' := fun (i : Nat) => ir.getD (i % n) 0
  let peak := (List.range n).foldl (fun b i => if at' b < at' i then i else b) 0
  let l := at' (peak + n - 1)
  let r := at' (peak + 1)
  let den := 2 * (l - 2 * at' peak + r)
  let frac := if den = 0 then 0 else (64 * (l - r)) / den
  (if 2 * peak < n then (peak : Int) else (peak : Int) - (n : Int)) * 64 + frac

/-- The bytes of one result: 0 magnitude, 1 phase, 2 coherence of a bin, 3 the delay (R194). -/
def XferSt.result (x : XferSt) (k kind bin : Nat) : List Byte :=
  let avg := x.average
  let b := avg.getD bin ⟨0, 0, 0, 0⟩
  let up := Config.measUp kind bin
  match kind with
  | 0 => leBytes 2 b.magnitude
  | 1 => leBytes 2 (b.phase up)
  | 2 => leBytes 2 (b.coherence up)
  | _ => leBytes 4 (lowBits 32 (xferDelay k avg))

/-! ### A library task -/

/-- A library module whose law the manual bounds but does not list: its outputs are open values. -/
def Hw.runLibrary (h : Hw) (key mtype : Nat) (ins outs : List Nat) : Hw :=
  let m := h.mods
  let st := m.gen.get 0 key
  let ys := Config.libraryOut mtype (key * 2 ^ 64 + h.epoch.t) (ins.map h.buf)
  let h := { h with mods := { m with gen := m.gen.put key (st + 1) } }
  outs.zipIdx.foldl (fun h e =>
    h.setBuf e.1 ((List.range h.bs).map (fun i => satH (nthI (ys.getD e.2 []) i)))) h

/-- The module bound to entry i of core n does the work of its task. -/
def Hw.runModule (h : Hw) (n i : Nat) : Hw :=
  let key := n * 32 + i
  match h.deal.tasks.find? (fun t => t.core.val = n && t.entry.val = i) with
  | none => h
  | some t =>
    match t.module with
    | .custom => h
    | .delay inBuf _ taps _ => h.runDelay n inBuf taps
    | .fir paths part ph1 ph2 => h.runFir paths part ph1.val ph2.val (!t.streams.isEmpty)
    | .noise outBuf seed isPink level n0 => h.runNoise key outBuf seed.toNat isPink level n0
    | .sweep outBuf f1 f2 k level start rep => h.runSweep outBuf f1 f2 k level start rep
    | .transfer refBuf measBuf _ _ _ => h.runTransfer key refBuf measBuf
    | .library mtype ins outs => h.runLibrary key mtype ins outs

/-- The settings of a module are in range: a line of 1 to 1,048,575 samples (R173), a FIR of up to 4,096 taps (R179), a seed
other than 0 (R192), and the ranges of the sweep and of the measurement (R193, R194). -/
def moduleOk (fs : Nat) (m : Module) : Bool :=
  match m with
  | .custom | .library _ _ _ => true
  | .delay _ maxDelay _ _ => 1 ≤ maxDelay && maxDelay ≤ 1048575
  | .fir paths _ _ _ => paths.all (fun p => 1 ≤ p.taps && p.taps ≤ 4096)
  | .noise _ seed _ _ _ => seed != 0
  | .sweep _ f1 f2 k _ _ _ => sweepOk fs f1 f2 k
  | .transfer _ _ k frames tau => xferOk k frames tau

end Sys2Proof.Machine
end

