-- ==== Sys2Proof/Machine/RawReg.lean ====
section
/-! DEFINITION. Whole register words: which register stands at an address, its word as the fields hold it,
and storing a word into the fields without the access rules or side effects of a bus write. -/

namespace Sys2Proof.Machine

/-- What is left of an offset after the indices of an array's dimensions. -/
def dimRest : List (Nat × Nat) → Nat → Option Nat
  | [], r => some r
  | (n, s) :: t, r => if r / s < n then dimRest t (r % s) else none

/-- Register descriptor d covers address a. -/
def regCovers (d : RegD) (a : Nat) : Bool :=
  decide (d.base ≤ a) && dimRest d.dims (a - d.base) == some 0

/-- The register at a word address. -/
def regAt (a : Nat) : Option RegD := (RegMap.ofBlock a).find? (fun d => regCovers d a)

/-- The reset value of a field at an address: XBAR_PRIO and FAULT_CLASS.pin differ by index. -/
def rstAt (a : Nat) (f : FieldD) : Nat :=
  if inRange a 0x40010100 0x40010160 && f.lo = 0 then xbarPrioReset ((a - 0x40010100) / 4)
  else if inRange a 0x400D0400 0x400D07FC && f.lo = 3 then faultPinReset ((a - 0x400D0400) / 4)
  else f.rst

/-- A field descriptor at an address as a field. -/
def fieldRF (a : Nat) (f : FieldD) : RF := ⟨a, f.lo, f.w, rstAt a f⟩

/-- The fields of the register at an address. -/
def fieldsAt (a : Nat) : List (RF × Access) :=
  match regAt a with
  | some d => d.fields.map (fun f => (fieldRF a f, f.acc))
  | none => []

/-- The stored word of a register. -/
def Hw.rawRead (h : Hw) (a : Nat) : Nat :=
  (fieldsAt a).foldl (fun w f => w + h.g f.1 * 2 ^ f.1.lo) 0

/-- Store a word into the fields of a register. -/
def Hw.rawWrite (h : Hw) (a w : Nat) : Hw :=
  (fieldsAt a).foldl (fun h f => h.p f.1 (w / 2 ^ f.1.lo)) h

/-- Store a list of words (the deal's shadow lists and switch values). -/
def Hw.rawWrites (h : Hw) (ws : List (Nat × Word)) : Hw :=
  ws.foldl (fun h e => h.rawWrite e.1 e.2.toNat) h

end Sys2Proof.Machine
end

