-- ==== Sys2Proof/Machine/RegRead.lean ====
section
/-! DEFINITION. What a read of a register returns (R5, R6, R266), with the parts of the state that registers show. -/

namespace Sys2Proof.Machine

/-- Bytes of the one-time memory (R507). -/
def rdOtp (h : Hw) (a n : Nat) : List Byte := (List.range n).map (fun i => h.otp.get 0 (a + i))

/-- The bits set in bytes. -/
def popBytes (bs : List Byte) : Nat :=
  (bs.map (fun b => ((List.range 8).filter (fun i => b.getLsbD i)).length)).sum

/-- The OTP rollback value (R505). -/
def Hw.rollback (h : Hw) : Nat := popBytes (rdOtp h 0x50 8)

/-- The device serial (R507). -/
def Hw.serial (h : Hw) : List Byte := (List.range 16).map (fun i => h.otp.get 0 i)

/-- Length of the mute fade: round(fs / 1,000). -/
def muteF (fs : Nat) : Nat := (fs + 500) / 1000

/-- Mute is in force (R240). -/
def Hw.muteOn (h : Hw) : Bool := h.b Reg.HOST_MUTE_mute || !h.pins.muteN

/-- Every sink is held at zero: mute, engine safe state (R466), or a re-time (R341). -/
def Hw.sinksOff (h : Hw) : Bool := h.muteOn || h.flt.safe || h.time.retPhase == 2 || h.time.retPhase == 3

/-- The current role epoch (R367). -/
def Hw.roleEpoch (h : Hw) : Nat := h.table.epoch

/-! ### Reads (R5, R6, R266) -/

/-- Every sink is at zero (R239, R240). -/
def Hw.allMuted (h : Hw) : Bool :=
  let quiet := fun (m : MuteSt) => m.muting && decide (muteF h.fs ≤ m.pos)
  h.kout.all (fun (e : Nat × OutKitty) => quiet e.2.mute)
    && h.sill.amps.all (fun (e : Nat × AmpSt) => e.2.step = .off || quiet e.2.mute)

/-- The exits from the fault state in the last 60 minutes, as FAULT_RECOV shows them (R479, R482). -/
def Hw.exitsInHour (h : Hw) : Nat := min 15 (h.flt.exits.filter (fun x => h.t64 < x + 3600000000000)).length

/-- The word of the register at an address: what its fields hold, or what the spec has it show. -/
def Hw.regRead (h : Hw) (a : Nat) : Nat :=
  match a with
  | 0x40000004 => h.rawRead a + 128 * h.g Reg.SYS_DEBUG_unlocked
  | 0x40030008 | 0x400F0040 => h.t64 % 2 ^ 32
  | 0x4003000C | 0x400F0044 => h.t64 / 2 ^ 32 % 2 ^ 32
  | 0x40030010 => h.sub / 2 ^ 32 % 2 ^ 16
  | 0x400F0008 => h.roleEpoch % 2 ^ 32
  | 0x400F0030 => h.g Reg.HOST_MUTE_mute + 2 * b2n (h.sinksOff && h.allMuted) + 4 * b2n (!h.pins.muteN)
  | 0x400F0034 => h.g Reg.AMP_MASTER_EN_en + 2 * b2n (!h.pins.ampOffN)
  | 0x400C3000 => h.gpioIn
  | 0x400D000C => (h.p Reg.FAULT_RECOV_in_hour h.exitsInHour).rawRead a
  | 0x40210020 => h.rollback % 128
  | _ =>
    if inRange a 0x400C0000 0x400C1FFF && !multiplexed ((a - 0x400C0000) / 4) then 0
    else if inRange a 0x40210010 0x4021001F && a % 4 = 0 then leNat ((h.serial.drop (a - 0x40210010)).take 4)
    else if inRange a 0x40070100 0x4007023F && a % 0x40 = 0x0C then 0
    else h.rawRead a

end Sys2Proof.Machine
end

