-- ==== Sys2Proof/Machine/TrussOps.lean ====
section
/-! DEFINITION. The truss core as a machine: traps (R97), tasks and their list (R83–R89), checkpoints
(R92–R96), memory slots (R65–R77), loops and control operations (R78–R80, R132), and the decoding of a
64-bit bundle (R80, R124–R133). -/

namespace Sys2Proof.Machine

/-! ### Trap causes (R97) -/

def tIllegal : Nat := 0x01
def tAddr : Nat := 0x02
def tEccLocal : Nat := 0x03
def tEccBent : Nat := 0x04
def tLoop : Nat := 0x05
def tCkpt : Nat := 0x06
def tOverrun : Nat := 0x07
def tBudget : Nat := 0x08
def tFar : Nat := 0x09
def tSoft : Nat := 0x0A
def tBrk : Nat := 0x0B

/-- TRUSS_STATUS.state and the awake bit of the bent follow what the core does (R101, R104). -/
def Hw.setRun (h : Hw) (n state : Nat) : Hw :=
  (h.p (Reg.TRUSS_STATUS_state n) state).setBit (Reg.TRUSS_BENT_STAT_awake (n / 5)) (n % 5) (state == 2)

def Hw.modCore (h : Hw) (n : Nat) (f : Truss → Truss) : Hw := h.setCore n (f (h.core n))

/-- Index of the running or last entry. -/
def Hw.taskOf (h : Hw) (n : Nat) : Nat := h.g (Reg.TRUSS_STATUS_task n)

/-- Record a run of an entry: TRUSS_RUN_CYC is the longest of its last 16 (R89). -/
def Hw.recordRun (h : Hw) (n i cyc : Nat) : Hw :=
  let c := h.core n
  let runs := (cyc :: c.runs.get [] i).take 16
  (h.setCore n { c with runs := c.runs.put i runs }).p (Reg.TRUSS_RUN_CYC_max_cyc n i)
    (runs.foldl Nat.max 0)

/-- A trap is recorded and reported, and the core acts by its cause (R97): it stops, halts at BRK, or goes
on at FAR_ERR and TASK_BUDGET. A run that a trap ends is recorded (R89). -/
def Hw.trap (h : Hw) (n cause : Nat) : Hw :=
  let c := h.core n
  let task := h.taskOf n
  let h := ((((h.p (Reg.TRUSS_TRAP_cause n) cause).p (Reg.TRUSS_TRAP_task n) task).s1
    (Reg.TRUSS_TRAP_valid n)).p (Reg.TRUSS_TRAP_PC_pc n) c.pc)
  let h := (h.p (Reg.TRUSS_TRAP_T64_LO_t64 n) h.t64).p (Reg.TRUSS_TRAP_T64_HI_t64 n) (h.t64 / 2 ^ 32)
  let h := h.raise n cause (cause + c.pc * 2 ^ 5 + task * 2 ^ 19 + n * 2 ^ 24)
  if cause = tFar || cause = tBudget then h
  else if cause = tBrk then (h.modCore n (fun c => { c with halted := true })).setRun n 3
  else
    let h := match c.entry with
      | some i => h.recordRun n i c.cycles
      | none => h
    (h.modCore n (fun c => { c with trapped := true })).setRun n 3

/-! ### Task list entries (R103) -/

structure TlEntry where
  pc : Nat
  laneLo : Nat
  laneHi : Nat
  spec : Bool
  enable : Bool
  signalEn : Bool
  waitEn : Bool
  param : Nat
  waitFlag : Nat
  signalFlag : Nat
  div : Nat
  phase : Nat
  budget : Nat
  ckptBase : Nat
  ckptLen : Nat
deriving DecidableEq, Repr

/-- Entry i of the active task list of core n. -/
def Hw.tlEntry (h : Hw) (n i : Nat) : TlEntry :=
  { pc := h.g (Reg.TRUSS_TL_ACT0_entry_pc n i)
    laneLo := h.g (Reg.TRUSS_TL_ACT0_lane_lo n i)
    laneHi := h.g (Reg.TRUSS_TL_ACT0_lane_hi n i)
    spec := h.b (Reg.TRUSS_TL_ACT0_spec n i)
    enable := h.b (Reg.TRUSS_TL_ACT0_enable n i)
    signalEn := h.b (Reg.TRUSS_TL_ACT0_signal_en n i)
    waitEn := h.b (Reg.TRUSS_TL_ACT0_wait_en n i)
    param := h.g (Reg.TRUSS_TL_ACT1_param n i)
    waitFlag := h.g (Reg.TRUSS_TL_ACT1_wait_flag n i)
    signalFlag := h.g (Reg.TRUSS_TL_ACT1_signal_flag n i)
    div := h.g (Reg.TRUSS_TL_ACT1_div_m1 n i) + 1
    phase := h.g (Reg.TRUSS_TL_ACT1_phase n i)
    budget := h.g (Reg.TRUSS_TL_ACT2_budget n i)
    ckptBase := h.g (Reg.TRUSS_TL_ACT3_ckpt_base n i)
    ckptLen := h.g (Reg.TRUSS_TL_ACT3_ckpt_len n i) }

/-- The word pairs that a task list swap exchanges. -/
def tlPairs (n i : Nat) : List (RF × RF) :=
  [(Reg.TRUSS_TL_ACT0_entry_pc n i, Reg.TRUSS_TL_SHD0_entry_pc n i),
   (Reg.TRUSS_TL_ACT0_lane_lo n i, Reg.TRUSS_TL_SHD0_lane_lo n i),
   (Reg.TRUSS_TL_ACT0_lane_hi n i, Reg.TRUSS_TL_SHD0_lane_hi n i),
   (Reg.TRUSS_TL_ACT0_spec n i, Reg.TRUSS_TL_SHD0_spec n i),
   (Reg.TRUSS_TL_ACT0_enable n i, Reg.TRUSS_TL_SHD0_enable n i),
   (Reg.TRUSS_TL_ACT0_signal_en n i, Reg.TRUSS_TL_SHD0_signal_en n i),
   (Reg.TRUSS_TL_ACT0_wait_en n i, Reg.TRUSS_TL_SHD0_wait_en n i),
   (Reg.TRUSS_TL_ACT1_param n i, Reg.TRUSS_TL_SHD1_param n i),
   (Reg.TRUSS_TL_ACT1_wait_flag n i, Reg.TRUSS_TL_SHD1_wait_flag n i),
   (Reg.TRUSS_TL_ACT1_signal_flag n i, Reg.TRUSS_TL_SHD1_signal_flag n i),
   (Reg.TRUSS_TL_ACT1_div_m1 n i, Reg.TRUSS_TL_SHD1_div_m1 n i),
   (Reg.TRUSS_TL_ACT1_phase n i, Reg.TRUSS_TL_SHD1_phase n i),
   (Reg.TRUSS_TL_ACT2_budget n i, Reg.TRUSS_TL_SHD2_budget n i),
   (Reg.TRUSS_TL_ACT3_ckpt_base n i, Reg.TRUSS_TL_SHD3_ckpt_base n i),
   (Reg.TRUSS_TL_ACT3_ckpt_len n i, Reg.TRUSS_TL_SHD3_ckpt_len n i)]

/-- The shadow list of core n becomes active, and the active one the shadow (R84). -/
def Hw.tlSwap (h : Hw) (n : Nat) : Hw :=
  let h := (List.range 32).foldl (fun h i => h.swapF (tlPairs n i)) h
  (h.p (Reg.TRUSS_TL_SWAP_act_sel n) (1 - h.g (Reg.TRUSS_TL_SWAP_act_sel n))).s0
    (Reg.TRUSS_TL_SWAP_swap_req n)

/-- A checkpoint layout that breaks R92: outside words 0–255, or overlapping. Only enabled entries with a segment are tested: a
disabled entry never runs (DESIGN CHOICE, log entry 65). -/
def ckptBad (es : List TlEntry) : Bool :=
  let segs := (es.filter (fun e => e.enable && e.ckptLen != 0)).map
    (fun e => (e.ckptBase, e.ckptBase + e.ckptLen))
  let rec overlap : List (Nat × Nat) → Bool
    | [] => false
    | s :: t => t.any (fun u => s.1 < u.2 && u.1 < s.2) || overlap t
  segs.any (fun s => s.2 > 256) || overlap segs

/-! ### Checkpoints (R92–R96) -/

/-- Copy `len` lane-store words of core n from word `src` to word `dst`, in all 32 lanes, whatever the entry's lane range
(DESIGN CHOICE, log entry 65). -/
def Hw.lsCopy (h : Hw) (n src dst len : Nat) : Hw :=
  (List.range 32).foldl (fun h j =>
    (List.range len).foldl (fun h w =>
      h.wr32 (spaceByte n .ls j (dst + w)) (h.rd32 (spaceByte n .ls j (src + w)))) h) h

/-- The snapshot of an entry's segment, as it stands when the run's background copy is complete (R93). -/
def Hw.ckptSave (h : Hw) (n : Nat) (e : TlEntry) : Hw :=
  if e.ckptLen = 0 then h else h.lsCopy n e.ckptBase (e.ckptBase + 256) e.ckptLen

/-- The restore of an entry's segment (R94). -/
def Hw.ckptRestore (h : Hw) (n i : Nat) : Hw :=
  let e := h.tlEntry n i
  if e.ckptLen = 0 then h else h.lsCopy n (e.ckptBase + 256) e.ckptBase e.ckptLen

/-! ### Tasks (R64, R83–R89) -/

/-- The lane mask of a range; an empty range gives 0 (R103). -/
def laneMask (lo hi : Nat) : Word :=
  if hi < lo then 0 else BitVec.ofNat 32 ((2 ^ (hi - lo + 1) - 1) * 2 ^ lo)

/-- Sync flag f is set in the epoch (R85). -/
def Hw.flag (h : Hw) (f : Nat) : Bool := h.bit Reg.TRUSS_SYNC_flag f

/-- Set a sync flag; flag 0 is also shown in JOIN_STATUS.flag0. -/
def Hw.setFlag (h : Hw) (f : Nat) : Hw :=
  let h := h.setBit Reg.TRUSS_SYNC_flag f true
  if f = 0 then h.s1 Reg.JOIN_STATUS_flag0 else h

/-- The code of R58 of a cause; 42 and 43 stand for its code 4 (by R49 or R96, and by R47). -/
def causeCode (c : Nat) : Nat := if 40 ≤ c then 4 else c

/-- The lower of two causes, 0 standing for none (R58). -/
def lowerCause (a b : Nat) : Nat :=
  if a = 0 then b else if b = 0 then a else if causeCode b < causeCode a then b else a

/-- The epoch's block of a kitty is concealed for a reason of R58 (DEDUCED, log entry 36). -/
def Hw.loseOut (h : Hw) (kid code : Nat) : Hw :=
  let e := h.epoch
  { h with
    epoch := { e with lost := (kid, code) :: e.lost }
    kout := h.kout.mod kid (fun o => { o with slots := o.slots.map (fun x =>
      if x.2.epoch = e.t then (x.1, { x.2 with cause := lowerCause x.2.cause code }) else x) }) }

/-- The outputs of a task of the epoch are concealed: the blocks of this epoch in its output kitties carry
cause 0x08 of R58. -/
def Hw.concealTask (h : Hw) (n i cause : Nat) : Hw :=
  ((h.deal.tasks.filter (fun t => t.core.val = n && t.entry.val = i)).flatMap (·.outKitties)).foldl
    (fun h k => h.loseOut k cause) h

/-- The end of a task, whatever its reason but a fence: its signal flag is set (R85), its run recorded. -/
def Hw.endTask (h : Hw) (n : Nat) : Hw :=
  let c := h.core n
  match c.entry with
  | none => h
  | some i =>
    let e := h.tlEntry n i
    let h := h.recordRun n i c.cycles
    let h := h.modCore n (fun c => { c with entry := none, loops := [], ended := c.ended ++ [i] })
    let h := if c.replay.any (fun k => c.due.contains k) || !c.redo.isEmpty then h else h.s0 (Reg.TRUSS_STATUS_replaying n)
    if e.signalEn && e.signalFlag != 0 then h.setFlag e.signalFlag else h

/-- The first bundle of a task: R64, R93. -/
def Hw.beginTask (h : Hw) (n i : Nat) : Hw :=
  let e := h.tlEntry n i
  let h := (h.p (Reg.TRUSS_STATUS_task n) i).setRun n 2
  let h := h.modCore n (fun c =>
    ({ c with entry := some i, pc := e.pc, loops := [], st := 0x0000FF00, cycles := 0, farErrs := [],
              due := c.due.filter (· != i) }.pp 0 (BitVec.ofNat 32 e.param)).qp 0 (laneMask e.laneLo e.laneHi))
  h.ckptSave n e

/-- The core sleeps: its pipeline clock stops until the next tick, or while its next entry waits (R85, R86, R101). -/
def Hw.sleepCore (h : Hw) (n : Nat) : Hw := h.setRun n 1

/-- A halt request takes effect at a bundle boundary of a running task while the debug window is unlocked (R100). -/
def Hw.haltDue (h : Hw) (n : Nat) : Hw :=
  let c := h.core n
  if h.b (Reg.TRUSS_CTRL_halt_req n) && h.b Reg.SYS_DEBUG_unlocked && c.entry.isSome && !c.trapped && !c.halted then
    (h.modCore n (fun c => { c with halted := true })).setRun n 3
  else h

/-- TASK_BUDGET of the entry that began: the ticks of the last 16 are kept, its outputs are concealed, and the task ends
(R88, R97). -/
def Hw.budgetEnd (h : Hw) (n i : Nat) : Hw :=
  let h := h.modCore n (fun c =>
    { c with budgetTicks := (h.epoch.n :: c.budgetTicks).filter (fun k => h.epoch.n < k + 16) })
  ((h.concealTask n i 8).trap n tBudget).endTask n

/-- The restores of a replay that waited for this core: the segments of the started affected tasks are restored, and the tasks
run again in list order (R94, R95). -/
def Hw.redoStart (h : Hw) (n : Nat) : Hw :=
  let rs := (h.core n).redo
  if rs.isEmpty then h
  else
    (rs.foldl (fun h i => h.ckptRestore n i) h).modCore n (fun c =>
      { c with due := (List.range 32).filter (fun i => c.due.contains i || rs.contains i),
               replay := (c.replay ++ rs).dedup, redo := [] })

/-- Start the next due entry when its flag is set or it does not wait; a budget of 0 stops the task before
its first bundle (R85, R86, R88). No task starts while the bent's clock is stopped for a retune (R91). -/
def Hw.startNext : Nat → Hw → Nat → Hw
  | 0, h, _ => h
  | f + 1, h, n =>
    let c := h.core n
    if c.entry.isSome || c.trapped || c.halted then h
    else if !h.b (Reg.TRUSS_CTRL_run_en n) || (h.rail (n / 5)).retune.isSome then h.sleepCore n
    else
      let h := h.redoStart n
      match (h.core n).due with
      | [] => h.sleepCore n
      | i :: _ =>
        let e := h.tlEntry n i
        if e.waitEn && !h.flag e.waitFlag then h.sleepCore n
        else
          let h := h.beginTask n i
          if e.budget = 0 then Hw.startNext f (h.budgetEnd n i) n else h.haltDue n

/-- The library module of the running task has done its work when the task ends (DESIGN CHOICE, log entry 16). -/
def Hw.taskModule (h : Hw) (n : Nat) : Hw :=
  match (h.core n).entry with
  | some i => h.runModule n i
  | none => h

/-- SLEEP executes: the task ends, and the next due entry starts (R86). -/
def Hw.taskSleep (h : Hw) (n : Nat) : Hw := Hw.startNext 33 ((h.taskModule n).endTask n) n

/-- The running task has used its budget: it is stopped at the bundle boundary, its outputs concealed, and
the core goes on to the next entry (R88). -/
def Hw.budgetStop (h : Hw) (n : Nat) : Hw :=
  match (h.core n).entry with
  | none => h
  | some i => Hw.startNext 33 (h.budgetEnd n i) n

/-! ### Bundles -/

/-- A far access that the address map refuses ends with an error response, and so does a write through a remote window (R73,
R275, R294). -/
def Hw.farBad (h : Hw) (n : Nat) (write : Bool) (a : Nat) : Bool :=
  match h.place n false a with
  | .mem _ => false
  | .rom _ => false
  | .remote _ _ => write
  | .reg _ => false
  | _ => true

/-- What a FAR load reads at an address; a remote read takes the lane's free value (log entry 25). -/
def Hw.farWord (h : Hw) (n lane a : Nat) : Word :=
  match h.place n false a with
  | .mem a => h.rd32 a
  | .rom o => BitVec.ofNat 32 (leNat ((List.range 4).map (fun k => Config.bootRom (o + k))))
  | .remote _ _ => BitVec.ofNat 32 (Config.freeValue (h.fresh - 32 + lane))
  | .reg b => BitVec.ofNat 32 (h.regRead b)
  | _ => 0

/-- The data of a pending load arrive, as zeros after an error response (R73). -/
def Hw.arrive (h : Hw) (n : Nat) (p : PendLoad) (zero : Bool) : Hw :=
  let remote := p.lanes.any (fun e => match h.place n false e.2 with
    | .remote _ _ => true
    | _ => false)
  let h := if remote then { h with fresh := h.fresh + 32 } else h
  h.modCore n (fun c =>
    { (p.lanes.foldl (fun t e => t.vp p.v e.1 (if zero then 0 else h.farWord n e.1 e.2)) c) with
      pend := c.pend.filter (· != p) })

/-- Pending loads whose register a bundle uses complete before it, and all of them before a bundle that stores, so that every
access keeps program order (R73, R82; DESIGN CHOICE, log entry 25). -/
def Hw.interlock (h : Hw) (n : Nat) (all : Bool) (vs : List Nat) : Hw :=
  ((h.core n).pend.filter (fun p => all || vs.contains p.v)).foldl (fun h p => h.arrive n p false) h

/-- The loop stack at the end of the bundle at pc: the innermost level is counted first, and a level that has run out is
popped (R78, R79). -/
def stepLoops : Nat → List LoopLevel → Option Nat × List LoopLevel
  | _, [] => (none, [])
  | pc, l :: t =>
    if l.stop = pc then
      if l.count ≤ 1 then stepLoops pc t
      else (some l.start, { l with count := l.count - 1 } :: t)
    else (none, l :: t)

/-- The bundle boundary after an operation (R78, R88, R100): the next bundle, the budget, and a halt request. A bundle that
jumps counts no loop: a taken branch in a loop's end bundle, and the jump of LEXIT or of a LOOP with count 0 past an end bundle
that an outer level shares (DESIGN CHOICE, log entry 65). -/
def Hw.boundary (h : Hw) (n : Nat) (jump : Option Nat) : Hw :=
  let c := h.core n
  if c.trapped then h
  else
    let c' := match jump with
      | some t => { c with pc := t % 16384 }
      | none =>
        let (j, ls) := stepLoops c.pc c.loops
        { c with pc := (j.getD (c.pc + 1)) % 16384, loops := ls }
    let h := h.setCore n { c' with cycles := c'.cycles + 1 }
    match c'.entry with
    | some i => if (h.tlEntry n i).budget ≤ c'.cycles + 1 then h.budgetStop n else h.haltDue n
    | none => h

/-! ### Memory slots -/

/-- An access of a memory slot, read from the registers as they stand before the bundle: the active lanes with their
addresses, and the pointer after post-modify (R65, R69, R74, R77). -/
structure MemAccess where
  store : Bool
  op : MemOp
  lanes : List (Nat × Nat)
  next : Word
deriving DecidableEq, Repr

def Truss.access (c : Truss) (m : Bool × MemOp) : MemAccess :=
  let o := m.2
  let md := (ptrMode (c.lg o.ptr)).getD .linear
  { store := m.1
    op := o
    lanes := (c.active 0).map (fun i => (i, c.laneAddr o md i))
    next := if o.post = .none then c.pg o.ptr else ptrPost md (c.pg o.ptr) (c.postAmount o.post) }

/-- R66 of an access. A lane that Q0 masks makes no access, so its address is not tested (DESIGN CHOICE, log entry 65). -/
def MemAccess.ok (a : MemAccess) : Bool := a.lanes.all (fun e => a.op.space.ok e.2)

/-- The error responses of a far access (R73, R280). -/
def Hw.farErrors (h : Hw) (n : Nat) (a : MemAccess) : Hw :=
  (a.lanes.filter (fun e => h.farBad n a.store e.2)).foldl (fun h e =>
    h.accErr (if h.place n false e.2 = .gated then kTimeout else kDecode) e.2 a.store 2 n) h

/-- A FAR load ended with an error response: its elements read as zero, and FAR_ERR is raised (R73, R191). -/
def Hw.farLost (h : Hw) (n : Nat) (p : PendLoad) : Hw :=
  ((h.modCore n (fun c => { c with farErrs := c.farErrs ++ p.lanes.map (·.2) })).arrive n p true).trap n tFar

/-- An ECC error in what a load reads (R97, R480; DEDUCED, log entry 56): corrected, or the trap of the memory; true in the
second part where the load's data are lost. A far read ends with an error response, which `load` answers. -/
def Hw.loadEcc (h : Hw) (n : Nat) (a : MemAccess) (ecc : Option Bool) : Hw × Bool :=
  match ecc, a.lanes with
  | some d, (i, w) :: _ =>
    if a.op.space = .far then
      match h.place n false w with
      | .mem b => (h.eccEvent b d, d)
      | _ => (h, false)
    else
      let h := h.eccEvent (spaceByte n a.op.space i w) d
      if d then (h.trap n (if a.op.space = .bent then tEccBent else tEccLocal), true) else (h, false)
  | _, _ => (h, false)

/-- A load: what the lanes read goes to the V register, or is left pending where FAR data may arrive later (R65–R69, R73). With
`now` the bundle itself needs the data. -/
def Hw.load (h : Hw) (n : Nat) (a : MemAccess) (now : Bool) (ecc : Option Bool) : Hw :=
  let (h, lost) := h.loadEcc n a ecc
  if a.op.space = .far then
    let p : PendLoad := ⟨a.op.v, a.lanes⟩
    let bad := a.lanes.any (fun e => h.farBad n false e.2)
    if bad || lost then (h.farErrors n a).farLost n p
    else if now then h.arrive n p false
    else h.modCore n (fun c => { c with pend := c.pend ++ [p] })
  else if lost then h
  else
    let vals := a.lanes.map (fun e => (e.1, h.rd32 (spaceByte n a.op.space e.1 e.2)))
    h.modCore n (fun c => vals.foldl (fun t e => t.vp a.op.v e.1 e.2) c)

/-- A word store that passed its checks. -/
def Hw.storeWord (h : Hw) (n : Nat) (s : Space) (i a : Nat) (w : Word) : Hw :=
  if s = .far then
    match h.place n false a with
    | .mem b => h.wr32 b w
    | .reg b => { h with posted := h.posted ++ [(n, b, w)] }
    | _ => h
  else h.wr32 (spaceByte n s i a) w

/-- The lanes of a store in the order their words land: the manual gives none where two lanes address one
word, so an open value turns the order (DESIGN CHOICE, log entry 12). -/
def Hw.storeOrder (h : Hw) (lanes : List (Nat × Nat)) : List (Nat × Nat) × Hw :=
  if (lanes.map (·.2)).dedup.length = lanes.length then (lanes, h)
  else let (v, h) := h.draw; (lanes.rotateLeft (v % 32), h)

/-- A store of `data`; a far store with an error response raises FAR_ERR (R73, R294). -/
def Hw.store (h : Hw) (n : Nat) (a : MemAccess) (data : Nat → Word) : Hw :=
  let (ord, h) := if a.op.space = .ls then (a.lanes, h) else h.storeOrder a.lanes
  let h := ord.foldl (fun h e => h.storeWord n a.op.space e.1 e.2 (data e.1)) h
  if a.op.space = .far && a.lanes.any (fun e => h.farBad n true e.2) then (h.farErrors n a).trap n tFar else h

/-- V registers a memory slot reads for its addresses. -/
def MemOp.reads (o : MemOp) : List Nat :=
  match o.pattern with
  | .indexed v => [v]
  | _ => []

/-- An immediate bundle (R133); destination codes 0x30–0x3F are reserved. -/
def Hw.opImm (h : Hw) (n : Nat) (dest : Nat) (imm : Word) : Hw :=
  if dest < 0x10 then (h.modCore n (fun c => c.pp dest imm)).boundary n none
  else if dest < 0x20 then (h.modCore n (fun c => c.mp (dest - 0x10) imm)).boundary n none
  else if dest < 0x30 then (h.modCore n (fun c => c.lp (dest - 0x20) imm)).boundary n none
  else h.trap n tIllegal

/-! ### Control operations (R78, R79, R132) -/

/-- The condition of B; none for a reserved code. -/
def Truss.cond (c : Truss) (cond n : Nat) : Option Bool :=
  let q := (c.qg (n % 4) &&& c.qg 0)
  match cond with
  | 0 => some true
  | 1 => some (c.pg n == 0)
  | 2 => some (c.pg n != 0)
  | 3 => some (decide ((c.pg n).toInt < 0))
  | 4 => some (decide ((c.pg n).toInt ≥ 0))
  | 5 => some (q != 0)
  | 6 => some (q == c.qg 0)
  | 7 => some (q == 0)
  | 8 => some (bitOf c.st.toNat 0)
  | 9 => some (bitOf c.st.toNat 1)
  | 10 => some (bitOf c.st.toNat 2)
  | _ => none

/-- Whether a branch target lies outside the innermost loop body (R79). -/
def Truss.leaves (c : Truss) (t : Nat) : Bool :=
  match c.loops with
  | [] => false
  | l :: _ => t < l.start || l.stop < t

/-- What a control operation does before the bundle boundary: the state, and a jump. -/
structure CtlRes where
  h : Hw
  jump : Option Nat := none
  /-- the boundary has been taken already: SLEEP, BRK -/
  done : Bool := false
deriving DecidableEq, Repr

/-- The C operations with their fields (R132). -/
inductive COp where
  | b (cond n target : Nat)
  | loop (src : Bool) (count off : Nat)
  | lexit | sleep
  | signal (flag : Nat)
  | softTrap | brk
  | qop (qd qa qb fn hi lo : Nat)
  | stw (p : Nat)
  | str (fld p : Nat)
  | stclr (flags : Nat) (bexp : Bool)
  | padd (pd pa : Nat) (imm : Nat)
deriving DecidableEq, Repr

/-- The lane mask that QOP computes; none for the reserved code. -/
def qopRes (a b : Word) (fn hi lo : Nat) : Option Word :=
  match fn with
  | 0 => some (a &&& b)
  | 1 => some (a ||| b)
  | 2 => some (a ^^^ b)
  | 3 => some (a &&& ~~~b)
  | 4 => some (~~~a)
  | 5 => some (laneMask lo hi)
  | 6 => some a
  | _ => none

/-- The field values that R81 and R124 allow a control operation: no reserved code, and 0 in a register number that it does
not use. A Q register is named in bits [1:0] of a field whose other bits are 0 (DEDUCED, log entry 65). -/
def COp.legal : COp → Bool
  | .b cond n _ =>
    if cond = 0 || (8 ≤ cond && cond ≤ 10) then n == 0 else if 5 ≤ cond then cond ≤ 7 && n < 4 else true
  | .loop src count _ => !src || count < 16
  | .signal f => f != 0
  | .qop qd qa qb fn _ _ =>
    qd != 0 && fn < 7 && (fn < 4 || qb == 0) && (fn != 5 || qa == 0)
  | .str fld _ => fld < 3
  | .lexit | .sleep | .softTrap | .brk | .stw _ | .stclr _ _ | .padd _ _ _ => true

/-- Pointer registers whose values a control operation uses. -/
def COp.ptrs : COp → List Nat
  | .b cond n _ => if 1 ≤ cond && cond ≤ 4 then [n] else []
  | .loop src count _ => if src then [count] else []
  | .stw p => [p]
  | .padd _ pa _ => [pa]
  | .lexit | .sleep | .signal _ | .softTrap | .brk | .qop _ _ _ _ _ _ | .str _ _ | .stclr _ _ => []

/-- LOOP: a count of 0 skips the body, at four levels too, since it pushes none; else a fifth level traps (R78, R79;
DESIGN CHOICE, log entry 65). -/
def Hw.ctlLoop (h : Hw) (n count off : Nat) : CtlRes :=
  let c := h.core n
  if count = 0 then ⟨h, some (c.pc + 2 + off), false⟩
  else if c.loops.length ≥ 4 then ⟨h.trap n tLoop, none, false⟩
  else ⟨h.setCore n { c with loops := ⟨count, (c.pc + 1) % 16384, (c.pc + 1 + off) % 16384⟩ :: c.loops },
        some (c.pc + 1), false⟩

/-- BRK: nothing unless the debug window is unlocked (R97); the bundle has executed when the core halts. -/
def Hw.ctlBrk (h : Hw) (n : Nat) : CtlRes :=
  if h.b Reg.SYS_DEBUG_unlocked then ⟨(h.trap n tBrk).boundary n none, none, true⟩ else ⟨h, none, false⟩

/-- SLEEP: a task end inside a loop body raises LOOP_ERR (R79). -/
def Hw.ctlSleep (h : Hw) (n : Nat) : CtlRes :=
  let c := h.core n
  if c.loops.isEmpty then
    let late : Bool := match c.entry with
      | some i => decide ((h.tlEntry n i).budget < c.cycles + 1)
      | none => false
    if late then ⟨h.budgetStop n, none, true⟩
    else
      let h := h.setCore n { c with cycles := c.cycles + 1, pc := (c.pc + 1) % 16384 }
      ⟨h.taskSleep n, none, true⟩
  else ⟨h.trap n tLoop, none, false⟩

/-- A control operation of core n whose fields are legal; `c` holds the registers as they stand before the bundle (R69). LEXIT
with no loop level raises LOOP_ERR (DESIGN CHOICE, log entry 65). PADD steps as a post-modify under the mode of Pa
(R75, R76, R132; DEDUCED, log entry 65). -/
def Hw.ctl (h : Hw) (n : Nat) (c : Truss) (op : COp) : CtlRes :=
  match op with
  | .b cond k target =>
    match c.cond cond k with
    | none => ⟨h.trap n tIllegal, none, false⟩
    | some false => ⟨h, none, false⟩
    | some true =>
      if c.leaves target then ⟨h.trap n tLoop, none, false⟩ else ⟨h, some target, false⟩
  | .loop src count off => h.ctlLoop n (if src then (c.pg (count % 16)).toNat % 65536 else count) off
  | .lexit =>
    match c.loops with
    | [] => ⟨h.trap n tLoop, none, false⟩
    | l :: t => ⟨h.modCore n (fun c => { c with loops := t }), some (l.stop + 1), false⟩
  | .sleep => h.ctlSleep n
  | .signal f => ⟨h.setFlag f, none, false⟩
  | .softTrap => ⟨h.trap n tSoft, none, false⟩
  | .brk => h.ctlBrk n
  | .qop qd qa qb fn hi lo =>
    match qopRes (c.qg qa) (c.qg qb) fn hi lo with
    | none => ⟨h.trap n tIllegal, none, false⟩
    | some w => ⟨h.modCore n (fun t => t.qp qd w), none, false⟩
  | .stw p => ⟨h.modCore n (fun t => { t with st := setBits t.st 0 21 (c.pg p).toNat }), none, false⟩
  | .str fld p =>
    let w := match fld with
      | 0 => c.st
      | 1 => BitVec.ofNat 32 c.bexp
      | _ => BitVec.ofNat 32 c.stLane
    ⟨h.modCore n (fun t => t.pp p w), none, false⟩
  | .stclr flags bexp =>
    ⟨h.modCore n (fun t =>
      let t' := { t with st := t.st &&& ~~~(BitVec.ofNat 32 (flags % 64)) }
      if bexp then t'.setBexp 127 else t'), none, false⟩
  | .padd pd pa imm =>
    let md := (ptrMode (c.lg pa)).getD .linear
    ⟨h.modCore n (fun t => t.pp pd (ptrPost md (c.pg pa) (sext 16 imm))), none, false⟩

/-! ### A whole bundle (R80, R81, R125) -/

def ekindOf (op : Nat) : Option EKind :=
  match op with
  | 0x01 => some .mpy | 0x02 => some .mac | 0x03 => some .msu | 0x04 => some .fma
  | 0x05 => some .fmpy | 0x06 => some .ext | 0x07 => some .ald | 0x08 => some .add
  | 0x09 => some .sub | 0x0A => some .and | 0x0B => some .or | 0x0C => some .xor
  | 0x0D => some .abs | 0x0E => some .neg | 0x0F => some .min | 0x10 => some .max
  | 0x11 => some .shl | 0x12 => some .shra | 0x13 => some .shrl | 0x14 => some .cmp
  | 0x15 => some .fadd | 0x16 => some .fsub | 0x17 => some .fmul | 0x18 => some .fmin
  | 0x19 => some .fmax | 0x1A => some .cvt | 0x1B => some .bexp | 0x1C => some .bexpa
  | 0x1D => some .acc | _ => none

def wkindOf (op : Nat) : Option WKind :=
  match op with
  | 0x20 => some .fma3 | 0x21 => some .macx | 0x22 => some .sel | 0x23 => some .maxi
  | 0x24 => some .mini | 0x25 => some .shuf | 0x26 => some .red | 0x27 => some .ldi
  | 0x28 => some .ldih | 0x29 => some .fromp | _ => none

/-- The execute slot of a bundle. -/
inductive XOp where
  | nop
  | e (k : EKind) (o : EOp)
  | w (k : WKind) (o : WOp)
deriving DecidableEq, Repr

/-- The E slot, 26 bits (R126). -/
def decE (s : Nat) : Option XOp :=
  let op := bitsOf s 21 5
  let o : EOp := ⟨bitsOf s 16 5, bitsOf s 11 5, bitsOf s 6 5, bitsOf s 4 2, bitsOf s 0 4, false, 0⟩
  if op = 0 then (if s = 0 then some .nop else none)
  else (ekindOf op).bind (fun k => if k.legal o then some (.e k o) else none)

/-- The EW slot, 44 bits (R126, R128). -/
def decW (s : Nat) : Option XOp :=
  let op := bitsOf s 38 6
  let d := bitsOf s 33 5
  let a := bitsOf s 28 5
  let b := bitsOf s 23 5
  let c := bitsOf s 18 5
  let pq := bitsOf s 16 2
  let imm := bitsOf s 0 16
  if op = 0 then (if s = 0 then some .nop else none)
  else if op < 0x20 then
    let o : EOp := ⟨d, a, 0, pq, imm / 4096, true, imm⟩
    (ekindOf op).bind (fun k => if b = 0 && c = 0 && k.legal o then some (.e k o) else none)
  else
    let o : WOp := ⟨d, a, b, c, pq, imm⟩
    (wkindOf op).bind (fun k => if k.legal o then some (.w k o) else none)

/-- A memory slot of a bundle: none illegal; some none no operation; some (store, op). -/
def decMem (op : Nat) (rest : Nat) (m : MemArgs) : Option (Option (Bool × MemOp)) :=
  match op with
  | 0 => if rest = 0 then some none else none
  | 1 => (memDec m).map (fun o => some (false, o))
  | 2 => (memDec m).map (fun o => some (true, o))
  | _ => none

def decMA (s : Nat) : Option (Option (Bool × MemOp)) :=
  decMem (bitsOf s 16 2) (s % 2 ^ 16)
    (.ma (BitVec.ofNat 2 (bitsOf s 14 2)) (BitVec.ofNat 5 (bitsOf s 9 5)) (BitVec.ofNat 3 (bitsOf s 6 3))
      (BitVec.ofNat 3 (bitsOf s 3 3)) (BitVec.ofNat 3 (bitsOf s 0 3)))

def decMB (s : Nat) : Option (Option (Bool × MemOp)) :=
  decMem (bitsOf s 16 2) (s % 2 ^ 16)
    (.mb (BitVec.ofNat 2 (bitsOf s 14 2)) (BitVec.ofNat 5 (bitsOf s 9 5)) (BitVec.ofNat 3 (bitsOf s 6 3))
      (BitVec.ofNat 3 (bitsOf s 3 3)) (BitVec.ofNat 3 (bitsOf s 0 3)))

def decML (s : Nat) : Option (Option (Bool × MemOp)) :=
  decMem (bitsOf s 30 2) (s % 2 ^ 30)
    (.ml (BitVec.ofNat 3 (bitsOf s 27 3)) (BitVec.ofNat 5 (bitsOf s 22 5)) (BitVec.ofNat 4 (bitsOf s 18 4))
      (BitVec.ofNat 3 (bitsOf s 15 3)) (BitVec.ofNat 5 (bitsOf s 10 5)) (BitVec.ofNat 2 (bitsOf s 8 2))
      (BitVec.ofNat 8 (bitsOf s 0 8)))

/-- The operation of the C slot with its fields (R132): none where a field that must be 0 is not, some none no operation. -/
def decFields (s : Nat) : Option (Option COp) :=
  let z := fun (lo w : Nat) => bitsOf s lo w == 0
  match bitsOf s 25 5 with
  | 0x00 => if s = 0 then some none else none
  | 0x01 => if z 14 3 then some (some (.b (bitsOf s 21 4) (bitsOf s 17 4) (bitsOf s 0 14))) else none
  | 0x02 => some (some (.loop (bitOf s 24) (bitsOf s 8 16) (bitsOf s 0 8)))
  | 0x03 => if z 0 25 then some (some .lexit) else none
  | 0x04 => if z 0 25 then some (some .sleep) else none
  | 0x05 => if z 4 21 then some (some (.signal (bitsOf s 0 4))) else none
  | 0x06 => if z 0 25 then some (some .softTrap) else none
  | 0x07 => if z 0 25 then some (some .brk) else none
  | 0x08 =>
    if z 10 6 then some (some (.qop (bitsOf s 23 2) (bitsOf s 21 2) (bitsOf s 19 2) (bitsOf s 16 3)
      (bitsOf s 5 5) (bitsOf s 0 5))) else none
  | 0x09 => if z 4 21 then some (some (.stw (bitsOf s 0 4))) else none
  | 0x0A => if z 6 19 then some (some (.str (bitsOf s 4 2) (bitsOf s 0 4))) else none
  | 0x0B => if z 7 18 then some (some (.stclr (bitsOf s 0 6) (bitOf s 6))) else none
  | 0x0C => if z 16 1 then some (some (.padd (bitsOf s 21 4) (bitsOf s 17 4) (bitsOf s 0 16))) else none
  | _ => none

/-- The C slot, 30 bits: none illegal, some none no operation. -/
def decC (s : Nat) : Option (Option COp) :=
  (decFields s).bind (fun o => if o.all COp.legal then some o else none)

/-- A decoded bundle. -/
inductive Bundle where
  | exec (x : XOp) (m1 m2 : Option (Bool × MemOp))
  | ctl (c : Option COp) (m : Option (Bool × MemOp))
  | imm (dest : Nat) (imm : Word)
deriving DecidableEq, Repr

/-- Lane-store accesses of two memory slots: at most one write (R67, R81). -/
def lsLegal (m1 m2 : Option (Bool × MemOp)) : Bool :=
  let isLs : Option (Bool × MemOp) → Bool := fun m => match m with
    | some (_, o) => decide (o.space = .ls)
    | none => false
  let isSt : Option (Bool × MemOp) → Bool := fun m => match m with
    | some (st, _) => st
    | none => false
  !(isLs m1 && isLs m2 && isSt m1 && isSt m2)

/-- Decode the 64 bits of a bundle; none is an illegal bundle (R80, R81). -/
def decBundle (w : Nat) : Option Bundle :=
  match bitsOf w 62 2 with
  | 0 =>
    match decE (bitsOf w 36 26), decMA (bitsOf w 18 18), decMB (bitsOf w 0 18) with
    | some x, some a, some b => if lsLegal a b then some (.exec x a b) else none
    | _, _, _ => none
  | 1 =>
    match decW (bitsOf w 18 44), decMB (bitsOf w 0 18) with
    | some x, some b => some (.exec x none b)
    | _, _ => none
  | 2 =>
    match decC (bitsOf w 32 30), decML (bitsOf w 0 32) with
    | some c, some m => some (.ctl c m)
    | _, _ => none
  | _ =>
    if bitsOf w 32 24 = 0 && bitsOf w 56 6 < 0x30 then
      some (.imm (bitsOf w 56 6) (BitVec.ofNat 32 (w % 2 ^ 32)))
    else none

def XOp.uses : XOp → List Nat
  | .nop => []
  | .e _ o => [o.a, o.b, o.d]
  | .w _ o => [o.a, o.b, o.c, o.d]

def XOp.run : XOp → Truss → Truss
  | .nop, c => c
  | .e k o, c => k.run o c
  | .w k o, c => k.run o c

/-- Pointer registers whose values the execute slot uses: FROMP, MAXI and MINI (R119, R128). -/
def XOp.ptrs : XOp → List Nat
  | .w .fromp o => [o.a % 16]
  | .w .maxi o => [o.imm % 16]
  | .w .mini o => [o.imm % 16]
  | _ => []

/-- The pointer register that the execute slot writes: a reduction's (R120). -/
def XOp.dest : XOp → Option Nat
  | .w .red o => if o.imm % 16 = 0 then none else some (o.d % 16)
  | _ => none

def memUses : Option (Bool × MemOp) → List Nat
  | none => []
  | some (_, o) => o.v :: o.reads

/-- The memory slots of a bundle, MA before MB. -/
def Bundle.mems : Bundle → List (Bool × MemOp)
  | .exec _ a b => a.toList ++ b.toList
  | .ctl _ m => m.toList
  | .imm _ _ => []

/-- Pointer registers whose values a bundle uses (R74). -/
def Bundle.ptrs (b : Bundle) : List Nat :=
  b.mems.map (fun m => m.2.ptr) ++ (match b with
    | .exec x _ _ => x.ptrs
    | .ctl (some op) _ => op.ptrs
    | _ => [])

/-- The execute slot's part of a bundle, after its loads and before its stores: it sees the loads of its own bundle, and its
results stand over theirs and over a post-modify of the same pointer (R81, R125). -/
def XOp.effect (x : XOp) (accs : List MemAccess) (c : Truss) : Truss :=
  accs.foldl (fun t a => if x.dest = some a.op.ptr then t else t.pp a.op.ptr a.next) (x.run c)

/-- A bundle with an execute slot. Every operand, pointer and mask is read before anything is written; a store's data are read
beside the operands of the execute slot (R69, R125, R131). -/
def Hw.execBundle (h : Hw) (n : Nat) (x : XOp) (accs : List MemAccess) (ecc : Option Bool) : Hw :=
  let now := fun (a : MemAccess) => x.uses.contains a.op.v || decide (2 ≤ accs.length)
  let h := (accs.filter (fun a => !a.store)).foldl (fun h a => if (h.core n).trapped then h else h.load n a (now a) ecc) h
  if (h.core n).trapped then h
  else
    let data := h.core n
    let h := h.modCore n (x.effect accs)
    ((accs.filter (·.store)).foldl (fun h a => h.store n a (fun i => data.vg a.op.v i)) h).boundary n none

/-- A bundle with a control slot; it reads its registers as they stand before the bundle, and its result stands over the
post-modify of the same pointer (R69; DESIGN CHOICE, log entry 65). -/
def Hw.ctlBundle (h : Hw) (n : Nat) (op : Option COp) (accs : List MemAccess) (ecc : Option Bool) : Hw :=
  let c := h.core n
  let h := accs.foldl (fun h a =>
    if a.store then h.store n a (fun i => c.vg a.op.v i) else h.load n a false ecc) h
  if (h.core n).trapped then h
  else
    let h := h.modCore n (XOp.effect .nop accs)
    match op with
    | none => h.boundary n none
    | some op =>
      let r := h.ctl n c op
      if r.done then r.h else r.h.boundary n r.jump

/-- Execute a decoded bundle. A bundle that uses a pointer with a reserved mode in its L register is illegal, whichever slot uses
it (R74), and an address outside its space stops the bundle before any slot has acted (R66; DESIGN CHOICE, log entry 65). -/
def Hw.runBundle (h : Hw) (n : Nat) (b : Bundle) (ecc : Option Bool := none) : Hw :=
  let vs := match b with
    | .exec x m1 m2 => x.uses ++ memUses m1 ++ memUses m2
    | .ctl _ m => memUses m
    | .imm _ _ => []
  let h := h.interlock n (b.mems.any (·.1)) vs
  let c := h.core n
  if b.ptrs.any (fun p => (ptrMode (c.lg p)).isNone) then h.trap n tIllegal
  else
    let accs := b.mems.map c.access
    if accs.any (fun a => !a.ok) then h.trap n tAddr
    else
      match b with
      | .imm d v => h.opImm n d v
      | .exec x _ _ => h.execBundle n x accs ecc
      | .ctl op _ => h.ctlBundle n op accs ecc

/-- Execute the bundle at the core's pc. -/
def Hw.bundle (h : Hw) (n : Nat) : Hw :=
  match decBundle (h.rdN (0x21080000 + n * 0x100000 + 8 * (h.core n).pc) 8) with
  | none => h.trap n tIllegal
  | some b => h.runBundle n b

/-! ### Bundles with one operation -/

/-- The bundle whose only operation is the memory slot `m`. -/
def memBundle (store : Bool) (m : MemArgs) : Option Bundle :=
  (memDec m).map (fun o => match m with
    | .ma _ _ _ _ _ => .exec .nop (some (store, o)) none
    | .mb _ _ _ _ _ => .exec .nop none (some (store, o))
    | .ml _ _ _ _ _ _ _ => .ctl none (some (store, o)))

/-- A bundle, or the trap of an illegal one. -/
def Hw.opBundle (h : Hw) (n : Nat) (b : Option Bundle) (ecc : Option Bool := none) : Hw :=
  match b with
  | none => h.trap n tIllegal
  | some b => h.runBundle n b ecc

/-- A bundle whose only operation is a load. -/
def Hw.opLoad (h : Hw) (n : Nat) (m : MemArgs) (ecc : Option Bool := none) : Hw := h.opBundle n (memBundle false m) ecc

/-- A bundle whose only operation is a store. -/
def Hw.opStore (h : Hw) (n : Nat) (m : MemArgs) : Hw := h.opBundle n (memBundle true m)

/-- A bundle whose only operation is an E operation. -/
def Hw.opE (h : Hw) (n : Nat) (k : EKind) (x : EArgs) : Hw :=
  h.opBundle n (if k.legal (eOp x) then some (.exec (.e k (eOp x)) none none) else none)

/-- A bundle whose only operation is an EW operation. -/
def Hw.opW (h : Hw) (n : Nat) (k : WKind) (x : EWArgs) : Hw :=
  h.opBundle n (if k.legal (wOp x) then some (.exec (.w k (wOp x)) none none) else none)

/-- A bundle whose only operation is a control operation. -/
def Hw.opC (h : Hw) (n : Nat) (op : COp) : Hw :=
  h.opBundle n (if op.legal then some (.ctl (some op) none) else none)

/-! ### Retuning a bent (R91) -/

/-- BENT_RETUNE_DONE: the clock runs again at the new frequency, and the cores go on. -/
def Hw.bentRetuneDone (h : Hw) (b : Nat) : Hw :=
  let r := h.rail b
  if r.retune.isNone then h
  else
    let h := ((h.setRail b { r with retune := none, raising := false }).p (Reg.TRUSS_BENT_STAT_freq_act b)
      (h.g (Reg.TRUSS_BENT_OP_freq_code b))).s0 (Reg.TRUSS_BENT_OP_change_req b)
    (List.range 5).foldl (fun h j => if (h.core (5 * b + j)).due.isEmpty then h else Hw.startNext 33 h (5 * b + j)) h

/-- A retune has stopped a bent's clock for 5 µs, the longest it may (R17): the clock runs again. -/
def Hw.retuneDue (h : Hw) : Hw :=
  (List.range 2).foldl (fun h b => match (h.rail b).retune with
    | some t => if t + 5000 < h.t64 then h.bentRetuneDone b else h
    | none => h) h

end Sys2Proof.Machine
end

