-- ==== Sys2Proof/Machine/KittyOps.lean ====
section
/-! DEFINITION. Kitties (R23–R45, R50, R552): block headers, the admission checks, consuming and concealing
at input kitties, releasing, concealing and muting at output kitties. -/

namespace Sys2Proof.Machine

/-! ### Counters of R41 -/

def InKitty.count (k : InKitty) (c : Nat) : InKitty := { k with cnt := bump k.cnt c }

def OutKitty.count (k : OutKitty) (c : Nat) : OutKitty := { k with cnt := bump k.cnt c }

/-! ### Hold limits (R37, R38) -/

/-- The default hold limit in force: 0 input kitties, 1 output kitties, 2 amplifier sinks (R38, R259). -/
def Hw.holdDefault (h : Hw) (i : Nat) : Nat := h.mbx.holdDef.getD i 4

/-- The hold limit of an input kitty: the plan's, or the default (R38). -/
def Hw.holdIn (h : Hw) (c : InCfg) : Nat := c.hold.getD (h.holdDefault 0)

/-- The hold limit of an output kitty (R38). -/
def Hw.holdOut (h : Hw) (c : OutCfg) : Nat :=
  c.hold.getD (match c.sink with
    | .amp _ => h.holdDefault 2
    | _ => h.holdDefault 1)

/-! ### Formats (R27, R28, R145, R386) -/

/-- Bytes per sample of a format code: 1 L16, 2 L24, 3 L32, 4 H32. -/
def fmtWidth (f : Nat) : Nat :=
  match f with
  | 1 => 2
  | 2 => 3
  | _ => 4

def fmtKnown (f : Nat) : Bool := 1 ≤ f && f ≤ 4

/-- Input conversion to H32 (R386). -/
def toH32 (f : Nat) (bs : List Byte) : Int :=
  let v := sext (8 * fmtWidth f) (beNat bs)
  match f with
  | 1 => v * 2 ^ 13
  | 2 => v * 2 ^ 5
  | 3 => asr (v + 4) 3
  | _ => v

/-- Output conversion from H32 (R145). -/
def fromH32 (f : Nat) (x : Int) : Int :=
  match f with
  | 1 => clampI (-(2 ^ 15)) (2 ^ 15 - 1) (asr (x + 2 ^ 12) 13)
  | 2 => clampI (-(2 ^ 23)) (2 ^ 23 - 1) (asr (x + 2 ^ 4) 5)
  | 3 => clampI (-(2 ^ 31)) (2 ^ 31 - 1) (x * 2 ^ 3)
  | _ => x

def sampleBytes (f : Nat) (x : Int) : List Byte :=
  beBytes (fmtWidth f) (lowBits (8 * fmtWidth f) (fromH32 f x))

/-- Samples of an interleaved payload: one list per channel (R28). -/
def deinterleave (f chans n : Nat) (bs : List Byte) : Block :=
  (List.range chans).map (fun c =>
    (List.range n).map (fun i => toH32 f (sliceB bs ((i * chans + c) * fmtWidth f) (fmtWidth f))))

/-- Sample i of channel c of a block. -/
def Block.at (b : Block) (c i : Nat) : Int := nthI (b.getD c []) i

/-- The interleaved payload of a block. -/
def interleave (f chans n : Nat) (b : Block) : List Byte :=
  (List.range n).flatMap (fun i => (List.range chans).flatMap (fun c => sampleBytes f (Block.at b c i)))

/-- A Brizu header (R26). -/
structure BrizuHdr where
  p : Nat
  streamId : Nat
  seq : Nat
  chans : Nat
  format : Nat
  blk : Nat
  flags : Nat
  len : Nat
  crc : Nat
deriving DecidableEq, Repr

def brizuHdr (b : List Byte) : BrizuHdr :=
  { p := beNat (sliceB b 0 8), streamId := beNat (sliceB b 8 4), seq := beNat (sliceB b 12 4),
    chans := beNat (sliceB b 16 2), format := beNat (sliceB b 18 1), blk := beNat (sliceB b 19 1),
    flags := beNat (sliceB b 20 2), len := beNat (sliceB b 22 2), crc := beNat (sliceB b 24 4) }

def BrizuHdr.bytes (x : BrizuHdr) : List Byte :=
  beBytes 8 x.p ++ beBytes 4 x.streamId ++ beBytes 4 x.seq ++ beBytes 2 x.chans ++ beBytes 1 x.format
    ++ beBytes 1 x.blk ++ beBytes 2 x.flags ++ beBytes 2 x.len ++ beBytes 4 x.crc ++ beBytes 4 0

/-- The validity of a Brizu block for a stream (R27, R28): codes, declared values, the three payload
conditions. A 16-byte GMAC tag follows the payload when flags[2] is set. -/
def brizuValid (rate blk : Nat) (c : InCfg) (b : List Byte) : Bool :=
  let x := brizuHdr b
  let bs := 4 * 2 ^ (x.blk % 4)
  decide (b.length ≥ 32)
    && x.format / 16 < 6 && fmtKnown (x.format % 16) && x.blk / 64 == 1 && x.blk / 4 % 16 == 0
    && 1 ≤ x.chans && x.chans ≤ 256
    && x.format / 16 == rate && x.blk % 4 == blk && x.format % 16 == c.fmt && x.chans == c.chans
    && x.streamId == c.streamId
    && x.len == x.chans * bs * fmtWidth (x.format % 16) && x.len ≤ 8192
    && b.length == 32 + x.len + (if bitOf x.flags 2 then 16 else 0)

/-! ### Mute (R240) -/

/-- One sample instant through mute: the channels' samples, and the new position. -/
def MuteSt.apply (m : MuteSt) (fs : Nat) (x : List Int) : List Int × MuteSt :=
  if m.muting then (x.map (fun s => scale24 s (fadeOut (muteF fs) m.pos)), { m with pos := m.pos + 1 })
  else if m.ret < 64 then
    (x.map (fun s => xfade (scale24 s (fadeOut (muteF fs) m.pos)) s (scarf 64 false m.ret)),
     { m with pos := m.pos + 1, ret := m.ret + 1 })
  else (x, m)

/-- A whole block through mute. -/
def MuteSt.block (m : MuteSt) (fs bs : Nat) (b : Block) : Block × MuteSt :=
  let r := (List.range bs).foldl (fun (s : List (List Int) × MuteSt) i =>
    let (y, m) := s.2.apply fs (b.map (fun l => nthI l i)); (s.1 ++ [y], m)) ([], m)
  ((List.range b.length).map (fun c => r.1.map (fun y => nthI y c)), r.2)

/-- Mute comes into force, or its end is requested: the return waits for the next tick. -/
def MuteSt.set (m : MuteSt) (on : Bool) : MuteSt :=
  if on then { muting := true, ending := false, pos := if m.muting then m.pos else 0, ret := 64 }
  else if m.muting then { m with ending := true } else m

/-- The tick after mute ended: the next sample starts the return ramp. -/
def MuteSt.tick (m : MuteSt) : MuteSt :=
  if m.ending then { m with muting := false, ending := false, ret := 0 } else m

/-! ### Input kitties -/

def Hw.inK (h : Hw) (k : Nat) : Option InKitty := h.kin.find? k

def Hw.setIn (h : Hw) (k : Nat) (x : InKitty) : Hw := { h with kin := h.kin.put k x }

/-- Slots of a kitty: the deal's depth, which is 4 to 64 (R32). -/
def slotCount (depth : Nat) : Nat := min (max depth 4) 64

/-- The slot of media sample index n on the grid of n0: ((N(P) − N(P0)) / block size) modulo depth (R32). -/
def ringSlot (n0 depth bs n : Nat) : Nat :=
  ((((n : Int) - (n0 : Int)) / (bs : Int)) % (slotCount depth : Int)).toNat

def InKitty.slotOf (k : InKitty) (bs n : Nat) : Nat := ringSlot (k.n0.getD n) k.cfg.depth bs n

/-- A new P0: the blocks still to be consumed keep their places in time (R36). -/
def InKitty.rebase (k : InKitty) (bs m : Nat) : InKitty :=
  { k with n0 := some m, slots := k.slots.foldl (fun (t : Tab Slot) e => t.put (ringSlot m k.cfg.depth bs e.2.n) e.2) [] }

/-! ### Blocks in the deck (R55) -/

/-- The big-endian Brizu block of H32 samples that stands in a slot of the deck (R26, R28, R55). -/
def deckBlock (streamId seq rate blk : Nat) (chans bs p : Nat) (b : Block) : List Byte :=
  let pay := interleave 4 chans bs b
  (BrizuHdr.bytes { p := p, streamId := streamId, seq := seq, chans := chans, format := rate * 16 + 4, blk := 64 + blk,
                    flags := 0, len := pay.length, crc := crc32c pay }) ++ pay

/-- Deck address of slot i of a ring of kitty blocks. -/
def slotAddr (base chans bs i : Nat) : Nat := base + i * (32 + 4 * chans * bs)

/-- The slots of input kitty k that hold the given blocks are written to the deck. -/
def Hw.deckIn (h : Hw) (k : InKitty) (ms : List Nat) : Hw :=
  ms.foldl (fun h m => match k.slots.find? (k.slotOf h.bs m) with
    | some s => h.wrBytes (slotAddr k.cfg.base k.cfg.chans h.bs (k.slotOf h.bs m))
        (deckBlock k.cfg.streamId s.seq h.deal.rate.val h.deal.blk.val k.cfg.chans h.bs s.p s.samples)
    | none => h) h

/-- P of an RTP timestamp (R23): the timestamp mapped to the media sample index nearest below the current
time plus half the wrap, plus the stream's presentation delay. -/
def Hw.rtpIndex (h : Hw) (ts offset : Nat) : Nat :=
  let now := h.media h.t64
  let target := (ts + 2 ^ 32 - offset % 2 ^ 32) % 2 ^ 32
  let base := now / 2 ^ 32 * 2 ^ 32 + target
  if base > now + 2 ^ 31 then base - 2 ^ 32 else if base + 2 ^ 31 < now then base + 2 ^ 32 else base

/-- What an arriving packet carries once its header is valid: P, N(P), sequence, samples, the payload CRC's
outcome, the tag and the authenticated bytes. -/
structure Arrived where
  p : Nat
  n : Nat
  seq : Nat
  samples : Block
  crcOk : Bool
  tag : Option (List Byte)
  auth : List Byte
deriving DecidableEq, Repr

/-- Order 2 of R33: the header's validity, and the block it announces. -/
def Hw.parse (h : Hw) (c : InCfg) (pkt : Packet) : Option Arrived :=
  match pkt with
  | .brizu b =>
    if brizuValid h.deal.rate.val h.deal.blk.val c b then
      let x := brizuHdr b
      let pay := sliceB b 32 x.len
      some { p := x.p, n := h.media x.p, seq := x.seq, samples := deinterleave c.fmt c.chans h.bs pay,
             crcOk := crc32c pay == x.crc,
             tag := if bitOf x.flags 2 then some (sliceB b (32 + x.len) 16) else none,
             auth := b.take (32 + x.len) }
    else none
  | .rtp ok seq ts pay =>
    match c.src with
    | .rtp _ offset perPacket delay =>
      if ok && pay.length = c.chans * perPacket * fmtWidth c.fmt then
        let n := h.rtpIndex ts.toNat offset + delay
        some { p := h.instant n, n := n, seq := seq.toNat,
               samples := deinterleave c.fmt c.chans perPacket pay, crcOk := true, tag := none, auth := [] }
      else none
    | _ => none

/-- Modulus of the sequence check: block_seq is 32 bits (R33); an RTP sequence number is 16 bits and counts
packets of the declared length (R331). The first block after the stream starts or resynchronises passes. -/
def seqOk (k : InKitty) (bs seq n : Nat) : Bool :=
  if k.n0.isNone || k.resync then true
  else
    let (bits, step) := match k.cfg.src with
      | .rtp _ _ per _ => (16, per)
      | _ => (32, bs)
    let d : Int := ((seq : Int) - (k.lastSeq : Int)) * (step : Int)
    let e : Int := (n : Int) - (k.lastN : Int)
    (d - e) % ((2 ^ bits * step : Nat) : Int) == 0

/-- The tick of index c has been processed: what is due at it can only be late (R34). -/
def Hw.tickDone (h : Hw) (c : Nat) : Bool := h.epoch.live && decide (c ≤ h.epoch.t)

/-- P selects a slot: N(P) is on the grid, and its consume tick is still to come and no more than depth block periods
away (R33 order 5, R34, R43): 0 passes, otherwise the counter of the failure. -/
def Hw.reach (h : Hw) (k : InKitty) (n : Nat) : Nat :=
  let c := n - k.cfg.d * h.bs
  if n % h.bs != 0 then cMisalign
  else if n < k.cfg.d * h.bs || h.instant c < h.t64 || h.tickDone c then cLate
  else if (h.instant c - h.t64) * h.fs > slotCount k.cfg.depth * h.bs * 1000000000 then cEarly
  else 0

/-- P lies within half a sample period of the instant of N(P) (R33 order 5). -/
def Hw.onGrid (h : Hw) (p n : Nat) : Bool := decide (2 * (p - h.instant n) * h.fs ≤ 1000000000)

/-- The timestamp window of R33, order 5. -/
def Hw.window (h : Hw) (k : InKitty) (p n : Nat) : Nat := if h.onGrid p n then h.reach k n else cMisalign

/-- A discarded block: counted, with the failures of orders 4 and 5 counted towards R36, and its cause of R58 kept. -/
def InKitty.discard (k : InKitty) (c : Nat) (n : Option Nat) : InKitty :=
  let k := k.count c
  let k := if c = cSeq || c = cMisalign || c = cLate || c = cEarly then { k with bad := k.bad + 1 } else k
  match n with
  | some m => { k with causes := ((m, if c = cLate then 2 else 3) :: k.causes).take 64 }
  | none => k

/-- The media sample index that a discarded block names, where its bytes reach that far (R58). -/
def Hw.namedIndex (h : Hw) (c : InCfg) (pkt : Packet) : Option Nat :=
  match pkt with
  | .brizu b => if b.length < 8 then none else some (h.media (beNat (sliceB b 0 8)) / h.bs * h.bs)
  | .rtp _ _ ts _ =>
    match c.src with
    | .rtp _ offset _ delay => some ((h.rtpIndex ts.toNat offset + delay) / h.bs * h.bs)
    | _ => none

/-- The block starts on the media grid that a packet's samples touch (R331). -/
def Arrived.starts (a : Arrived) (bs : Nat) : List Nat :=
  let len := max (a.samples.getD 0 []).length 1
  (List.range ((a.n + len - 1) / bs - a.n / bs + 1)).map (fun i => (a.n / bs + i) * bs)

/-- The sample offsets of the block that starts at m which the packet holds. -/
def Arrived.mask (a : Arrived) (bs m : Nat) : Nat :=
  let len := (a.samples.getD 0 []).length
  ((List.range bs).map (fun i => if a.n ≤ m + i && m + i < a.n + len then 2 ^ i else 0)).foldl (· + ·) 0

/-- The block that starts at m with the packet's samples put in. -/
def fillBlock (bs chans m : Nat) (a : Arrived) (old : Option Block) : Block :=
  (List.range chans).map (fun c =>
    (List.range bs).map (fun i =>
      let l := a.samples.getD c []
      if a.n ≤ m + i && m + i < a.n + l.length then nthI l (m + i - a.n)
      else match old with
        | some b => Block.at b c i
        | none => 0))

/-! ### Group tags (R30, R31, R511) -/

/-- Table keys that a receiver accepts now: the one in force, and the one before it and the one after it from
1 s before to 1 s after an activation (R509). -/
def Hw.rxKeys (h : Hw) : List (List Byte) :=
  let t := h.table
  let held := match t.keys with
    | [] => []
    | k :: old => k.key :: (if h.t64 ≤ k.active + 1000000000 then (old.take 1).map (·.key) else [])
  match t.nextKey with
  | some k => if h.t64 + 1000000000 ≥ k.active then held ++ [k.key] else held
  | none => held

/-- The table key that a sender uses now, empty when it has none. -/
def Hw.txKey (h : Hw) : List Byte := (h.table.keys.head?.map (·.key)).getD []

/-- The stream fails authentication: it is concealed from the next consume tick on (R31). -/
def Hw.authFailed (h : Hw) (kid : Nat) (k : InKitty) : Hw :=
  (h.setIn kid { k.count cGmacFail with authFail := true, skipRun := 0 }).raiseStream 0x5E k.cfg.streamId

/-- Group g is decided: its blocks are no longer kept. -/
def InKitty.close (k : InKitty) (g : Nat) : InKitty :=
  { k with closed := some g, auths := k.auths.filter (fun e => e.1 / 8 != g) }

/-- A group that cannot be verified; four of them in a row are a failure (R31). -/
def Hw.gmacSkip (h : Hw) (kid : Nat) (k : InKitty) (g : Nat) : Hw :=
  let k : InKitty := { (k.close g).count cGmacSkip with skipRun := k.skipRun + 1 }
  if k.skipRun ≥ 4 then h.authFailed kid k else h.setIn kid k

/-- The authenticated bytes of group g in sequence order, when all eight blocks were admitted. -/
def InKitty.groupBytes (k : InKitty) (g : Nat) : Option (List Byte) :=
  (List.range 8).foldl (fun (o : Option (List Byte)) i =>
    match o, k.auths.find? (fun e => e.1 = 8 * g + i) with
    | some l, some e => some (l ++ e.2)
    | _, _ => none) (some [])

/-- A block of a tagged stream is admitted: it joins its group by block_seq[31:3], and the block with block_seq[2:0] =
0b111 has the tag checked (R30, R31, R511). -/
def Hw.gmacCheck (h : Hw) (kid : Nat) (k : InKitty) (seq p : Nat) (auth : List Byte) (tag : Option (List Byte)) : Hw :=
  let g := seq / 8
  if !k.cfg.gmac || k.closed = some g then h.setIn kid k
  else
    let k : InKitty := { k with auths := (seq, auth) :: k.auths.filter (fun e => e.1 != seq) }
    if seq % 8 != 7 then h.setIn kid k
    else
      match k.groupBytes g, tag with
      | some bytes, some tag =>
        if h.rxKeys.any (fun key => (Config.gmacTag key (beBytes 4 k.cfg.streamId ++ beBytes 8 p) bytes).take 16 == tag) then
          h.setIn kid { k.close g with authFail := false, skipRun := 0 }
        else h.authFailed kid (k.close g)
      | _, _ => h.gmacSkip kid k g

/-- The consume tick of media sample index n has come without its block: where that block would have carried the tag of its
group, the group cannot be verified (R31). -/
def Hw.gmacMiss (h : Hw) (kid n : Nat) : Hw :=
  match h.inK kid with
  | none => h
  | some k =>
    let seq := (((k.lastSeq : Int) + ((n : Int) - (k.lastN : Int)) / (h.bs : Int)) % 2 ^ 32).toNat
    if !k.cfg.gmac || k.awaiting || seq % 8 != 7 || k.closed = some (seq / 8) then h else h.gmacSkip kid k (seq / 8)

/-! ### Admission (R33–R36, R42, R43, R50) -/

/-- Write the part of a packet that lies in the block which starts at m into its slot (R32, R331). A block with a
known failure of orders 1 and 3–5 is written only speculatively (R43). -/
def InKitty.writeAt (k : InKitty) (bs now : Nat) (a : Arrived) (port : Option Port) (sp : Spec) (fail : Option SpecCheck)
    (p m : Nat) : InKitty :=
  let k := match k.n0 with
    | some _ => k
    | none => { k with n0 := some m }
  let i := k.slotOf bs m
  let old := match k.slots.find? i with
    | some s => if s.n = m then some s else none
    | none => none
  let s : Slot := { n := m, p := p, samples := fillBlock bs k.cfg.chans m a (old.map (·.samples)),
                    port := port, admitted := now, spec := sp, seq := a.seq, auth := a.auth, tag := a.tag,
                    fail := match old with
                      | some o => o.fail.or fail
                      | none => fail
                    alt := old.bind (·.alt)
                    filled := Nat.lor (match old with
                      | some s => s.filled
                      | none => 0) (a.mask bs m) }
  { k with slots := k.slots.put i s, lastN := a.n, lastSeq := a.seq, awaiting := false,
           firstN := if k.awaiting then some m else k.firstN, bad := if sp = .tentative then k.bad else 0 }

/-- Write a packet into the given blocks. -/
def Hw.writeIn (h : Hw) (k : InKitty) (a : Arrived) (port : Option Port) (sp : Spec) (fail : Option SpecCheck)
    (ms : List Nat) : InKitty :=
  ms.foldl (fun k m => k.writeAt h.bs h.t64 a port sp fail (if m = a.n then a.p else h.instant m) m) k

/-- A slot holds every sample of its block. -/
def Slot.full (s : Slot) (bs : Nat) : Bool := s.filled == 2 ^ bs - 1

/-- The slot of kitty k that holds media sample index n. -/
def InKitty.slotAt (k : InKitty) (bs n : Nat) : Option (Nat × Slot) :=
  match k.slots.find? (k.slotOf bs n) with
  | some s => if s.n = n then some (k.slotOf bs n, s) else none
  | none => none

/-- The packet's samples are in their slots already (R33 order 6, R35). -/
def InKitty.holds (k : InKitty) (bs : Nat) (a : Arrived) : Bool :=
  (a.starts bs).all (fun m => match k.slotAt bs m with
    | some (_, s) => Nat.land s.filled (a.mask bs m) == a.mask bs m
    | none => false)

/-- Both copies completed admission in one TIME cycle and the slot holds the copy from port B: port A's copy fills it
(R35). -/
def InKitty.tie (k : InKitty) (bs now : Nat) (port : Option Port) (m : Nat) : Bool :=
  match k.slotAt bs m with
  | some (_, s) => port = some .a && s.port = some .b && s.admitted = now
  | none => false

/-- The blocks of a packet that pass a window, and the first failure (R33 order 5, R331). -/
def windowed (k : InKitty) (bs : Nat) (w : Nat → Nat) (a : Arrived) : List Nat × Nat :=
  let ms := match k.cfg.src with
    | .rtp _ _ _ _ => a.starts bs
    | _ => [a.n]
  (ms.filter (fun m => w m = 0), ((ms.map w).filter (· != 0)).headD 0)

/-- The window of the block that starts at m. -/
def Hw.blockWindow (h : Hw) (k : InKitty) (a : Arrived) (m : Nat) : Nat :=
  h.window k (if m = a.n then a.p else h.instant m) m

/-- A block that passes checks 1–3 ends a resynchronisation: it sets P0 and the sequence (R36). -/
def InKitty.resynced (k : InKitty) (bs : Nat) (a : Arrived) : InKitty :=
  if k.resync then { k.rebase bs (a.n / bs * bs) with resync := false, lastN := a.n, lastSeq := a.seq } else k

/-- BLOCK_ADMIT for a native stream: the checks of R33 in order. -/
def Hw.admitNative (h : Hw) (kid : Nat) (k : InKitty) (frameOk : Bool) (port : Option Port)
    (pkt : Packet) : Hw :=
  if !frameOk then h.setIn kid (k.discard cFcs (h.namedIndex k.cfg pkt))
  else
    match h.parse k.cfg pkt with
    | none => h.setIn kid (k.discard cFormat (h.namedIndex k.cfg pkt))
    | some a =>
      if !a.crcOk then h.setIn kid (k.discard cFcs (some a.n))
      else if !seqOk k h.bs a.seq a.n then h.setIn kid (k.discard cSeq (some a.n))
      else
        let k := k.resynced h.bs a
        let (ms, w) := windowed k h.bs (h.blockWindow k a) a
        if ms.isEmpty then h.setIn kid (k.discard w (some a.n))
        else if k.holds h.bs a then
          let k : InKitty := { k.count cDup with bad := 0 }
          let ties := ms.filter (k.tie h.bs h.t64 port)
          h.setIn kid (if ties.isEmpty then k else h.writeIn k a port .native none ties)
        else
          let k := h.writeIn k a port .native none ms
          (h.gmacCheck kid k a.seq a.p a.auth a.tag).deckIn k ms

/-- The first check of orders 1, 3 and 4, and of order 5 beyond the slot's choice, that an arriving block fails, as far as
it is known when its payload is written (R33, R43). -/
def Hw.specFail (h : Hw) (k : InKitty) (frameOk : Bool) (a : Arrived) : Option SpecCheck :=
  if !frameOk then some .frame
  else if !a.crcOk then some .crc
  else if !seqOk k h.bs a.seq a.n then some .seq
  else if !h.onGrid a.p a.n then some .misalign
  else none

/-- A second copy of a speculative block is the slot's alternate while the first is unconfirmed or squashed (R50). -/
def Hw.admitAlt (h : Hw) (kid : Nat) (k : InKitty) (fail : Option SpecCheck) (port : Option Port) (a : Arrived)
    (ms : List Nat) : Hw :=
  let others := ms.filter (fun m => match k.slotAt h.bs m with
    | some (_, s) => s.port != port && (s.spec = .tentative || s.spec = .squashed)
    | none => false)
  if others.isEmpty then h.setIn kid { k.count cDup with bad := if fail.isNone then 0 else k.bad }
  else h.setIn kid { k with slots := others.foldl (fun t m =>
      t.mod (k.slotOf h.bs m) (fun s =>
        let other : Alt := { samples := fillBlock h.bs k.cfg.chans m a (s.alt.map (·.samples)), port := port,
                             fail := (s.alt.bind (·.fail)).or fail, seq := a.seq, auth := a.auth, tag := a.tag }
        { s with alt := some other })) k.slots }

/-- BLOCK_ADMIT for a speculative stream: the payload is written as it arrives, TENTATIVE, when the header
is valid and its P selects a slot (R42, R43); a copy from the other port is the slot's alternate (R50). -/
def Hw.admitSpec (h : Hw) (kid : Nat) (k : InKitty) (frameOk : Bool) (port : Option Port) (pkt : Packet) : Hw :=
  match h.parse k.cfg pkt with
  | none => h.setIn kid (k.discard cFormat (h.namedIndex k.cfg pkt))
  | some a =>
    let fail := h.specFail k frameOk a
    let k := if frameOk && a.crcOk then k.resynced h.bs a else k
    let (ms, w) := windowed k h.bs (h.reach k) a
    if ms.isEmpty then h.setIn kid (k.discard w (some a.n))
    else if k.holds h.bs a then h.admitAlt kid k fail port a ms
    else
      let k := h.writeIn k a port .tentative fail ms
      (h.setIn kid k).deckIn k ms

/-- Streams that may be admitted speculatively: network streams of ports A and B (R42). -/
def specSource : Source → Bool
  | .brizu _ => true
  | .rtp _ _ _ _ => true
  | _ => false

/-- A block comes to the kitty itself (R33, R42). -/
def Hw.admitBlock (h : Hw) (kid : Nat) (port : Option Port) (frameOk : Bool) (pkt : Packet) : Hw :=
  match h.inK kid with
  | none => h
  | some k =>
    if k.cfg.spec && specSource k.cfg.src && port.isSome then h.admitSpec kid k frameOk port pkt
    else h.admitNative kid k frameOk port pkt

/-- No slot of the kitty is free yet for a block: its consume tick is more than depth block periods away (R32, R209). -/
def Hw.noSlotYet (h : Hw) (k : InKitty) (pkt : Packet) : Bool :=
  match h.parse k.cfg pkt with
  | some a =>
    let (ms, w) := windowed k h.bs (h.reach k) a
    ms.isEmpty && w == cEarly
  | none => false

/-- BLOCK_ADMIT (R33, R42): where a lining buffer stands ahead of the kitty, a block waits in it until a slot is free for it
and for every block before it (R209). -/
def Hw.blockAdmit (h : Hw) (kid : Nat) (port : Option Port) (frameOk : Bool) (pkt : Packet) : Hw :=
  match h.inK kid with
  | none => h
  | some k =>
    if k.lining.length < min k.cfg.lining 4096 && (!k.lining.isEmpty || h.noSlotYet k pkt) then
      h.setIn kid { k with lining := k.lining ++ [(frameOk, port, pkt)] }
    else h.admitBlock kid port frameOk pkt

/-- The whole blocks of a port in a lining buffer for which slots are free now pass to the kitty (R209). -/
def Hw.linedPass (h : Hw) (kid : Nat) : Hw :=
  match h.inK kid with
  | none => h
  | some k =>
    let go := k.lined.filter (fun s => s.full h.bs && h.reach k s.n != cEarly)
    if go.isEmpty then h
    else
      h.setIn kid (go.foldl (fun k s =>
        let k : InKitty := { k with n0 := some (k.n0.getD s.n) }
        { k with
          slots := k.slots.put (k.slotOf h.bs s.n) s
          firstN := if k.awaiting then some s.n else k.firstN
          awaiting := false }) { k with lined := k.lined.filter (fun s => !go.contains s) })

/-- The blocks of a lining buffer for which slots are free now pass to the kitty, in order and unchanged (R209). -/
def Hw.liningPass (kid : Nat) : Nat → Hw → Hw
  | 0, h => h
  | f + 1, h =>
    match h.inK kid with
    | some k =>
      match k.lining with
      | e :: rest =>
        if h.noSlotYet k e.2.2 then h
        else Hw.liningPass kid f ((h.setIn kid { k with lining := rest }).admitBlock kid e.2.1 e.1 e.2.2)
      | [] => h
    | none => h

/-- STREAM_RESYNC (R36): after 16 consecutive failures P0 is discarded, and the next block that passes checks
1–3 starts the grid anew; the good blocks still waiting are consumed. -/
def Hw.streamResync (h : Hw) (kid : Nat) : Hw :=
  match h.inK kid with
  | none => h
  | some k =>
    if k.bad < 16 then h
    else (h.setIn kid { k with resync := true, bad := 0 }).raiseStream 0x5F k.cfg.streamId

/-- Concealment records of R57: onset and end. -/
def Hw.concealRecord (h : Hw) (kid cause : Nat) : Hw := h.trace 0x08 (leBytes 4 kid ++ leBytes 1 cause)

def Hw.concealEnd (h : Hw) (kid n : Nat) : Hw := h.trace 0x09 (leBytes 4 kid ++ leBytes 4 n)

/-- The block that an input kitty has for media sample index n, when it may be used. -/
def InKitty.due (k : InKitty) (bs n : Nat) : Option Slot :=
  match k.slotAt bs n with
  | some (_, s) => if s.spec != .squashed && s.full bs then some s else none
  | none => none

/-- The cause code of a missing block (R58): the lowest that holds. -/
def InKitty.cause (k : InKitty) (bs n : Nat) : Nat :=
  let a := (k.slotAt bs n).map (fun e => if e.2.spec = .squashed then 4 else if e.2.full bs then 5 else 1)
  let b := (k.causes.find? (fun e => e.1 = n)).map (·.2)
  match a, b with
  | some x, some y => min x y
  | some x, none => x
  | none, some y => y
  | none, none => 1

def silence (chans bs : Nat) : Block := List.replicate chans (List.replicate bs 0)

/-- P of the epoch's blocks: that of a consumed block that was present, else the instant of the index due (R24). -/
def Hw.epochSeen (h : Hw) (n : Nat) (p : Option Nat) : Hw :=
  let e := h.epoch
  match p with
  | some x => if e.pExact then h else { h with epoch := { e with p := some x, pExact := true } }
  | none => { h with epoch := { e with p := some (e.p.getD (h.instant n)) } }

/-- Conceal the block due at kitty k for a cause (R37). -/
def Hw.concealIn (h : Hw) (kid : Nat) (k : InKitty) (n cause : Nat) : Hw :=
  let h := h.epochSeen n none
  let first := k.conceal.run = 0 || k.conceal.cause = 0
  let (blk, c) := k.conceal.miss h.fs h.bs (h.holdIn k.cfg) k.cfg.chans cause
  let h := h.setIn kid { k.count cConceal with conceal := c, before := k.conceal, cur := blk, curConcealed := true, onset := true }
  let e := h.epoch
  let h := { h with epoch := { e with concealed := true } }
  if first then h.concealRecord kid cause else h

/-- Deliver the block due at kitty k. -/
def Hw.deliverIn (h : Hw) (kid : Nat) (k : InKitty) (s : Slot) : Hw :=
  let h := h.epochSeen s.n (some s.p)
  let ended := k.onset
  let run := k.conceal.run
  let (blk, c) := k.conceal.take h.fs h.bs (h.holdIn k.cfg) s.samples
  let h := h.setIn kid { k with
    conceal := c
    before := k.conceal
    cur := blk
    curConcealed := s.concealed
    onset := false
    firstN := none
    silent := 0 }
  let h := if s.spec = .tentative then
    { h with epoch := { h.epoch with ledger := h.epoch.ledger ++ [kid], resolved := false } } else h
  let h := if s.concealed then { h with epoch := { h.epoch with concealed := true } } else h
  if ended then h.concealEnd kid run else h

/-- A consume tick of a kitty that awaits: zeros on every channel, counted in AWAIT alone (R552). -/
def Hw.awaitIn (h : Hw) (kid : Nat) (k : InKitty) (n : Nat) : Hw :=
  (h.epochSeen n none).setIn kid { k.count cAwait with cur := silence k.cfg.chans h.bs, curConcealed := false }

/-- KITTY_CONSUME: the kitty delivers or conceals the block due at the tick of index t (R32, R37, R552). Up to the consume
tick of its first block it goes on delivering zeros, since that block is delivered as it stands (DEDUCED, log entry 55). A squashed block whose other
copy is TENTATIVE keeps the epoch open (R50). -/
def Hw.consume (h : Hw) (kid : Nat) (t : Nat) : Hw :=
  match h.inK kid with
  | none => h
  | some k =>
    let n := t + k.cfg.d * h.bs
    if k.awaiting then h.awaitIn kid k n
    else
      match k.due h.bs n with
      | some s => if k.authFail then h.concealIn kid k n (k.cause h.bs n) else h.deliverIn kid k s
      | none =>
        if k.firstN.any (fun f => n < f) then h.awaitIn kid k n
        else
          let h := (h.concealIn kid { k with firstN := none } n (k.cause h.bs n)).gmacMiss kid n
          if (k.slotAt h.bs n).any (fun e => e.2.spec = .squashed && e.2.alt.isSome) then
            { h with epoch := { h.epoch with ledger := h.epoch.ledger ++ [kid], resolved := false } }
          else h

/-- STREAM_SILENT (R376): 16 consecutive concealed blocks, and again after each further 16, of a stream of
another engine. -/
def Hw.streamSilent (h : Hw) (kid : Nat) : Hw :=
  match h.inK kid with
  | none => h
  | some k =>
    if k.cfg.own || k.conceal.run / 16 ≤ k.silent then h
    else (h.setIn kid { k with silent := k.silent + 1 }).raiseStream 0x60 k.cfg.streamId

/-! ### Output kitties -/

def Hw.outK (h : Hw) (k : Nat) : Option OutKitty := h.kout.find? k

def Hw.setOut (h : Hw) (k : Nat) (x : OutKitty) : Hw := { h with kout := h.kout.put k x }

/-- N(P) and P of the epoch's block of an output kitty: those of the consumed blocks (R24), or, where a generator alone
feeds it, the instant of the tick plus the module's presentation delay (R23). -/
def Hw.epochP (h : Hw) (c : OutCfg) : Nat × Nat :=
  match c.gen, h.epoch.p with
  | some d, _ => (h.epoch.t + d, h.instant (h.epoch.t + d))
  | none, some p => (h.media p, p)
  | none, none => (h.epoch.t, h.instant h.epoch.t)

def OutKitty.slotOf (k : OutKitty) (bs n : Nat) : Nat := ringSlot (k.n0.getD n) k.cfg.depth bs n

/-- What conceals the epoch's block of a kitty, 0 for nothing: the lowest code of R58. -/
def Hw.lostCause (h : Hw) (kid : Nat) : Nat :=
  (h.epoch.lost.filter (fun e => e.1 = kid)).foldl (fun c e => lowerCause c e.2) 0

/-- Write one channel of the epoch's block of an output kitty (R138, R157). -/
def Hw.writeOut (h : Hw) (kid ch : Nat) (x : List Int) : Hw :=
  match h.outK kid with
  | none => h
  | some k =>
    let (n, p) := h.epochP k.cfg
    let k := { k with n0 := some (k.n0.getD n) }
    let i := k.slotOf h.bs n
    let new : OutSlot :=
      { n := n, p := p, samples := silence k.cfg.chans h.bs, epoch := h.epoch.t, cause := h.lostCause kid }
    let s : OutSlot := match k.slots.find? i with
      | some s => if s.n = n then s else new
      | none => new
    let s := { s with samples := s.samples.set ch x, concealed := h.epoch.concealed, epoch := h.epoch.t }
    (h.setOut kid { k with slots := k.slots.put i s, awaiting := false }).wrBytes (slotAddr k.cfg.base k.cfg.chans h.bs i)
      (deckBlock k.cfg.streamId k.seq h.deal.rate.val h.deal.blk.val k.cfg.chans h.bs p s.samples)

/-- At its end the epoch's blocks take the concealed flag where any consumed block was concealed (R40). -/
def Hw.stampConcealed (h : Hw) : Hw :=
  if h.epoch.concealed then
    { h with kout := h.kout.map (fun (e : Nat × OutKitty) => (e.1, { e.2 with slots := e.2.slots.map (fun x =>
        if x.2.epoch = h.epoch.t then (x.1, { x.2 with concealed := true }) else x) })) }
  else h

/-- Network and Gnogo sinks build packets; ports and amplifiers take samples. -/
def sinkIsNet : Sink → Bool
  | .brizu _ => true
  | .rtp _ _ _ _ _ _ => true
  | .gnogo _ => true
  | _ => false

/-- The exit part of a sink in ns (R18): the fixed part, and the frame of a port or the two sample periods of an
amplifier's DAC and loop, rounded up. -/
def Hw.exitNs (h : Hw) (s : Sink) : Nat :=
  match s with
  | .brizu _ => 3800
  | .rtp _ _ _ _ _ _ => 3800
  | .gnogo _ => 1000
  | .sap _ => 500 + ceilDiv 1000000000 h.fs
  | .aes _ => 500 + ceilDiv 1000000000 h.fs
  | .amp _ => 500 + ceilDiv 2000000000 h.fs

/-- The sink lead (R25): exit part, declared external latency, and output compensation, in ns. -/
def Hw.lead (h : Hw) (c : OutCfg) : Nat := h.exitNs c.sink + c.extNs + ceilDiv (c.comp * 1000000000) h.fs

/-- T64 of the release of the block with media sample index n (R25). -/
def Hw.releaseAt (h : Hw) (c : OutCfg) (n : Nat) : Nat := h.instant n - h.lead c

/-- The block is held back: a stream that reaches the sink is still TENTATIVE in its epoch (R45). -/
def Hw.heldBack (h : Hw) (k : OutKitty) (s : OutSlot) : Bool :=
  s.epoch = h.epoch.t && !h.epoch.resolved
    && h.epoch.ledger.any (fun i => k.cfg.specMask.contains i)

/-- The whole RTP packets among the samples from media sample index m on, at most `fuel`: the first index and the samples of
each. Packet boundaries fall at multiples of S (R331). -/
def rtpCut (S : Nat) : Nat → Nat → Block → List (Nat × Block) × Nat × Block
  | 0, m, b => ([], m, b)
  | f + 1, m, b =>
    let len := (b.getD 0 []).length
    let skip := (S - m % S) % S
    if len < skip + S then ([], m, b)
    else
      let r := rtpCut S f (m + skip + S) (b.map (·.drop (skip + S)))
      ((m + skip, b.map (fun l => (l.drop skip).take S)) :: r.1, r.2)

/-- The RTP packets that a released block completes, with their launch times: the block's release time plus (S − 1 − j)
sample periods, j being the position of the packet's last sample in its block (R330, R332). -/
def Hw.rtpPackets (h : Hw) (k : OutKitty) (n : Nat) (b : Block) (offset seqOff ssrc ptype per : Nat) :
    OutKitty × List (Nat × List Byte) :=
  let S := max per 1
  let joined := if (k.rest.getD 0 []).isEmpty then (n, b)
    else (k.restN, k.rest.zipIdx.map (fun e => e.1 ++ b.getD e.2 []))
  let (pk, m, left) := rtpCut S (h.bs + 1) joined.1 joined.2
  ({ k with rest := left, restN := m }, pk.map (fun e =>
    let j : Int := (((e.1 + S - 1) % h.bs : Nat) : Int)
    let at' := ((h.releaseAt k.cfg n : Int) + ((S : Int) - 1 - j) * 1000000000 / (h.fs : Int)).toNat
    (at', beBytes 1 0x80 ++ beBytes 1 (ptype % 128) ++ beBytes 2 ((seqOff + e.1 / S) % 65536)
      ++ beBytes 4 ((e.1 + offset) % 2 ^ 32) ++ beBytes 4 ssrc ++ interleave k.cfg.fmt k.cfg.chans S e.2)))

/-- The Brizu block of a released block (R26–R30, R511). -/
def Hw.brizuBlock (h : Hw) (k : OutKitty) (p : Nat) (b : Block) (concealed muted : Bool) : List Byte :=
  let pay := interleave k.cfg.fmt k.cfg.chans h.bs b
  let tagged := k.cfg.gmac && k.seq % 8 == 7
  let flags := b2n concealed + 2 * b2n (!k.started) + 4 * b2n tagged + 8 * b2n muted
  let hdr : BrizuHdr := { p := p, streamId := k.cfg.streamId, seq := k.seq, chans := k.cfg.chans,
                          format := h.deal.rate.val * 16 + k.cfg.fmt, blk := 64 + h.deal.blk.val,
                          flags := flags, len := pay.length, crc := crc32c pay }
  let body := hdr.bytes ++ pay
  if tagged then body ++ (Config.gmacTag h.txKey (beBytes 4 k.cfg.streamId ++ beBytes 8 p) (k.groupBytes ++ body)).take 16
  else body

/-- The packets of a released block, and the kitty with the samples that wait for the next one. -/
def Hw.buildPackets (h : Hw) (k : OutKitty) (n p : Nat) (b : Block) (concealed muted : Bool) :
    OutKitty × List (Nat × List Byte) :=
  match k.cfg.sink with
  | .rtp _ offset seqOff ssrc ptype per => h.rtpPackets k n b offset seqOff ssrc ptype per
  | _ => (k, [(h.releaseAt k.cfg n, h.brizuBlock k p b concealed muted)])

/-- A block leaves the kitty: mute at network and Gnogo sinks, packets, sequence (R40, R145, R240). -/
def Hw.emit (h : Hw) (kid : Nat) (k : OutKitty) (n p : Nat) (b : Block) (concealed : Bool) : Hw :=
  if sinkIsNet k.cfg.sink then
    let (y, m) := k.mute.block h.fs h.bs b
    let muted := k.mute.muting && k.mute.pos + 1 ≥ muteF h.fs
    let (k, pkts) := if h.flt.netStop then (k, []) else h.buildPackets k n p y concealed muted
    let group := if k.cfg.gmac && k.seq % 8 != 7 then k.groupBytes ++ pkts.flatMap (·.2) else []
    h.setOut kid { k with groupBytes := group, mute := m, sent := y, sentConcealed := concealed, pkts := pkts, started := true,
                          seq := (k.seq + 1) % 4294967296, lastN := some n }
  else h.setOut kid { k with sent := b, sentConcealed := concealed, pkts := [], started := true, lastN := some n }

/-- Conceal the block due at a sink (R40): counted under exactly one of three counters, and in CONCEAL. -/
def Hw.concealOut (h : Hw) (kid : Nat) (k : OutKitty) (n code : Nat) : Hw :=
  let first := k.conceal.run = 0 || k.conceal.cause = 0
  let cnt := if code = 42 then cSpecSquash else if code = 43 then cSpecTimeout else cUnderrun
  let cause := causeCode code
  let (blk, c) := k.conceal.miss h.fs h.bs (h.holdOut k.cfg) k.cfg.chans cause
  let k := { (k.count cConceal).count cnt with conceal := c, onset := true }
  let h := h.emit kid k n (h.instant n) blk true
  if first then h.concealRecord kid cause else h

/-- The N(P) of the block due next at a sink: the one after the last, or the oldest written. -/
def OutKitty.dueN (k : OutKitty) (bs : Nat) : Option Nat :=
  match k.lastN with
  | some n => some (n + bs)
  | none => (k.slots.map (fun e => e.2.n)).min?

/-- The block due is released (R40): the concealed flag is that of its epoch, which may still run. -/
def Hw.releaseSlot (h : Hw) (kid : Nat) (k : OutKitty) (n : Nat) (s : OutSlot) : Hw :=
  let run := k.conceal.run
  let ended := k.onset
  let (b, c) := k.conceal.take h.fs h.bs (h.holdOut k.cfg) s.samples
  let h := h.emit kid { k with conceal := c, onset := false } n s.p b
    (s.concealed || (s.epoch = h.epoch.t && h.epoch.concealed))
  if ended then h.concealEnd kid run else h

/-- KITTY_RELEASE (R25, R40, R552): at P minus the sink lead the block due leaves, or is concealed. -/
def Hw.kittyRelease (h : Hw) (kid : Nat) : Hw :=
  match h.outK kid with
  | none => h
  | some k =>
    if k.awaiting then
      h.setOut kid { k.count cAwait with sent := silence k.cfg.chans h.bs, sentConcealed := false, pkts := [] }
    else
      match k.dueN h.bs with
      | none => h.setOut kid (k.count cAwait)
      | some n =>
        let h := h.advanceTo (h.releaseAt k.cfg n)
        match k.slots.find? (k.slotOf h.bs n) with
        | some s =>
          if s.n != n then h.concealOut kid k n 6
          else if s.cause != 0 then h.concealOut kid k n s.cause
          else if h.heldBack k s then h.concealOut kid k n 6
          else h.releaseSlot kid k n s
        | none => h.concealOut kid k n (lowerCause 6 (if n = (h.epochP k.cfg).1 then h.lostCause kid else 0))

end Sys2Proof.Machine
end

