-- ==== Sys2Proof/Machine/JoineryOps.lean ====
section
/-! DEFINITION. The Joinery (R134–R171, R432–R433, R549–R555): tables in the deck, routes, mixes, filters,
DC blockers, limiters with their rail model, meters and snapshots, and the change queue. -/

namespace Sys2Proof.Machine

/-! ### Tables -/

/-- The internal byte address of table k (R168). -/
def Hw.tbl (h : Hw) (k : Nat) : Nat := deckBase + h.g (Reg.JOIN_TBL_BASE_base k) * 16

/-- Indices of the records of a table that hold a nonzero byte. -/
def Hw.tblUsed (h : Hw) (base size count : Nat) : List Nat :=
  (((h.mem.filter (fun e => base ≤ e.1 && e.1 < base + size * count)).map
    (fun e => (e.1 - base) / size))).dedup

/-- A crosspoint or send record (R141). -/
structure XRec where
  src : Nat
  dst : Nat
  gain : Int
  active : Bool
  departing : Bool
  ramping : Bool
  /-- the change-queue entry of the running ramp, by its place in the order of pushes modulo 1,024 -/
  entry : Nat := 0
deriving DecidableEq, Repr

def Hw.xrec (h : Hw) (a : Nat) : XRec :=
  let st := h.rdN (a + 8) 4
  { src := h.rdN a 2 % 4096, dst := h.rdN (a + 2) 2 % 4096, gain := sext 24 (h.rdN (a + 4) 3),
    active := bitOf st 0, departing := bitOf st 1, ramping := bitOf st 2, entry := h.rdN (a + 12) 4 }

def Hw.setXrec (h : Hw) (a : Nat) (r : XRec) : Hw :=
  h.wrBytes a (leBytes 2 r.src ++ leBytes 2 r.dst ++ leBytes 4 (lowBits 32 r.gain)
    ++ leBytes 4 (b2n r.active + 2 * b2n r.departing + 4 * b2n r.ramping)
    ++ leBytes 4 (if r.ramping then r.entry else 0))

/-- Places of the crosspoint table and of one bus of the send table (R140, R141). -/
def xPlaces : Nat := 18432
def sPlaces : Nat := 1088

def Hw.xpAddr (h : Hw) (p : Nat) : Nat := h.tbl 0 + 16 * p
def Hw.sdAddr (h : Hw) (p : Nat) : Nat := h.tbl 1 + 16 * p

/-- Address of a crosspoint (table 0) or send (table 1) place. -/
def Hw.recAddr (h : Hw) (table p : Nat) : Nat := if table = 0 then h.xpAddr p else h.sdAddr p

def XRec.live (r : XRec) : Bool := r.active || r.departing

/-- Live crosspoints by place. -/
def Hw.xpLive (h : Hw) : List (Nat × XRec) :=
  ((h.tblUsed (h.tbl 0) 16 xPlaces).map (fun p => (p, h.xrec (h.xpAddr p)))).filter (fun e => e.2.live)

/-- Live sends of bus b by place. -/
def Hw.sdLive (h : Hw) (b : Nat) : List (Nat × XRec) :=
  ((h.tblUsed (h.tbl 1 + 16 * sPlaces * b) 16 sPlaces).map
    (fun j => (sPlaces * b + j, h.xrec (h.sdAddr (sPlaces * b + j))))).filter (fun e => e.2.live && e.2.dst = b)

/-- The gain of bus b: a G24 word at 4 × b of table 2 (DESIGN CHOICE, log entry 14). -/
def Hw.busGain (h : Hw) (b : Nat) : Int := sext 24 (h.rdN (h.tbl 2 + 4 * b) 3)

def Hw.setBusGain (h : Hw) (b : Nat) (g : Int) : Hw := h.wrN (h.tbl 2 + 4 * b) 4 (lowBits 32 g)

/-! ### Gains (R142, R164) -/

def rampKey (table place : Nat) : Nat := table * 1048576 + place

/-- The gain of a ramp at sample k from its start. -/
def Ramp.at (r : Ramp) (k : Nat) : Int :=
  match r.kind with
  | 1 => if k + 1 ≥ (if r.len = 0 then 4 else r.len) then 0 else asr (r.g0 * ((scarf r.len r.law k).wout : Int) + 8388608) 24
  | 0 => if k + 1 ≥ scarfLen r.len then r.g1 else rampGain r.g0 r.g1 (scarf r.len r.law k).win
  | _ =>
    let n := if r.len = 0 then 4 else r.len
    if k + 1 ≥ n then r.g1 else rampGain r.g0 r.g1 (fadeIn n k)

/-- Samples a ramp runs. -/
def Ramp.span (r : Ramp) : Nat :=
  match r.kind with
  | 0 => scarfLen r.len
  | _ => if r.len = 0 then 4 else r.len

/-- The gain of a table place at media sample index i. -/
def Hw.gainAt (h : Hw) (key : Nat) (still : Int) (i : Nat) : Int :=
  match h.join.ramps.find? key with
  | some r => if i < r.start then r.g0 else r.at (i - r.start)
  | none => still

/-! ### Sources and sums (R138, R143, R144) -/

def zeros (n : Nat) : List Int := List.replicate n 0

/-- The samples of source endpoint s in this epoch. -/
def Hw.source (h : Hw) (s : Nat) : List Int :=
  let obj := h.g (Reg.JOIN_SRC_object s)
  let ch := h.g (Reg.JOIN_SRC_channel s)
  match h.g (Reg.JOIN_SRC_kind s) with
  | 1 => match h.inK obj with
    | some k => k.cur.getD ch (zeros h.bs)
    | none => zeros h.bs
  | 2 => h.bufs.get (zeros h.bs) obj
  | 3 => h.join.busVal.get (zeros h.bs) obj
  | 4 => h.asrcBlk.get (zeros h.bs) obj
  | _ => zeros h.bs

/-- One term of a sum: the exact product, plus 2^17, shifted right by 18 (R143). -/
def mixTerm (x g : Int) : Int := asr (x * g + 131072) 18

/-- The 48-bit accumulator over the live records at each sample of the epoch (R143). -/
def Hw.accumulate (h : Hw) (table : Nat) (recs : List (Nat × XRec)) : List Int :=
  let srcs := recs.map (fun e => (e, h.source e.2.src))
  (List.range h.bs).map (fun k =>
    srcs.foldl (fun a e =>
      a + mixTerm (nthI e.2 k) (h.gainAt (rampKey table e.1.1) e.1.2.gain (h.epoch.t + k))) 0)

/-- Router destination conversion (R144). -/
def routeConv (a : Int) : Int := satH (asr (a + 2) 2)

/-- The saturation point of a bus headroom code (R170). -/
def headroomBits (c : Nat) : Nat := 31 - c

/-- Bus output conversion (R144). -/
def busConv (head : Nat) (a g : Int) : Int :=
  clampI (-(2 ^ headroomBits head)) (2 ^ headroomBits head - 1) (asr (a * g + 2097152) 22)

/-! ### High-pass filters and DC blockers (R146–R148) -/

/-- One section: exact products in a 64-bit accumulation with first-order error feedback; the output is
rounded half up to H32, and saturated when it is the filter's output. -/
def Biquad.step (s : Biquad) (co : List Int) (x : Int) (last : Bool) : Int × Biquad :=
  let c := fun i => nthI co i
  let acc := sext 64 (lowBits 64 (c 0 * x + c 1 * s.x1 + c 2 * s.x2 + c 3 * s.y1 + c 4 * s.y2 + s.e))
  let y := asr (acc + 268435456) 29
  let out := if last then satH y else y
  (out, { x1 := x, x2 := s.x1, y1 := out, y2 := s.y1, e := acc - y * 536870912 })

/-- The two coefficient sets of a filter record. -/
def hpfCoef (bytes : List Byte) (sec : Nat) : List Int :=
  (List.range 5).map (fun i => sext 32 (leNat (sliceB bytes (8 + 20 * sec + 4 * i) 4)))

def hpfType (bytes : List Byte) : Nat := leNat (sliceB bytes 2 1)

/-- 1/Q of a section with 96 fractional bits: Butterworth of 2nd and 4th order, Linkwitz–Riley of 4th order (R146). -/
def hpfInvQ (type sec : Nat) : Int :=
  match type, sec with
  | 2, 0 => 2 * cosPi 1 8
  | 2, _ => 2 * cosPi 3 8
  | _, _ => 2 * cosPi 1 4

/-- Word j of the coefficients of a filter with 96 fractional bits: the bilinear transform of the high-pass section with the
corner prewarped (R146); `fs` in Hz, `corner` in 0.1 Hz. -/
def hpfDesign (fs type corner j : Nat) : Int :=
  let t := sinPi corner (10 * fs) * fxOne / cosPi corner (10 * fs)
  let q := fxMul (hpfInvQ type (j / 5)) t
  let tt := fxMul t t
  let ratio := fun (v : Int) => v * fxOne / (fxOne + q + tt)
  if type = 1 && 5 ≤ j then 0
  else match j % 5 with
    | 1 => -(ratio (2 * fxOne))
    | 3 => ratio (2 * (fxOne - tt))
    | 4 => -(ratio (fxOne - q + tt))
    | _ => ratio fxOne

/-- The word in Q2.29: one of the two values beside the exact coefficient (log entry 17). -/
def hpfWord (rate type corner j : Nat) : Int :=
  let v := hpfDesign (rateHz rate) type corner j
  asr v 67 + (if v % 2 ^ 67 != 0 && Config.hpfUp rate type corner j then 1 else 0)

/-- A block through a filter record. -/
def hpfRun (bytes : List Byte) (st : HpfSt) (x : List Int) : List Int × HpfSt :=
  match hpfType bytes with
  | 1 => x.foldl (fun (a : List Int × HpfSt) v =>
      let (y, s) := a.2.s1.step (hpfCoef bytes 0) v true; (a.1 ++ [y], { a.2 with s1 := s })) ([], st)
  | 2 | 3 => x.foldl (fun (a : List Int × HpfSt) v =>
      let (y, s) := a.2.s1.step (hpfCoef bytes 0) v false
      let (z, u) := a.2.s2.step (hpfCoef bytes 1) y true
      (a.1 ++ [z], ⟨s, u⟩)) ([], st)
  | _ => (x, st)

def hpfSize : Nat := 48

def Hw.hpfAddr (h : Hw) (i : Nat) : Nat := h.tbl 3 + hpfSize * i

def Hw.hpfBytes (h : Hw) (i : Nat) : List Byte := h.rdBytes (h.hpfAddr i) hpfSize

/-- The filter attached to destination d; one whose record has changed to off still runs its scarf (R164). -/
def Hw.hpfOf (h : Hw) (d : Nat) : Option Nat :=
  (h.tblUsed (h.tbl 3) hpfSize 2048).find? (fun i =>
    let b := h.hpfBytes i
    leNat (sliceB b 0 2) = d && (hpfType b ≠ 0 || (h.join.hpfScarf.find? i).isSome))

/-- Crossfade of two blocks under a running record scarf. -/
def fadeBlocks (t start len : Nat) (law : Bool) (old new : List Int) : List Int :=
  new.zipIdx.map (fun e => xfade (nthI old e.2) e.1 (scarf len law (t + e.2 - start)))

/-- A destination's signal through its filter, with a record change running in parallel (R164, R555). -/
def Hw.hpfApply (h : Hw) (d : Nat) (x : List Int) : List Int × Hw :=
  match h.hpfOf d with
  | none => (x, h)
  | some i =>
    let dsp := h.join.dsp
    let (y, st) := hpfRun (h.hpfBytes i) (dsp.hpf.get {} i) x
    match h.join.hpfScarf.find? i with
    | none => (y, { h with join := { h.join with dsp := { dsp with hpf := dsp.hpf.put i st } } })
    | some r =>
      let (z, so) := hpfRun r.old (dsp.hpfOld.get {} i) x
      (fadeBlocks h.epoch.t r.start r.len r.law z y,
       { h with join := { h.join with dsp := { dsp with hpf := dsp.hpf.put i st, hpfOld := dsp.hpfOld.put i so } } })

/-- One sample through a DC blocker (R148). -/
def DcbSt.step (s : DcbSt) (k : Nat) (x : Int) : Int × DcbSt :=
  let y := clampI (-(2 ^ 63)) (2 ^ 63 - 1) ((x - s.x) * 2 ^ 32 + s.y - asr s.y k)
  (satH (asr (y + 2 ^ 31) 32), ⟨y, x⟩)

def dcbRun (k : Nat) (s : DcbSt) (x : List Int) : List Int × DcbSt :=
  x.foldl (fun (a : List Int × DcbSt) v => let (y, u) := a.2.step k v; (a.1 ++ [y], u)) ([], s)

/-- k of a destination's DC blocker: code 0b111 is taken as 0b110 (R171). -/
def Hw.dcbK (h : Hw) (d : Nat) : Nat := 10 + min (h.g (Reg.JOIN_DST_dcb_k d)) 6

/-- k of the blocker at a limiter: that of its sink's rate (R148). -/
def rateK (rate : Nat) : Nat := if rate < 2 then 13 else if rate < 4 then 14 else 15

/-! ### ROUTE and MIX (R137) -/

/-- Deliver the samples of destination d (R138). -/
def Hw.deliverDst (h : Hw) (d : Nat) (x : List Int) : Hw :=
  let obj := h.g (Reg.JOIN_DST_object d)
  match h.g (Reg.JOIN_DST_kind d) with
  | 1 => { h with bufs := h.bufs.put obj x }
  | 2 => h.writeOut obj (h.g (Reg.JOIN_DST_channel d)) x
  | 3 => { h with join := { h.join with asrcIn := h.join.asrcIn.put obj x } }
  | _ => h

/-- A ROUTE object: destination d, from its converted sum. -/
def Hw.routeFrom (h : Hw) (d : Nat) (sum : List Int) : Hw :=
  let (y, h) := h.hpfApply d (sum.map routeConv)
  let (z, h) :=
    if h.b (Reg.JOIN_DST_dcb_en d) then
      let dsp := h.join.dsp
      let (z, s) := dcbRun (h.dcbK d) (dsp.dcb.get {} d) y
      (z, { h with join := { h.join with dsp := { dsp with dcb := dsp.dcb.put d s } } })
    else (y, h)
  let j := h.join
  let h := { h with join := { j with dstVal := j.dstVal.put d z, routed := d :: j.routed } }
  h.deliverDst d z

def dstUsed (kind : Nat) : Bool := 1 ≤ kind && kind ≤ 3

def Hw.route (h : Hw) (xps : List (Nat × XRec)) (d : Nat) : Hw :=
  if dstUsed (h.g (Reg.JOIN_DST_kind d)) then
    h.routeFrom d (h.accumulate 0 (xps.filter (fun e => e.2.dst = d)))
  else h

/-- A MIX object: bus b. -/
def Hw.mix (h : Hw) (b : Nat) : Hw :=
  let acc := h.accumulate 1 (h.sdLive b)
  let head := h.join.head.get 0 b
  let still := h.busGain b
  let y := acc.zipIdx.map (fun e => busConv head e.1 (h.gainAt (rampKey 2 b) still (h.epoch.t + e.2)))
  let j := h.join
  { h with join := { j with busVal := j.busVal.put b y } }

/-! ### Limiters (R156–R159) and the rail model (R432, R433) -/

/-- A limiter record (R157). -/
structure LimRec where
  inBuf : Nat
  outKitty : Nat
  outChan : Nat
  enable : Bool
  truePk : Bool
  coupled : Bool
  group : Nat
  dcb : Bool
  look : Nat
  thr : Nat
  release : Nat
  hold : Nat
  fsPerV : Nat
  margin : Nat
deriving DecidableEq, Repr

def limRec (b : List Byte) : LimRec :=
  let ctl := leNat (sliceB b 5 1)
  { inBuf := leNat (sliceB b 0 2) % 4096, outKitty := leNat (sliceB b 2 2) % 4096,
    outChan := leNat (sliceB b 4 1), enable := bitOf ctl 0, truePk := bitOf ctl 1, coupled := bitOf ctl 2,
    group := bitsOf ctl 3 2, dcb := bitOf ctl 5, look := min (leNat (sliceB b 6 1)) 64,
    thr := leNat (sliceB b 8 4), release := leNat (sliceB b 12 2), hold := leNat (sliceB b 14 2),
    fsPerV := leNat (sliceB b 16 4), margin := leNat (sliceB b 20 2) }

def Hw.limAddr (h : Hw) (i : Nat) : Nat := h.tbl 4 + 32 * i

def Hw.limBytes (h : Hw) (i : Nat) : List Byte := h.rdBytes (h.limAddr i) 32

/-- β of R156 with 32 fraction bits. -/
def relBeta (fs ms : Nat) : Nat :=
  let e := fxExp (-(fxOne * 1000) / ((max ms 1 * fs : Nat) : Int))
  (asr ((fxOne - e) + 2 ^ 63) 64).toNat

/-- Interpolation factor of the true-peak interpolator: to 352.8 kHz or 384 kHz (R151). -/
def tpFactor (rate : Nat) : Nat := 8 / 2 ^ (rate / 2)

/-- The largest magnitude among the samples that the interpolator's polyphase branches give for the last 16 samples, newest
first, rounded up to an integer (R151, R156): 16 taps a branch, in Q1.30. -/
def truePeak (rate : Nat) (hist : List Int) : Nat :=
  ((List.range (tpFactor rate)).map (fun ph =>
    ceilDiv (((List.range 16).map (fun j => Config.tpCoef (tpFactor rate) ph j * nthI hist j)).sum).natAbs (2 ^ 30))).foldl Nat.max 0

/-- Detector magnitude m[n] of a sample with the samples before it, newest first (R156). -/
def detect (r : LimRec) (rate : Nat) (x : Int) (prev : List Int) : Nat :=
  if r.truePk then truePeak rate (x :: prev.take 15) else x.natAbs

/-- r[n] of R156 with a ceiling that may be absent. -/
def limR (thr m : Nat) (c : Option Nat) : Nat :=
  if m = 0 then 16777216
  else
    let a := min 16777216 (16777216 * thr / m)
    match c with
    | some v => min a (16777216 * v / m)
    | none => a

/-- One sample through a limiter: R156 in order. -/
def LimSt.step (s : LimSt) (r : LimRec) (beta holdN : Nat) (m : Nat) (c : Option Nat) (x : Int) : Int × LimSt :=
  let L := r.look
  let rn := limR r.thr m c
  let rs := (rn :: s.hist.map (·.r)).take (L + 1)
  let hn := rs.foldl Nat.min 16777216
  let hs := (hn :: s.hist.map (·.h)).take (L + 1)
  let a := (hs.foldl (· + ·) 0 + (L + 1 - hs.length) * 16777216) / (L + 1)
  let xs := x :: s.hist.map (·.x)
  let hist := (⟨x, rn, hn⟩ :: s.hist).take 65
  let (g, hold) :=
    if !r.enable then (16777216, s.hold)
    else if a ≤ s.g then (a, holdN)
    else if s.hold > 0 then (s.g, s.hold - 1)
    else (min a (s.g + ceilDiv ((16777216 - s.g) * beta) 4294967296), 0)
  (scale24 (nthI xs L) g, { s with hist := hist, g := g, hold := hold })

/-- A block through a limiter: outputs, the lowest g, the state. -/
def limRun (r : LimRec) (fs rate : Nat) (ceil : Nat → Option Nat) (s : LimSt) (x : List Int) :
    List Int × Nat × LimSt :=
  let beta := relBeta fs r.release
  let holdN := (r.hold * fs + 500) / 1000
  x.zipIdx.foldl (fun (a : List Int × Nat × LimSt) e =>
    let st := a.2.2
    let m := detect r rate e.1 (st.hist.map (·.x))
    let (y, st) := st.step r beta holdN m (ceil e.2) e.1
    (a.1 ++ [y], min a.2.1 st.g, st)) ([], 16777216, s)

/-- Volts of a register field in 1/128 V, in units of 2^−16 V. -/
def v128 (n : Nat) : Nat := n * 512

/-- The clamp of D for a group: v_min–v_max, or folded while therm_warn was 1 at the tick (R432). -/
def Hw.railClamp (h : Hw) (g : Nat) : Nat × Nat :=
  let lo := v128 (h.g (Reg.BOOST_RAIL_v_min g))
  let hi := v128 (h.g (Reg.BOOST_RAIL_v_max g))
  if h.join.warm.contains g then
    let f := v128 (h.g (Reg.BOOST_THERM_fold g))
    (min lo f, min hi f)
  else (lo, hi)

/-- Slew steps per sample in 2^−16 V, rounded down; the field counts 1/256 V/µs. -/
def slewStep (field fs : Nat) : Nat := field * 256 * 1000000 / fs

/-- One step of Vc (R432). -/
def vcStep (d vc up down : Nat) : Nat := if vc ≤ d then min d (vc + up) else max d (vc - down)

/-- Vc(q) for q = q0, q0 + 1, … : `dem` is the demand known at an output index. -/
def vcChain (dem : Nat → Nat) (lo hi K up down : Nat) : Nat → Nat → Nat → List Nat
  | 0, _, _ => []
  | n + 1, q, vc =>
    let d := (List.range K).foldl (fun a j => max a (dem (q + j))) lo
    let v := vcStep (min d hi) vc up down
    v :: vcChain dem lo hi K up down n (q + 1) v

def demKey (g q : Nat) : Nat := g * 2 ^ 72 + q

/-- The amplifier channel that a limiter feeds. -/
def Hw.limChannel (h : Hw) (r : LimRec) : Option Nat :=
  match h.outK r.outKitty with
  | some k => match k.cfg.sink with
    | .amp c => if c.val + r.outChan < 16 then some (c.val + r.outChan) else none
    | _ => none
  | none => none

/-- Demands of one limiter of a group for the epoch's samples: (output index, 2^−16 V). -/
def Hw.limDemands (h : Hw) (g i : Nat) : List (Nat × Nat) :=
  let r := limRec (h.limBytes i)
  match h.limChannel r with
  | none => []
  | some c =>
    if h.g (Reg.AMP_CFG_group c) != g then []
    else if !(h.b (Reg.AMP_CTRL_en c)) then []
    else
      let x := h.bufs.get (zeros h.bs) r.inBuf
      let prev := (h.join.dsp.lim.get {} i).hist.map (·.x)
      if r.coupled && r.enable then
        (x.zipIdx.foldl (fun (a : List (Nat × Nat) × List Int) e =>
          let m := detect r h.deal.rate.val e.1 a.2
          ((h.epoch.t + e.2 + r.look, ceilDiv (m * 65536) (max r.fsPerV 1) + v128 r.margin) :: a.1,
           e.1 :: a.2)) ([], prev)).1
      else
        x.zipIdx.map (fun e => (h.epoch.t + e.2 + r.look, v128 (h.g (Reg.BOOST_RAIL_v_max g))))

/-- The largest demand entered for an output index of a group, 0 for none. -/
def JoinDsp.demandAt (d : JoinDsp) (key : Nat) : Nat :=
  (d.demands.flatMap (fun e => (e.2.filter (fun x => x.1 = key)).map (·.2))).foldl Nat.max 0

/-- The rail model of group g for the epoch: demands enter, Vc is carried over the block, and the chain
beyond it gives the limiters' Vpred. Answers the chain from output index t on. -/
def Hw.railChain (h : Hw) (g : Nat) : List Nat :=
  let (lo, hi) := h.railClamp g
  let K := (1 + h.g (Reg.BOOST_CTRL_la_extra g)) * h.bs
  vcChain (fun q => h.join.dsp.demandAt (demKey g q)) lo hi K
    (slewStep (h.g (Reg.BOOST_SLEW_up g)) h.fs) (slewStep (h.g (Reg.BOOST_SLEW_down g)) h.fs)
    (h.bs + 64) h.epoch.t (h.join.dsp.rail.get lo g)

/-- The demands of limiters for the epoch enter the model before any of them runs (R433). -/
def Hw.railDemands (h : Hw) (lims : List Nat) : Hw :=
  lims.foldl (fun (h : Hw) i =>
    let ds := (List.range 4).flatMap (fun g => (h.limDemands g i).map (fun e => (demKey g e.1, e.2)))
    let j := h.join
    let d := j.dsp
    { h with join := { j with dsp := { d with demands := d.demands.put i (d.demands.get [] i ++ ds) } } }) h

/-- Demands of output indices before t are used. -/
def Hw.railForget (h : Hw) (t : Nat) : Hw :=
  let j := h.join
  let d := j.dsp
  { h with join := { j with dsp := { d with
      demands := (d.demands.map (fun (e : Nat × List (Nat × Nat)) => (e.1, e.2.filter (fun x => x.1 % 2 ^ 72 ≥ t)))).filter
        (fun e => !e.2.isEmpty) } } }

/-- Vc stands at the block's last index, and its targets travel with the samples. It starts from the block-start value, so
that a replay computes the same chain (R433). -/
def Hw.railClose (h : Hw) : Hw :=
  let chains := (List.range 4).map (fun g => (g, h.railChain g))
  let j := h.join
  let d := j.dsp
  { h with join := { j with
      targets := chains.foldl (fun t e => t.put e.1 (e.2.take h.bs)) j.targets
      dsp := { d with
        rail := chains.foldl (fun t e => t.put e.1 (e.2.getD (h.bs - 1) 0)) d.rail } } }

/-- The ceiling C[n] of R158 at sample k of the epoch. -/
def ceiling (chain : List Nat) (r : LimRec) (k : Nat) : Option Nat :=
  if r.coupled then some ((chain.getD (k + r.look) 0 - v128 r.margin) * r.fsPerV / 65536) else none

/-- A block through one limiter record and its DC blocker: outputs, the lowest g, the state (R148, R156–R158). -/
def Hw.limThrough (h : Hw) (r : LimRec) (s : LimSt) (x : List Int) : List Int × Nat × LimSt :=
  let chain := if r.coupled then h.railChain r.group else []
  let (y, low, st) := limRun r h.fs h.deal.rate.val (ceiling chain r) s x
  if r.dcb then
    let (z, d) := dcbRun (rateK h.deal.rate.val) st.dcb y
    (z, low, { st with dcb := d })
  else (y, low, st)

/-- A LIMIT object: limiter i. During a record change the old record runs on its own input beside the new one, each with its
own blocker, and their outputs crossfade (R164). -/
def Hw.limit (h : Hw) (i : Nat) : Hw :=
  let r := limRec (h.limBytes i)
  let x := h.bufs.get (zeros h.bs) r.inBuf
  let (y, low, st) := h.limThrough r (h.join.dsp.lim.get {} i) x
  let (z, h) := match h.join.limScarf.find? i with
    | none => (y, h)
    | some sc =>
      let ro := limRec sc.old
      let (w, _, so) := h.limThrough ro (h.join.dsp.limOld.get {} i) (h.bufs.get (zeros h.bs) ro.inBuf)
      let j := h.join
      (fadeBlocks h.epoch.t sc.start sc.len sc.law w y,
       { h with join := { j with dsp := { j.dsp with limOld := j.dsp.limOld.put i so } } })
  let j := h.join
  let h := { h with join := { j with
    dsp := { j.dsp with lim := j.dsp.lim.put i st }
    limIn := j.limIn.put i x, limOut := j.limOut.put i z
    epochGr := if r.enable && !j.dead.lims.contains i then j.epochGr ++ [(i, low)] else j.epochGr } }
  h.writeOut r.outKitty r.outChan z

/-! ### Meters (R149–R155) -/

structure MeterRec where
  kind : Nat
  fall : Nat
  tau : Nat
  tpeak : Bool
  object : Nat
deriving DecidableEq, Repr

def Hw.meterAddr (h : Hw) (i : Nat) : Nat := h.tbl 5 + 8 * i

def Hw.meterRec (h : Hw) (i : Nat) : MeterRec :=
  let ctl := h.rdN (h.meterAddr i + 1) 1
  { kind := h.rdN (h.meterAddr i) 1, fall := bitsOf ctl 0 3, tau := bitsOf ctl 3 3, tpeak := bitOf ctl 6,
    object := h.rdN (h.meterAddr i + 2) 2 % 4096 }

def MeterRec.on (m : MeterRec) : Bool := 1 ≤ m.kind && m.kind ≤ 4

/-- The watched samples of a meter point. -/
def Hw.watched (h : Hw) (m : MeterRec) : List Int :=
  match m.kind with
  | 1 => h.source m.object
  | 2 => h.join.dstVal.get (zeros h.bs) m.object
  | 3 => h.join.limIn.get (zeros h.bs) m.object
  | _ => h.join.limOut.get (zeros h.bs) m.object

/-- The clip limits of a sink's format: amplifier sinks take L24 (R149, R153). -/
def Hw.sinkClip (h : Hw) (k : Nat) : Int × Int :=
  let f := match h.outK k with
    | some o => (match o.cfg.sink with
      | .amp _ => 2
      | _ => o.cfg.fmt)
    | none => 4
  match f with
  | 1 => (2 ^ 28 - 12288, -(2 ^ 28) + 4095)
  | 2 => (2 ^ 28 - 48, -(2 ^ 28) + 15)
  | 3 => (2 ^ 28, -(2 ^ 28))
  | _ => (2 ^ 31 - 1, -(2 ^ 31))

/-- The clip point of a meter (R149, R153): a sample at or beyond either limit clips. -/
def Hw.clipPoint (h : Hw) (m : MeterRec) : Int × Int :=
  match m.kind with
  | 1 =>
    if h.g (Reg.JOIN_SRC_kind m.object) = 3 then
      let n := headroomBits (h.join.head.get 0 (h.g (Reg.JOIN_SRC_object m.object)))
      (2 ^ n - 1, -(2 ^ n))
    else (2 ^ 31 - 1, -(2 ^ 31))
  | 2 =>
    if h.g (Reg.JOIN_DST_kind m.object) = 2 then h.sinkClip (h.g (Reg.JOIN_DST_object m.object))
    else (2 ^ 31 - 1, -(2 ^ 31))
  | 4 => h.sinkClip (limRec (h.limBytes m.object)).outKitty
  | _ => (2 ^ 31 - 1, -(2 ^ 31))

/-- Fall rate in 0.1 dB/s (R150); none restarts at each snapshot. -/
def fallRate (c : Nat) : Option Nat :=
  match c with
  | 1 => some 86
  | 2 => some 118
  | 3 => some 200
  | 4 => some 400
  | _ => none

/-- RMS time constant in ms (R152). -/
def tauMs (c : Nat) : Nat :=
  match c with
  | 0 => 35
  | 1 => 125
  | 2 => 300
  | 3 => 1000
  | 4 => 3000
  | _ => 125

/-- The block of one epoch through a meter point (R150–R153). -/
def MeterSt.run (s : MeterSt) (r : MeterRec) (fs rate : Nat) (clip : Int × Int) (tick : Nat) (x : List Int) :
    MeterSt :=
  let d : Int := match fallRate r.fall with
    | some q => fxDb (-(q : Int)) (10 * fs)
    | none => fxOne
  let alpha := fxOne - fxExp (-(fxOne * 1000) / ((tauMs r.tau * fs : Nat) : Int))
  x.foldl (fun s v =>
    let m := min v.natAbs 2147483647
    let hist := (v :: s.hist).take 16
    let tp := if r.tpeak then truePeak rate hist else 0
    let hit := v ≥ clip.1 || v ≤ clip.2
    { s with
      p := max (m * 2 ^ 32) (fxMul s.p d).toNat
      tp := if r.tpeak then max (tp * 2 ^ 32) (fxMul s.tp d).toNat else 0
      ms := ((s.ms : Int) + fxMul alpha (v * v * 2 ^ 18 - (s.ms : Int))).toNat
      clip := if hit then (s.clip + 1) % 4294967296 else s.clip
      clipped := s.clipped || hit
      hold := max s.hold m
      holdT64 := if m > s.hold then tick else s.holdT64
      hist := hist }) s

/-- The epoch's samples of a point stand in the shadow accumulation (R46). -/
def Hw.shadow (h : Hw) (i : Nat) (x : List Int) : Hw :=
  let j := h.join
  { h with join := { j with epochMeters := (j.epochMeters.filter (fun e => e.1 != i)) ++ [(i, x)] } }

/-- A METER object: the point's samples join the epoch's shadow accumulation, unless its signal was concealed under R49
in this epoch (R46). -/
def Hw.meter (h : Hw) (i : Nat) : Hw :=
  let m := h.meterRec i
  if m.on && !h.join.dead.points.contains i then h.shadow i (h.watched m) else h

/-- The shadow accumulation of a resolved epoch is merged (R46, R153, R159). -/
def Hw.mergeMeters (h : Hw) : Hw :=
  let tick := h.epoch.tick
  let h1 := h.join.epochMeters.foldl (fun h e =>
    let r := h.meterRec e.1
    let j := h.join
    { h with join := { j with
        meters := j.meters.put e.1 ((j.meters.get {} e.1).run r h.fs h.deal.rate.val (h.clipPoint r) tick e.2) } }) h
  let h2 := h.join.epochGr.foldl (fun h e =>
    let j := h.join
    let s := j.gr.get {} e.1
    let s := { s with low := min s.low e.2, t64 := if e.2 < s.low then tick else s.t64,
                      interval := min s.interval e.2 }
    { h with join := { j with gr := j.gr.put e.1 s } }) h1
  let j := h2.join
  { h2 with join := { j with epochMeters := [], epochGr := [] } }

/-- The ledger is empty: the epoch has resolved, and the shadow merges (R46). -/
def Hw.resolveEpoch (h : Hw) : Hw :=
  let h := h.mergeMeters
  let e := h.epoch
  { h with epoch := { e with resolved := true, ledger := [] } }

/-- A level in Q8.8 dB relative to R3, within ±0.01 dB of the exact value (R155): the error is an open value
of at most two units. -/
def dbField (h : Hw) (salt : Nat) (v : Option Int) : Nat :=
  match v with
  | none => 0x8000
  | some q =>
    let q := q + clampI (-2) 2 (Config.meterError h.fresh salt)
    if q < -32765 then 0x8000 else if q > 32767 then 0x7FFF else lowBits 16 q

def ampDb (p32 : Nat) : Option Int := if p32 = 0 then none else some (dbAmp88 p32 (2 ^ 60))

def msDb (ms : Nat) : Option Int := if ms = 0 then none else some (dbPow88 ms (2 ^ 74))

/-- A gain reduction −20 log10 g in positive Q8.8; g = 0 counts as 2^−24 (R155, R159). -/
def grDb (g : Nat) : Nat := min 0x7FFF (dbAmp88 16777216 (max g 1)).toNat

/-- The record of one meter point in a snapshot (R155). -/
def Hw.snapRec (h : Hw) (i : Nat) : List Byte :=
  let r := h.meterRec i
  let s := h.join.meters.get {} i
  let low := (h.join.gr.get {} r.object).interval
  let gr := if r.kind = 4 then grDb low else 0
  leBytes 2 i ++ leBytes 2 (b2n s.clipped + 2 * b2n (r.kind = 4 && low < 16777216))
    ++ leBytes 2 (dbField h (4 * i) (ampDb s.p))
    ++ leBytes 2 (if r.tpeak then dbField h (4 * i + 1) (ampDb s.tp) else 0x8000)
    ++ leBytes 2 (dbField h (4 * i + 2) (msDb s.ms)) ++ leBytes 2 gr ++ leBytes 4 s.clip

/-- The meter points in use. -/
def Hw.metersOn (h : Hw) : List Nat :=
  (h.tblUsed (h.tbl 5) 8 4096).filter (fun i => (h.meterRec i).on)

/-- Bytes of one snapshot area: header and 4,096 records (DESIGN CHOICE, log entry 15). -/
def snapArea : Nat := 65568

/-- The snapshot of the covered epochs is gathered as the last of them ends, and the intervals begin anew (R154): the bytes
after the header's sequence, and the records. -/
def Hw.snapGather (h : Hw) : Hw :=
  let j := h.join
  let pts := h.metersOn
  let hdr := leBytes 8 j.lastResolved ++ leBytes 2 pts.length ++ leBytes 1 (min j.covered 255)
    ++ leBytes 1 (b2n h.uncertain + 2 * b2n j.covConcealed) ++ leBytes 12 0
  { h with
    fresh := h.fresh + 1
    join := { j with
      covered := 0
      covConcealed := false
      snapReady := some (pts.length, hdr ++ pts.flatMap h.snapRec)
      meters := j.meters.map (fun (e : Nat × MeterSt) => (e.1, { e.2 with
        clipped := false
        p := if (fallRate (h.meterRec e.1).fall).isNone then 0 else e.2.p
        tp := if (fallRate (h.meterRec e.1).fall).isNone then 0 else e.2.tp }))
      gr := j.gr.map (fun (e : Nat × GrSt) => (e.1, { e.2 with interval := 16777216 })) } }

/-- The end of an epoch that has resolved, for the snapshots (R154): an epoch counts when snap_en was 1 from its tick on. -/
def Hw.coverEpoch (h : Hw) : Hw :=
  let n := h.g Reg.JOIN_SNAP_CFG_interval
  if h.b Reg.JOIN_CTRL_snap_en && h.join.snapSince then
    let j := h.join
    let h : Hw := { h with join := { j with covered := j.covered + 1, covConcealed := j.covConcealed || h.epoch.concealed,
                                            lastResolved := h.epoch.tick } }
    if n != 0 && n ≤ h.join.covered then h.snapGather else h
  else h

/-- snap_en is cleared: the next count starts at the tick after it is set again (R154). -/
def Hw.snapRestart (h : Hw) : Hw :=
  { h with join := { h.join with snapSince := false, covered := 0, covConcealed := false } }

/-- Snapshots count epochs from the tick at which snap_en is 1 (R154). -/
def Hw.snapTick (h : Hw) : Hw :=
  let j := h.join
  let on := h.b Reg.JOIN_CTRL_snap_en
  { h with join := { j with snapSince := on, covered := if on && j.snapSince then j.covered else 0,
                            covConcealed := on && j.snapSince && j.covConcealed } }

/-- METER_SNAPSHOT (R154, R155): the area that does not hold the latest snapshot is written, its header's sequence last, and
JOIN_SNAP_SEQ follows. -/
def Hw.meterSnapshot (h : Hw) : Hw :=
  match h.join.snapReady with
  | none => h
  | some (_, body) =>
    let seq := h.g Reg.JOIN_SNAP_SEQ_seq + 1
    let area := 1 - h.g Reg.JOIN_SNAP_SEQ_area
    let base := h.tbl 6 + area * snapArea
    let h := (h.wrBytes (base + 8) body).wrBytes base (leBytes 4 0x4A4D5331 ++ leBytes 4 seq)
    let h := (h.p Reg.JOIN_SNAP_SEQ_seq seq).p Reg.JOIN_SNAP_SEQ_area area
    let j := h.join
    ({ h with join := { j with snapReady := none } } : Hw).s1 Reg.HOST_IRQ_STAT_snap

/-! ### The change queue (R161–R166, R553, R554) -/

/-- JOIN_CHG_LEVEL.free follows the queue (R169). -/
def Hw.setQueue (h : Hw) (q : List Queued) : Hw :=
  let j := h.join
  let h' : Hw := { h with join := { j with queue := q } }
  h'.p Reg.JOIN_CHG_LEVEL_free (1024 - q.length)

/-- Queue an entry: a reserved kind is discarded at the push, a full queue sets chg_full (R161, R169). -/
def Hw.pushChange (h : Hw) (c : Change) : Hw :=
  if c.kind = 0 || c.kind > 0xA then h
  else if h.join.queue.length ≥ 1024 then h.s1 Reg.JOIN_STATUS_chg_full
  else
    let o := h.join.order
    let j := h.join
    let h := { h with join := { j with order := o + 1 } }
    h.setQueue (h.join.queue ++ [⟨c, o⟩])

/-- CHANGE_PUSH: the five staged words become one entry (R169); push is cleared when queued. -/
def Hw.changePush (h : Hw) : Hw :=
  let len := h.g Reg.JOIN_CHG_CTL_len
  let c : Change :=
    { t64 := h.g Reg.JOIN_CHG_T64_LO_t64 + h.g Reg.JOIN_CHG_T64_HI_t64 * 2 ^ 32
      kind := h.g Reg.JOIN_CHG_TGT_kind
      a := h.g Reg.JOIN_CHG_TGT_a
      b := h.g Reg.JOIN_CHG_TGT_b
      value := sext 24 (h.g Reg.JOIN_CHG_VAL_value)
      len := min len 1024
      law := h.b Reg.JOIN_CHG_CTL_law }
  (h.pushChange c).s0 Reg.JOIN_CHG_CTL_push

/-- The target of an entry: changes to one target have equal keys (R165). -/
def chgTarget (c : Change) : Nat × Nat × Nat :=
  match c.kind with
  | 1 | 2 | 3 => (1, c.a, c.b)
  | 4 | 5 | 6 => (2, c.a, c.b)
  | 7 => (3, c.b, 0)
  | k => (k, c.a, 0)

def Hw.chgBad (h : Hw) : Hw := h.s1 Reg.JOIN_STATUS_chg_bad

/-- Start a ramp on a table place. -/
def Hw.startRamp (h : Hw) (table place : Nat) (r : Ramp) : Hw :=
  let j := h.join
  { h with join := { j with ramps := j.ramps.put (rampKey table place) r } }

/-- The gain a place has reached at the end of the previous block: its gain at the sample before index t. -/
def Hw.gainBefore (h : Hw) (key : Nat) (still : Int) (t : Nat) : Int :=
  match h.join.ramps.find? key with
  | some r => if t ≤ r.start then r.g0 else r.at (t - 1 - r.start)
  | none => still

/-- The live record of a target in a table, with its place. -/
def Hw.findRec (h : Hw) (table : Nat) (c : Change) : Option (Nat × XRec) :=
  (if table = 0 then h.xpLive else h.sdLive c.b).find? (fun e => e.2.src = c.a && e.2.dst = c.b)

/-- The lowest free place for a new record. -/
def Hw.freePlace (h : Hw) (table : Nat) (b : Nat) : Option Nat :=
  if table = 0 then
    let used := h.xpLive.map (·.1)
    (List.range (used.length + 1)).find? (fun p => !used.contains p && p < xPlaces)
  else
    let used := (h.sdLive b).map (·.1)
    ((List.range (used.length + 1)).map (fun j => sPlaces * b + j)).find?
      (fun p => !used.contains p && p < sPlaces * (b + 1))

def g24 (v : Int) : Int := sext 24 (lowBits 24 v)

/-- A gain change of a live, staying record (R164); a departing record keeps its departure (DESIGN CHOICE, log entry 58). -/
def Hw.applyGain (h : Hw) (table place : Nat) (r : XRec) (q : Queued) (t : Nat) : Hw :=
  let c := q.c
  if r.departing then h
  else
  let g0 := h.gainBefore (rampKey table place) r.gain t
  let h := h.setXrec (h.recAddr table place) { r with gain := g24 c.value, ramping := true, entry := q.order % 1024 }
  h.startRamp table place ⟨g0, g24 c.value, 2, t, c.len, c.law, false⟩

/-- A creation: a new record from gain 0, a departing one from its present gain, a staying one as a gain
change (R164, R165, R554). -/
def Hw.applyCreate (h : Hw) (table : Nat) (q : Queued) (t : Nat) : Hw :=
  let c := q.c
  match h.findRec table c with
  | some (p, r) =>
    if r.departing then
      let g0 := h.gainBefore (rampKey table p) r.gain t
      let h := h.setXrec (h.recAddr table p) { r with gain := g24 c.value, active := true, departing := false,
                                                      ramping := true, entry := q.order % 1024 }
      h.startRamp table p ⟨g0, g24 c.value, 0, t, c.len, c.law, false⟩
    else h.applyGain table p r q t
  | none =>
    match h.freePlace table c.b with
    | none => h.chgBad
    | some p =>
      let h := h.setXrec (h.recAddr table p)
        { src := c.a, dst := c.b, gain := g24 c.value, active := true, departing := false, ramping := true,
          entry := q.order % 1024 }
      h.startRamp table p ⟨0, g24 c.value, 0, t, c.len, c.law, false⟩

/-- A removal: the record departs, ramping from its present gain to 0 under the old path's weights. -/
def Hw.applyRemove (h : Hw) (table : Nat) (q : Queued) (t : Nat) : Hw :=
  let c := q.c
  match h.findRec table c with
  | some (p, r) =>
    if r.departing then h.chgBad
    else
      let g0 := h.gainBefore (rampKey table p) r.gain t
      let h := h.setXrec (h.recAddr table p) { r with active := false, departing := true, ramping := true,
                                                          entry := q.order % 1024 }
      h.startRamp table p ⟨g0, 0, 1, t, c.len, c.law, true⟩
  | none => h.chgBad

/-- Parameter ID, instance and value of a change's trace record (R553). -/
def chgRecord (c : Change) (mtype : Nat) (delay : Nat) : Nat × Nat × Int :=
  match c.kind with
  | 1 | 2 | 3 => (5 * 2 ^ 24 + c.kind, c.a + c.b * 65536, if c.kind = 3 then 0 else g24 c.value)
  | 4 | 5 | 6 => (5 * 2 ^ 24 + c.kind, c.a + c.b * 65536, if c.kind = 6 then 0 else g24 c.value)
  | 7 => (4 * 2 ^ 24 + 7, c.b, g24 c.value)
  | 8 => (7 * 2 ^ 24 + 8, c.a, c.value)
  | 9 => (6 * 2 ^ 24 + 9, c.a, c.value)
  | _ => (0x10 * 2 ^ 24 + mtype * 256 + 0xA, c.a, (delay : Int))

/-- The staging slot that an entry names: a number above 255 names none. -/
def chgSlot (c : Change) : Nat := lowBits 24 c.value

/-- The section states that a new filter record starts from: those of the sections that the old record uses, zero for the
others (R555). -/
def hpfStart (old : List Byte) (st : HpfSt) : HpfSt :=
  match hpfType old with
  | 1 => { st with s2 := {} }
  | 2 | 3 => st
  | _ => {}

/-- A change of a high-pass filter record: old and new run in parallel (R164, R555). -/
def Hw.applyHpf (h : Hw) (c : Change) (t : Nat) : Hw :=
  match h.join.staging.get .none (chgSlot c) with
  | .hpf bytes =>
    if h.deal.filters.contains c.a then
      let old := h.hpfBytes c.a
      let j := h.join
      let st := j.dsp.hpf.get {} c.a
      let h := { h with join := { j with
        hpfScarf := j.hpfScarf.put c.a ⟨old, t, c.len, c.law⟩
        dsp := { j.dsp with hpfOld := j.dsp.hpfOld.put c.a st, hpf := j.dsp.hpf.put c.a (hpfStart old st) } } }
      h.wrBytes (h.hpfAddr c.a) (padB hpfSize bytes)
    else h.chgBad
  | _ => h.chgBad

/-- A change of a limiter record (R164, R555). -/
def Hw.applyLim (h : Hw) (c : Change) (t : Nat) : Hw :=
  match h.join.staging.get .none (chgSlot c) with
  | .limiter bytes =>
    if h.deal.limiters.contains c.a then
      let old := h.limBytes c.a
      let j := h.join
      let h := { h with join := { j with
        limScarf := j.limScarf.put c.a ⟨old, t, c.len, c.law⟩
        dsp := { j.dsp with limOld := j.dsp.limOld.put c.a (j.dsp.lim.get {} c.a) } } }
      h.wrBytes (h.limAddr c.a) (padB 32 bytes)
    else h.chgBad
  | _ => h.chgBad

/-- A change of a delay tap: the Joinery writes nxt, start, len, law and state = 1 (R178). -/
def Hw.applyTap (h : Hw) (c : Change) (t : Nat) : Hw :=
  match h.join.staging.get .none (chgSlot c), h.join.tapRec.find? c.a with
  | .delay d, some a =>
    (((h.wrN (a + 4) 4 (d % 2 ^ 26)).wrN (a + 8) 8 t).wrN (a + 16) 2 c.len).wrBytes (a + 18)
      (leBytes 1 (b2n c.law) ++ leBytes 1 1)
  | _, _ => h.chgBad

/-- Apply one entry at the tick of index t. -/
def Hw.applyOne (h : Hw) (q : Queued) (t : Nat) : Hw :=
  let c := q.c
  match c.kind with
  | 1 => match h.findRec 0 c with
    | some (p, r) => h.applyGain 0 p r q t
    | none => h.chgBad
  | 2 => h.applyCreate 0 q t
  | 3 => h.applyRemove 0 q t
  | 4 => match h.findRec 1 c with
    | some (p, r) => h.applyGain 1 p r q t
    | none => h.chgBad
  | 5 => h.applyCreate 1 q t
  | 6 => h.applyRemove 1 q t
  | 7 =>
    if h.deal.buses.contains c.b then
      let g0 := h.gainBefore (rampKey 2 c.b) (h.busGain c.b) t
      (h.setBusGain c.b (g24 c.value)).startRamp 2 c.b ⟨g0, g24 c.value, 2, t, c.len, c.law, false⟩
    else h.chgBad
  | 8 => h.applyHpf c t
  | 9 => h.applyLim c t
  | _ => h.applyTap c t

/-- The mtype of the delay module that owns a tap: 0x0021 where the module has fractional taps (R200). -/
def Hw.tapType (h : Hw) (tap : Nat) : Nat :=
  if h.deal.tasks.any (fun t => match t.module with
    | .delay _ _ taps frac => frac && taps.any (fun x => x.tap = tap)
    | _ => false) then 0x0021 else 0x0020

def Hw.stagedDelay (h : Hw) (c : Change) : Nat :=
  match h.join.staging.get .none (chgSlot c) with
  | .delay d => d
  | _ => 0

/-- Apply an entry and write its trace record unless it was bad (R166, R554). -/
def Hw.applyEntry (h : Hw) (q : Queued) (t tick : Nat) : Hw :=
  let c := q.c
  let was := h.g Reg.JOIN_STATUS_chg_bad
  let h' := (h.s0 Reg.JOIN_STATUS_chg_bad).applyOne q t
  if h'.b Reg.JOIN_STATUS_chg_bad then h'
  else
    let (p, i, v) := chgRecord c (h.tapType c.a) (h.stagedDelay c)
    (h'.p Reg.JOIN_STATUS_chg_bad was).traceChange tick p i v

/-- A removal and a creation of crosspoints of one destination under one commit are a change of its source (R164). -/
def isSourceChange (due : List Queued) (c : Change) : Bool :=
  (c.kind = 2 || c.kind = 3) && due.any (fun q => q.c.kind = 5 - c.kind && q.c.b = c.b && q.c.a != c.a && q.c.t64 = c.t64)

/-- A creation or a removal ramp runs on a crosspoint of destination d. -/
def Hw.scarfOn (h : Hw) (d : Nat) : Bool :=
  h.xpLive.any (fun e => e.2.dst = d && (h.join.ramps.find? (rampKey 0 e.1)).any (fun r => r.kind != 2))

/-- A source, record or tap change waits while a scarf on its target runs (R165, R178). -/
def Hw.mustWait (h : Hw) (due : List Queued) (c : Change) : Bool :=
  match c.kind with
  | 8 => (h.join.hpfScarf.find? c.a).isSome
  | 9 => (h.join.limScarf.find? c.a).isSome
  | 0xA => match h.join.tapRec.find? c.a with
    | some a => h.rdN (a + 19) 1 = 1
    | none => false
  | _ => isSourceChange due c && h.scarfOn c.b

/-- Of entries for one target with one effective tick, only the one pushed last applies (R165). -/
def lastOfTarget : List Queued → List Queued
  | [] => []
  | q :: t => if t.any (fun x => chgTarget x.c = chgTarget q.c) then lastOfTarget t else q :: lastOfTarget t

/-- CHANGE_APPLY at the tick of index t and T64 tick; `prev` is the T64 of the tick before (R161). -/
def Hw.applyChanges (h : Hw) (t tick : Nat) (prev : Option Nat) : Hw :=
  if !h.b Reg.JOIN_CTRL_run then h
  else
    let due := h.join.queue.filter (fun q => q.c.t64 ≤ tick)
    let held := due.filter (fun q => h.mustWait due q.c)
    let now := lastOfTarget (due.filter (fun q => !h.mustWait due q.c))
    let h := h.setQueue (h.join.queue.filter (fun q => q.c.t64 > tick || held.contains q))
    now.foldl (fun h q =>
      let late := match prev with
        | some p => decide (q.c.t64 ≤ p)
        | none => false
      (if late then h.s1 Reg.JOIN_STATUS_chg_late else h).applyEntry q t tick) h

/-- SCARF_END: ramps and scarfs whose last sample lies before index t end; departing records are freed, and
steady records drop their ramp bit (R164). -/
def Hw.scarfEnd (h : Hw) (t : Nat) : Hw :=
  let done := h.join.ramps.filter (fun e => e.2.start + e.2.span ≤ t)
  let h := done.foldl (fun h e =>
    let table := e.1 / 1048576
    let place := e.1 % 1048576
    let j := h.join
    let h := { h with join := { j with ramps := j.ramps.del e.1 } }
    if table = 2 then h
    else
      let a := h.recAddr table place
      if e.2.removal then h.wrBytes a (List.replicate 16 0)
      else h.setXrec a { h.xrec a with ramping := false }) h
  let j := h.join
  let fin := fun (e : Nat × RecScarf) => decide (e.2.start + scarfLen e.2.len ≤ t)
  { h with join := { j with
    hpfScarf := j.hpfScarf.filter (fun e => !fin e)
    limScarf := j.limScarf.filter (fun e => !fin e) } }

/-! ### The schedule (R134–R137) -/

structure SchedEntry where
  kind : Nat
  phase : Bool
  waitEn : Bool
  waitFlag : Nat
  first : Nat
  count : Nat
deriving DecidableEq, Repr

def Hw.sched (h : Hw) (i : Nat) : SchedEntry :=
  { kind := h.g (Reg.JOIN_SCHED_ACT0_kind i), phase := h.b (Reg.JOIN_SCHED_ACT0_phase i),
    waitEn := h.b (Reg.JOIN_SCHED_ACT0_wait_en i), waitFlag := h.g (Reg.JOIN_SCHED_ACT0_wait_flag i),
    first := h.g (Reg.JOIN_SCHED_ACT1_first i), count := h.g (Reg.JOIN_SCHED_ACT1_count i) }

/-- The enabled entries of the active schedule; one of a reserved kind is skipped (R135, R137). -/
def Hw.schedOn (h : Hw) : List Nat :=
  (List.range 256).filter (fun i => h.b (Reg.JOIN_SCHED_ACT0_enable i) && h.g (Reg.JOIN_SCHED_ACT0_kind i) ≤ 4)

def schedPairs (i : Nat) : List (RF × RF) :=
  [(Reg.JOIN_SCHED_ACT0_kind i, Reg.JOIN_SCHED_SHD0_kind i),
   (Reg.JOIN_SCHED_ACT0_phase i, Reg.JOIN_SCHED_SHD0_phase i),
   (Reg.JOIN_SCHED_ACT0_wait_en i, Reg.JOIN_SCHED_SHD0_wait_en i),
   (Reg.JOIN_SCHED_ACT0_wait_flag i, Reg.JOIN_SCHED_SHD0_wait_flag i),
   (Reg.JOIN_SCHED_ACT0_enable i, Reg.JOIN_SCHED_SHD0_enable i),
   (Reg.JOIN_SCHED_ACT1_first i, Reg.JOIN_SCHED_SHD1_first i),
   (Reg.JOIN_SCHED_ACT1_count i, Reg.JOIN_SCHED_SHD1_count i)]

/-- JOIN_SCHED_SWAP_APPLY (R134). -/
def Hw.schedSwap (h : Hw) : Hw :=
  let h := (List.range 256).foldl (fun h i => h.swapF (schedPairs i)) h
  (h.p Reg.JOIN_SCHED_SWAP_act_sel (1 - h.g Reg.JOIN_SCHED_SWAP_act_sel)).s0 Reg.JOIN_SCHED_SWAP_swap_req

/-- The objects of an entry, first to first + count − 1, below the number of such objects. -/
def SchedEntry.objects (e : SchedEntry) (limit : Nat) : List Nat :=
  ((List.range e.count).map (· + e.first)).filter (· < limit)

/-- The objects of one entry kind of R137. -/
def Reach.ofKind (r : Reach) (kind : Nat) : List Nat :=
  match kind with
  | 1 => r.dsts
  | 2 => r.buses
  | 3 => r.lims
  | _ => r.points

/-- The objects of an entry that run now, but for those whose reads have failed (R480): all of them, or, where the entry had completed before a replay, those that the
replay runs again (R160). -/
def Hw.objectsOf (h : Hw) (i limit : Nat) : List Nat :=
  let e := h.sched i
  let all := (e.objects limit).filter (fun o => !(h.join.failed.ofKind e.kind).contains o)
  if h.join.again.contains i then all.filter (h.join.redo.ofKind e.kind).contains else all

/-- The entry's wait is over (R135). -/
def Hw.mayRun (h : Hw) (e : SchedEntry) : Bool := !e.waitEn || e.waitFlag = 0 || h.flag e.waitFlag

/-- The limiters of the epoch's LIMIT entries that may run: every demand of a group that can be computed enters the rail
model before any limiter of the group runs (R433; DEDUCED, log entry 59). -/
def Hw.limitersReady (h : Hw) : List Nat :=
  (h.join.todo.filter (fun i => (h.sched i).kind = 3 && h.mayRun (h.sched i))).flatMap (fun i => h.objectsOf i 1024)

/-- Demands of the limiters that have entered none for this epoch. -/
def Hw.railEnter (h : Hw) : Hw :=
  h.railDemands ((h.limitersReady.dedup).filter (fun i =>
    !(h.join.dsp.demands.get [] i).any (fun x => x.1 % 2 ^ 72 ≥ h.epoch.t + (limRec (h.limBytes i)).look)))

/-- The multiplies of n records over a block (R140). -/
def Hw.addMults (h : Hw) (n : Nat) : Hw := let j := h.join; { h with join := { j with mults := j.mults + n * h.bs } }

/-- The work of one entry (R137). -/
def Hw.runEntry (h : Hw) (i : Nat) : Hw :=
  let e := h.sched i
  match e.kind with
  | 1 =>
    let xps := h.xpLive
    let ds := h.objectsOf i 4096
    let h := ds.foldl (fun h d => h.route xps d) h
    h.addMults ((xps.filter (fun x => ds.contains x.2.dst)).length)
  | 2 =>
    let bs := h.objectsOf i 512
    (bs.foldl (fun h b => h.mix b) h).addMults ((bs.map (fun b => (h.sdLive b).length + 1)).sum)
  | 3 =>
    let later := h.join.todo.any (fun k => k != i && (h.sched k).kind = 3)
    let h := h.railEnter
    let h := (h.objectsOf i 1024).foldl (fun h l => h.limit l) h
    if later then h else h.railClose
  | 4 => (h.objectsOf i 4096).foldl (fun h m => h.meter m) h
  | _ => h

/-- Run the entries of the epoch that may run, in index order; flag 0 is set when every phase-0 entry has
completed (R135). -/
def Hw.runJoin : Nat → Hw → Hw
  | 0, h => h
  | f + 1, h =>
    match h.join.todo with
    | [] => (if h.flag 0 then h else h.setFlag 0).s0 Reg.JOIN_STATUS_busy
    | i :: t =>
      let e := h.sched i
      let h := if h.flag 0 || h.join.todo.any (fun k => !(h.sched k).phase) then h else h.setFlag 0
      if !h.mayRun e then h.s1 Reg.JOIN_STATUS_busy
      else
        let h := (h.p Reg.JOIN_STATUS_entry i).runEntry i
        let j := h.join
        Hw.runJoin f { h with join := { j with todo := t } }

/-- Outputs of unfinished entries are not written: the blocks of this epoch that they feed are absent at
their kitties (R136). -/
def Hw.abandonJoin (h : Hw) : Hw :=
  let mark := fun (h : Hw) (k : Nat) =>
    match h.outK k with
    | none => h
    | some o => h.setOut k { o with slots := o.slots.map (fun e =>
        if e.2.epoch = h.epoch.t then (e.1, { e.2 with cause := lowerCause e.2.cause 6 }) else e) }
  let h := h.join.todo.foldl (fun h i =>
    let e := h.sched i
    match e.kind with
    | 1 => (e.objects 4096).foldl (fun h d =>
        if h.g (Reg.JOIN_DST_kind d) = 2 then mark h (h.g (Reg.JOIN_DST_object d)) else h) h
    | 3 => (e.objects 1024).foldl (fun h l => mark h (limRec (h.limBytes l)).outKitty) h
    | _ => h) h
  let j := h.join
  { h with join := { j with todo := [] } }

/-- JOIN_OVERRUN (R136): the tick finds unfinished entries. The class is that of the third within 16 ticks
when three have occurred (R463). -/
def Hw.joinOverrun (h : Hw) (tickN : Nat) : Hw :=
  let h := (h.abandonJoin.s1 Reg.JOIN_STATUS_overrun).inc Reg.JOIN_OVR_CNT_count
  let j := h.join
  let h := { h with join := { j with overruns := (tickN :: j.overruns).filter (fun n => tickN < n + 16) } }
  h.raiseU 0x28

/-- In an epoch with nothing TENTATIVE the meters accumulate at once (R46). -/
def Hw.mergeIfResolved (h : Hw) : Hw := if h.epoch.resolved then h.mergeMeters else h

/-- A block that goes on from the last sample of the block before, held and faded (R37). -/
def Hw.concealFrom (h : Hw) (hold : Nat) (x : List Int) : List Int :=
  (List.range h.bs).map (fun i => concealAt (concealF h.fs) hold h.bs i (x.getLastD 0))

/-- The output of an object whose read found a double-bit error is not written in the epoch, and is concealed (R480): the block
that a kitty would release, or the buffer's or bus's samples with the default hold 0 (DEDUCED, log entry 66). -/
def Hw.concealObject (h : Hw) (e : JoinEcc) : Hw :=
  let o := e.object.val
  match e.kind.val with
  | 1 =>
    if h.g (Reg.JOIN_DST_kind o) = 2 then h.loseOut (h.g (Reg.JOIN_DST_object o)) 6
    else if h.g (Reg.JOIN_DST_kind o) = 1 then
      let b := h.g (Reg.JOIN_DST_object o)
      { h with bufs := h.bufs.put b (h.concealFrom 0 (h.bufs.get (zeros h.bs) b)) }
    else h
  | 2 =>
    let j := h.join
    { h with join := { j with busVal := j.busVal.put o (h.concealFrom 0 (j.busVal.get (zeros h.bs) o)) } }
  | 3 => h.loseOut (limRec (h.limBytes o)).outKitty 6
  | _ => h

/-- The ECC errors that the Joinery's reads of the epoch find (R480). -/
def Hw.joinEcc (h : Hw) (eccs : List JoinEcc) : Hw :=
  let h := eccs.foldl (fun h e => h.eccEvent e.ecc.addr.toNat e.ecc.double) h
  let bad := eccs.filter (fun e => e.ecc.double)
  let of := fun k => (bad.filter (fun e => e.kind.val = k)).map (fun e => e.object.val)
  let j := h.join
  let r : Reach := { dsts := of 1, buses := of 2, lims := of 3, points := of 4 }
  bad.foldl (fun h e => h.concealObject e) { h with join := { j with failed := r } }

/-- JOIN_EPOCH at a tick (R135): every enabled entry is to run, or none while run is 0. -/
def Hw.joinEpoch (h : Hw) (eccs : List JoinEcc) : Hw :=
  let todo := if h.b Reg.JOIN_CTRL_run then h.schedOn else []
  let j := h.join
  let head := ((List.range 512).map (fun b => (b, h.g (Reg.JOIN_BUS_CFG_headroom b)))).filter (fun e => e.2 != 0)
  let warm := (List.range 4).filter (fun g => h.b (Reg.BOOST_STAT_therm_warn g))
  let h := ({ h with join := { j with
    todo := todo, again := [], redo := {}, dead := {}, routed := [], epochMeters := [], epochGr := [],
    head := head, warm := warm } } : Hw).railForget h.epoch.t
  let j := h.join
  let h := ({ h with join := { j with snap := j.dsp, snapRamps := j.ramps } } : Hw).joinEcc eccs
  let h := if todo.isEmpty then h else h.s1 Reg.JOIN_STATUS_busy
  (Hw.runJoin 257 h).mergeIfResolved

/-- JOIN_LOAD and JOIN_DONE of the epoch that ends: 40 multiplies a cycle; the cycles to the end of its last entry are
an open value (R140, R167) (DESIGN CHOICE, log entry 26). -/
def Hw.joinLoad (h : Hw) : Hw :=
  let n := h.join.mults
  let j := h.join
  let h : Hw := { h with join := { j with mults := 0 } }
  let h := h.p Reg.JOIN_LOAD_mul_cyc (min ((n + 39) / 40) 1048575)
  if h.b Reg.JOIN_CTRL_run then
    let (v, h) := h.draw
    h.p Reg.JOIN_DONE_done_cyc v
  else h

/-- JOIN_ENTRY_START: the waiting entry's flag is set, and the schedule goes on (R135). -/
def Hw.joinEntryStart (h : Hw) : Hw := if h.join.todo.isEmpty then h else (Hw.runJoin 257 h).mergeIfResolved

end Sys2Proof.Machine
end

