-- ==== Sys2Proof/Machine/SpecOps.lean ====
section
/-! DEFINITION. Speculative admission after a block was written (R42–R52, R92–R96, R160): confirmation,
squash, replay, concealment without a replay, and the exit deadline. -/

namespace Sys2Proof.Machine

/-- The exit deadline of the epoch: its tick plus one block period (R47). -/
def Hw.exitAt (h : Hw) : Nat := h.instant (h.epoch.t + h.bs)

/-- Tasks of the deal that the squashed stream of kitty k reaches in an epoch (R48). -/
def Hw.affected (h : Hw) (k : Nat) : List TaskCfg := h.deal.tasks.filter (fun t => t.streams.contains k)

/-- The bent clock in MHz (R90). -/
def Hw.bentMHz (h : Hw) (bent : Nat) : Nat := 200 + 50 * h.g (Reg.TRUSS_BENT_STAT_freq_act bent)

/-- The replay window of a task is zero or more (R48, R89). -/
def Hw.windowOk (h : Hw) (t : TaskCfg) : Bool :=
  let run := h.g (Reg.TRUSS_RUN_CYC_max_cyc t.core.val t.entry.val)
  decide (run * 1000 ≤ (h.exitAt - h.t64) * h.bentMHz (t.core.val / 5)) && decide (h.t64 ≤ h.exitAt)

/-- A speculation outcome record, type 0x0A (R57, R58). -/
def Hw.outcomeRecord (h : Hw) (k outcome : Nat) : Hw :=
  match h.inK k with
  | none => h
  | some x => h.trace 0x0A (leBytes 4 x.cfg.streamId ++ leBytes 1 outcome ++ leBytes 8 h.epoch.tick)

/-- A fence conceals the kitty's block: its cause stands against a squash that reaches its core (R98). -/
def Hw.fencedOut (h : Hw) (kid : Nat) : Bool :=
  h.deal.tasks.any (fun t => t.outKitties.contains kid && h.bit Reg.FAULT_FENCE_core t.core.val)

/-- The kitties' output blocks of this epoch that the stream of kitty k reaches are concealed, written or still to be
written; code 42 counts as SPEC_SQUASH and 43 as SPEC_TIMEOUT at release (R49, R58). -/
def Hw.concealReached (h : Hw) (k code : Nat) : Hw :=
  ((h.kout.filter (fun e => e.2.cfg.specMask.contains k && !h.fencedOut e.1)).map (·.1)).foldl
    (fun h kid => h.loseOut kid code) h

/-! ### What a stream reaches (R48, R160) -/

/-- Channel buffers that a module writes. -/
def moduleOuts : Module → List Nat
  | .custom => []
  | .delay _ _ taps _ => taps.map (·.outBuf)
  | .fir paths _ _ _ => paths.map (·.outBuf)
  | .noise o _ _ _ _ => [o]
  | .sweep o _ _ _ _ _ _ => [o]
  | .transfer _ _ _ _ _ => []
  | .library _ _ outs => outs

/-- A source endpoint that carries the stream of kitty k, given the channel buffers and buses that carry it. -/
def Hw.srcReached (h : Hw) (k : Nat) (bufs buses : List Nat) (s : Nat) : Bool :=
  match h.g (Reg.JOIN_SRC_kind s) with
  | 1 => h.g (Reg.JOIN_SRC_object s) == k
  | 2 => bufs.contains (h.g (Reg.JOIN_SRC_object s))
  | 3 => buses.contains (h.g (Reg.JOIN_SRC_object s))
  | _ => false

/-- Buses and channel buffers that the stream reaches, from those known so far. -/
def Hw.spread (h : Hw) (k : Nat) : Nat → List Nat → List Nat → List Nat × List Nat
  | 0, bufs, buses => (bufs, buses)
  | f + 1, bufs, buses =>
    let hit := h.srcReached k bufs buses
    let more := h.deal.buses.filter (fun b => !buses.contains b && (h.sdLive b).any (fun e => hit e.2.src))
    let fed := ((h.xpLive.filter (fun e => hit e.2.src && h.g (Reg.JOIN_DST_kind e.2.dst) = 1)).map
      (fun e => h.g (Reg.JOIN_DST_object e.2.dst))).dedup.filter (fun b => !bufs.contains b)
    if more.isEmpty && fed.isEmpty then (bufs, buses) else h.spread k f (bufs ++ fed) (buses ++ more)

/-- The meter points whose watched signal is one of the reached ones. -/
def Hw.pointsReached (h : Hw) (hit : Nat → Bool) (dsts lims : List Nat) : List Nat :=
  h.metersOn.filter (fun i =>
    let m := h.meterRec i
    match m.kind with
    | 1 => hit m.object
    | 2 => dsts.contains m.object
    | _ => lims.contains m.object)

/-- The Joinery objects that the stream of kitty k reaches. -/
def Hw.joinReached (h : Hw) (k : Nat) : Reach :=
  let (bufs, buses) := h.spread k 64 ((h.affected k).flatMap (fun t => moduleOuts t.module)) []
  let hit := h.srcReached k bufs buses
  let dsts := ((h.xpLive.filter (fun e => hit e.2.src)).map (fun e => e.2.dst)).dedup
  let lims := h.deal.limiters.filter (fun i => bufs.contains (limRec (h.limBytes i)).inBuf)
  { dsts := dsts, buses := buses, lims := lims, points := h.pointsReached hit dsts lims }

def Reach.union (a b : Reach) : Reach :=
  { dsts := (a.dsts ++ b.dsts).dedup, buses := (a.buses ++ b.buses).dedup, lims := (a.lims ++ b.lims).dedup,
    points := (a.points ++ b.points).dedup }

/-- Put back the block-start entries of a table for the given keys. -/
def restoreKeys {α : Type} (snap now : Tab α) (keys : List Nat) : Tab α :=
  keys.foldl (fun t k => match snap.find? k with
    | some v => t.put k v
    | none => t.del k) now

/-- The state of the reached objects is put back to the block-start snapshot, with the ramp positions (R160). -/
def Hw.joinRestore (h : Hw) (r : Reach) : Hw :=
  let filters := r.dsts.filterMap h.hpfOf
  let j := h.join
  let d := j.dsp
  let s := j.snap
  { h with join := { j with
      ramps := j.snapRamps
      dsp := { d with
        hpf := restoreKeys s.hpf d.hpf filters
        hpfOld := restoreKeys s.hpfOld d.hpfOld filters
        dcb := restoreKeys s.dcb d.dcb r.dsts
        lim := restoreKeys s.lim d.lim r.lims
        limOld := restoreKeys s.limOld d.limOld r.lims
        rail := s.rail
        demands := restoreKeys s.demands d.demands r.lims } } }

/-- The shadow accumulation drops what the reached points and limiters gave in this epoch (R46). -/
def Hw.shadowDrop (h : Hw) (r : Reach) : Hw :=
  let j := h.join
  { h with join := { j with epochMeters := j.epochMeters.filter (fun e => !r.points.contains e.1),
                            epochGr := j.epochGr.filter (fun e => !r.lims.contains e.1) } }

/-- What conceals a meter point's signal: the input kitty it watches, or the output kitty that its destination or limiter
feeds, with the channel. -/
def Hw.pointConceal (h : Hw) (m : MeterRec) : Option (List Int) :=
  let out := fun kid ch => (h.outK kid).map (fun o =>
    ((o.conceal.miss h.fs h.bs (h.holdOut o.cfg) o.cfg.chans 4).1).getD ch (zeros h.bs))
  match m.kind with
  | 1 => if h.g (Reg.JOIN_SRC_kind m.object) = 1 then some (h.source m.object) else none
  | 2 => if h.g (Reg.JOIN_DST_kind m.object) = 2 then
      out (h.g (Reg.JOIN_DST_object m.object)) (h.g (Reg.JOIN_DST_channel m.object)) else none
  | 4 => let r := limRec (h.limBytes m.object); out r.outKitty r.outChan
  | _ => none

/-- The concealment accumulates afresh at the reached points whose signal a kitty conceals; the others stand still for the
epoch (R46; DESIGN CHOICE, log entry 36). -/
def Hw.shadowConceal (h : Hw) (r : Reach) : Hw :=
  let h := h.shadowDrop r
  let h : Hw := { h with join := { h.join with dead := h.join.dead.union r } }
  r.points.foldl (fun h i => match h.pointConceal (h.meterRec i) with
    | some x => h.shadow i x
    | none => h) h

/-- The concealment samples of a squashed epoch stand in the delay-line positions of the epoch (R49): the
line's last sample before the epoch, held and faded (R37). -/
def Hw.lineConceal (h : Hw) (k : Nat) : Hw :=
  let hold := match h.inK k with
    | some x => h.holdIn x.cfg
    | none => 0
  (h.affected k).foldl (fun h t =>
    match t.module with
    | .delay _ _ taps _ =>
      match (taps.find? (fun x => !x.remote && (h.join.tapRec.find? x.tap).isSome)).bind
          (fun x => h.join.tapRec.find? x.tap) with
      | some a =>
        let r := h.tapAt a
        let held := h.lineGet r ((h.epoch.t : Int) - 1)
        h.lineWrite r ((List.range h.bs).map (fun i => concealAt (concealF h.fs) hold h.bs i held))
      | none => h
    | _ => h) h

/-- The block that kitty k consumed in this epoch is replaced by concealment, with cause 4 of R58. -/
def Hw.reconceal (h : Hw) (k : Nat) : Hw :=
  match h.inK k with
  | none => h
  | some x => if x.curConcealed then h
    else h.concealIn k { x with conceal := x.before } (h.epoch.t + x.cfg.d * h.bs) 4

/-- Kitty k leaves the epoch's ledger with an outcome of R58. -/
def Hw.leaveLedger (h : Hw) (k : Nat) (replay : Bool) (outcome : Nat) : Hw :=
  let e := h.epoch
  let left := e.ledger.filter (· != k)
  { h with epoch := { e with squashed := (e.squashed.filter (fun (s : Nat × Bool) => s.1 != k)) ++ [(k, replay)],
                             ledger := left, outcome := outcome, resolved := left.isEmpty } }

/-- R49: no replay; the outputs of the epoch that the stream reaches are concealed, the affected tasks'
state is restored after the core's last task of the epoch. -/
def Hw.squashConceal (h : Hw) (k code : Nat) : Hw :=
  let h := (h.outcomeRecord k (code - 40)).concealReached k code
  let h := (h.reconceal k).lineConceal k
  let h := (h.affected k).foldl (fun h t => h.modCore t.core.val (fun c =>
    if c.entry = some t.entry.val || c.ended.contains t.entry.val || c.replay.contains t.entry.val then
      { c with restores := (c.restores.filter (· != t.entry.val)) ++ [t.entry.val] } else c)) h
  (h.shadowConceal (h.joinReached k)).leaveLedger k false (code - 40)

/-- At a replay a core stops the affected task that it runs, and its started affected tasks are to be restored and run again:
at once, or when an unaffected task that runs has ended (R95). Their flags are no longer set. -/
def Hw.replayCore (h : Hw) (n : Nat) (entries : List Nat) : Hw :=
  let c := h.core n
  let cutOff := match c.entry with
    | some i => entries.contains i
    | none => false
  let running := if cutOff then c.entry.toList else []
  let started := entries.filter (fun i => c.ended.contains i || running.contains i || c.redo.contains i)
  if started.isEmpty then h
  else
    let h := (h.s1 (Reg.TRUSS_STATUS_replaying n)).modCore n (fun c =>
      { c with
        entry := if cutOff then none else c.entry
        loops := if cutOff then [] else c.loops
        ended := c.ended.filter (fun i => !started.contains i)
        redo := (c.redo ++ started).dedup })
    started.foldl (fun h i =>
      let e := h.tlEntry n i
      if e.signalEn && e.signalFlag != 0 then h.setBit Reg.TRUSS_SYNC_flag e.signalFlag false else h) h

/-- R48: the affected cores stop, the affected objects of the Joinery take their block-start state and run again in their
entries' order, and the cores run the affected tasks again. Flag 0 waits for the phase-0 entries anew (DEDUCED, log entry
36). -/
def Hw.replayRun (h : Hw) (k : Nat) : Hw :=
  let h := (List.range 10).foldl (fun h n =>
    h.replayCore n (((h.affected k).filter (fun t => t.core.val = n)).map (fun t => t.entry.val))) h
  let r := h.joinReached k
  let h := (h.joinRestore r).shadowDrop r
  let j := h.join
  let on := if h.b Reg.JOIN_CTRL_run then h.schedOn else []
  let h : Hw := { h with join := { j with
    todo := on, again := on.filter (fun i => j.again.contains i || !j.todo.contains i), redo := j.redo.union r } }
  let h := ((h.setBit Reg.TRUSS_SYNC_flag 0 false).s0 Reg.JOIN_STATUS_flag0)
  let h := (Hw.runJoin 257 h).mergeIfResolved
  (List.range 10).foldl (fun h n => Hw.startNext 33 h n) h

/-- Every affected task's window is zero or more, and none of their cores was fenced by a trap (R48, R98). -/
def Hw.canReplay (h : Hw) (k : Nat) : Bool :=
  (h.affected k).all (fun t => h.windowOk t && !h.bit Reg.FAULT_FENCE_core t.core.val)

/-- The squashed block's place is taken by concealment, or by the other path's copy (R48, R50). -/
def Hw.inputAgain (h : Hw) (k : Nat) (useAlt : Option Block) : Hw :=
  match useAlt, h.inK k with
  | some b, some x =>
    let (y, c) := x.before.take h.fs h.bs (h.holdIn x.cfg) b
    let h := h.setIn k { x with conceal := c, cur := y, curConcealed := false, onset := false }
    { h with epoch := { h.epoch with concealed := h.kin.any (fun e => e.2.curConcealed) } }
  | _, _ => h.reconceal k

/-- SPEC_SQUASH in the epoch that consumed the block: replay, or R49. While the other path's copy is TENTATIVE the kitty stays
in the epoch's ledger (R50). -/
def Hw.squashEpoch (h : Hw) (k : Nat) (useAlt : Option Block) (waits : Bool) : Hw :=
  if h.canReplay k then
    let h := (h.inputAgain k useAlt).leaveLedger k true 1
    let h : Hw := if waits then { h with epoch := { h.epoch with ledger := h.epoch.ledger ++ [k], resolved := false } } else h
    h.replayRun k
  else h.squashConceal k 42

/-- The block of index n of kitty k belongs to the epoch in progress and is still in its ledger. -/
def Hw.inEpoch (h : Hw) (k : InKitty) (kid n : Nat) : Bool :=
  h.epoch.live && n == h.epoch.t + k.cfg.d * h.bs && h.epoch.ledger.contains kid

/-- The exit deadline of the epoch that consumes media sample index n has passed: it lies before the time unit's value, or a
later epoch runs (R47, R7). -/
def Hw.pastExit (h : Hw) (k : InKitty) (n : Nat) : Bool :=
  let now := h.epoch.t + k.cfg.d * h.bs
  decide (h.instant (n + h.bs - k.cfg.d * h.bs) < h.t64) || (h.epoch.live && (decide (n < now) || (n = now && h.epoch.closed)))

/-- Kitty k has no TENTATIVE block left in the epoch. -/
def Hw.settleSpec (h : Hw) (kid : Nat) : Hw :=
  let e := h.epoch
  let left := e.ledger.filter (· != kid)
  let h : Hw := { h with epoch := { e with ledger := left } }
  if left.isEmpty then h.resolveEpoch else h

/-- The counter of the check that a speculative block failed (R33, R41). -/
def checkCounter : SpecCheck → Nat
  | .frame | .crc => cFcs
  | .seq => cSeq
  | .misalign => cMisalign
  | .late => cLate
  | .early => cEarly

/-- A failed check is counted, towards R36 where it is of order 4 or 5, and the squash (R41; DEDUCED, log entry 36). -/
def InKitty.squashed (k : InKitty) (check : SpecCheck) : InKitty := (k.discard (checkCounter check) none).count cSquashIn

/-- The slot's own block is squashed: the other path's copy takes the slot where it is CONFIRMED, and can still take it while
it is TENTATIVE (R43, R48–R50). -/
def Hw.squashFirst (h : Hw) (kid : Nat) (k : InKitty) (n i : Nat) (s : Slot) (check : SpecCheck) : Hw :=
  let k := k.squashed check
  let ready := s.alt.bind (fun a => if a.confirmed then some a else none)
  let s' : Slot := match ready with
    | some a => { s with samples := a.samples, port := a.port, seq := a.seq, auth := a.auth, tag := a.tag, fail := none,
                         spec := .confirmed, alt := none }
    | none => { s with spec := .squashed }
  let k : InKitty := { k with slots := k.slots.put i s' }
  let h := if k.cfg.gmac && s.seq % 8 = 7 && ready.isNone && s.alt.isNone then h.gmacSkip kid k (s.seq / 8) else h.setIn kid k
  if h.inEpoch k kid n then h.squashEpoch kid (ready.map (·.samples)) (s.alt.isSome && ready.isNone) else h

/-- The other path's copy is squashed: counted in SQUASH_IN in place of DUP (R50). -/
def Hw.squashAlt (h : Hw) (kid : Nat) (k : InKitty) (n i : Nat) (s : Slot) (check : SpecCheck) : Hw :=
  let k := k.squashed check
  let h := h.setIn kid { k with slots := k.slots.put i { s with alt := none } }
  if s.spec = .squashed && h.inEpoch k kid n then h.settleSpec kid else h

/-- A port names the slot's other copy. -/
def Slot.isAlt (s : Slot) (port : Option Port) : Bool := s.alt.any (fun a => a.port = port) && s.port != port

/-- SPEC_SQUASH (R43, R48–R50): a check fails of the copy that a port received. The first check that the model knows to fail
is the one counted. -/
def Hw.specSquash (h : Hw) (kid : Nat) (port : Option Port) (n : Nat) (check : SpecCheck) : Hw :=
  match h.inK kid with
  | none => h
  | some k =>
    match k.slotAt h.bs n with
    | none => h
    | some (i, s) =>
      if h.pastExit k n then h
      else if s.isAlt port then h.squashAlt kid k n i s ((s.alt.bind (·.fail)).getD check)
      else if s.spec = .tentative && s.port = port then h.squashFirst kid k n i s (s.fail.getD check)
      else h

/-- The slot's own block is CONFIRMED: the other copy is a DUP (R43, R46, R50), and the group tag is checked (R30). -/
def Hw.confirmFirst (h : Hw) (kid : Nat) (k : InKitty) (n i : Nat) (s : Slot) : Hw :=
  let k := if s.alt.isSome then k.count cDup else k
  let s' : Slot := { s with spec := .confirmed, alt := none }
  let h := h.gmacCheck kid { k with slots := k.slots.put i s', bad := 0 } s.seq s.p s.auth s.tag
  if h.inEpoch k kid n then h.settleSpec kid else h

/-- The other path's copy is CONFIRMED: it takes the slot of a squashed block, whose replay then uses its samples where a
replay can still finish (R50). -/
def Hw.confirmAlt (h : Hw) (kid : Nat) (k : InKitty) (n i : Nat) (s : Slot) (a : Alt) : Hw :=
  if s.spec = .tentative then
    h.setIn kid { k with slots := k.slots.put i { s with alt := some { a with confirmed := true } } }
  else
    let s' : Slot := { s with samples := a.samples, port := a.port, seq := a.seq, auth := a.auth, tag := a.tag, fail := none,
                              spec := .confirmed, alt := none }
    let k' : InKitty := { k with slots := k.slots.put i s', bad := 0 }
    if h.inEpoch k kid n then
      if h.canReplay kid then (h.gmacCheck kid k' a.seq s.p a.auth a.tag).squashEpoch kid (some a.samples) false
      else h
    else h.gmacCheck kid k' a.seq s.p a.auth a.tag

/-- SPEC_CONFIRM (R43, R46, R47, R50): every check of the copy that a port received has passed. A copy that the model knows to
fail a check is squashed; one past the exit deadline is ignored and counted. -/
def Hw.specConfirm (h : Hw) (kid : Nat) (port : Option Port) (n : Nat) : Hw :=
  match h.inK kid with
  | none => h
  | some k =>
    if h.pastExit k n then
      (if k.cfg.spec && !((k.slotAt h.bs n).any (fun e => e.2.spec = .confirmed || e.2.spec = .native)) then
        h.setIn kid (k.count cLateConfirm) else h)
    else
      match k.slotAt h.bs n with
      | none => h
      | some (i, s) =>
        if s.isAlt port then
          match s.alt with
          | none => h
          | some a => match a.fail with
            | some c => h.squashAlt kid k n i s c
            | none => h.confirmAlt kid k n i s a
        else if s.spec = .tentative && s.port = port then
          match s.fail with
          | some c => h.squashFirst kid k n i s c
          | none => h.confirmFirst kid k n i s
        else h

/-- What is still TENTATIVE at the exit deadline is SQUASHED (R47); an alternate never used is a DUP (R50). -/
def Hw.timeoutKitty (h : Hw) (kid : Nat) : Hw :=
  match h.inK kid with
  | none => h
  | some k =>
    match k.slotAt h.bs (h.epoch.t + k.cfg.d * h.bs) with
    | some (i, s) =>
      let k := if s.alt.isSome then k.count cDup else k
      let h' := h.setIn kid { (if s.spec = .squashed then k else k.count cSquashIn) with
        slots := k.slots.put i { s with spec := .squashed, alt := none } }
      if s.spec = .squashed then h'.settleSpec kid else h'.squashConceal kid 43
    | none => (h.setIn kid (k.count cSquashIn)).squashConceal kid 43

/-- Entries of a core whose re-run has not ended. -/
def Truss.replayLeft (c : Truss) : List Nat :=
  c.redo ++ c.replay.filter (fun i => c.due.contains i || c.entry = some i)

/-- A replay still running at the tick is abandoned (R96). -/
def Hw.abandonReplay (h : Hw) : Hw :=
  let unfinished := (List.range 10).any (fun n => !(h.core n).replayLeft.isEmpty)
  if !unfinished then h
  else
    let ks := (h.epoch.squashed.filter (fun s => s.2)).map (·.1)
    let h := ks.foldl (fun h k => h.squashConceal k 42) h
    (List.range 10).foldl (fun h n => (h.modCore n (fun c =>
      let hit := match c.entry with
        | some i => c.replay.contains i
        | none => false
      { c with entry := if hit then none else c.entry, loops := if hit then [] else c.loops,
               due := c.due.filter (fun i => !c.replay.contains i), replay := [], redo := [] })).s0
        (Reg.TRUSS_STATUS_replaying n)) h

/-- SPEC_EXIT_DEADLINE (R47): the deadline has passed for every kitty still in the ledger, then the epoch is resolved. A
confirmation at the deadline itself is on time (R7): this row comes after every confirmation of its TIME cycle (DEDUCED, log
entry 36). -/
def Hw.exitDeadline (h : Hw) : Hw :=
  if !h.epoch.live then h
  else
    let h := h.advanceTo h.exitAt
    let h := h.epoch.ledger.foldl (fun h k => h.timeoutKitty k) h
    let h := if h.epoch.resolved then h else h.resolveEpoch
    { h with epoch := { h.epoch with closed := true } }

/-- The epoch's replays have ended in time: SPEC_REPLAY counts the epoch once, and each replayed stream has its outcome record
(R48, R57, R58). -/
def Hw.countReplay (h : Hw) : Hw :=
  let ks := (h.epoch.squashed.filter (fun s => s.2)).map (·.1)
  let h := match ks with
    | [] => h
    | k :: _ => match h.inK k with
      | some x => h.setIn k (x.count cSpecReplay)
      | none => h
  ks.foldl (fun h k => h.outcomeRecord k 1) h

/-- The R49 restores run after the core's last task of the epoch (R96). -/
def Hw.runRestores (h : Hw) : Hw :=
  let h := (List.range 10).foldl (fun h n =>
    let rs := (h.core n).restores
    if rs.isEmpty then h
    else (rs.foldl (fun h i => h.ckptRestore n i) h).modCore n (fun c => { c with restores := [] })) h
  ((h.epoch.squashed.filter (fun s => !s.2)).map (·.1)).foldl (fun h k => h.joinRestore (h.joinReached k)) h

end Sys2Proof.Machine
end

