-- ==== Sys2Proof/Machine/TimeOps.lean ====
section
/-! DEFINITION. The time unit (R338–R344, R551): the servo, steps of T64, re-timing, event timers and capture
inputs. -/

namespace Sys2Proof.Machine

/-! ### The servo -/

def svFree : Nat := 0
def svAcquire : Nat := 1
def svLocked : Nat := 2
def svHoldover : Nat := 3

def Hw.servo (h : Hw) : Nat := h.g Reg.TIME_STAT_state

/-- SYS_STATE.state (R279). -/
def Hw.sysState (h : Hw) : Nat := h.g Reg.SYS_STATE_state

/-- Round a / b to nearest, ties to even, b > 0. -/
def roundEven (a : Int) (b : Nat) : Int :=
  let q := a / (b : Int)
  let r := 2 * (a % (b : Int))
  if r > (b : Int) || (r = (b : Int) && q % 2 = 1) then q + 1 else q

/-- The largest absolute servo offset measured in the preceding second, in whole ns (R59). -/
def Hw.peakOffset (h : Hw) : Nat :=
  ((h.time.peaks.filter (fun e => h.t64 ≤ e.1 + 1000000000)).map (·.2)).foldl Nat.max 0

/-- A measurement enters the bound, whatever the servo makes of it; a fraction of a ns counts as a whole one, so that u bounds
the offset (R59; DESIGN CHOICE, log entry 61). -/
def Hw.measured (h : Hw) (theta : Int) : Hw :=
  let t := h.time
  let now := (h.t64, (theta.natAbs + 65535) / 65536)
  { h with time := { t with
    theta := theta
    lastMeas := h.t64
    peaks := now :: t.peaks.filter (fun e => h.t64 ≤ e.1 + 1000000000) } }

/-- The servo status record, type 0x0B: the bound u and the state (R57, R59). -/
def Hw.servoRecord (h : Hw) : Hw := h.trace 0x0B (leBytes 4 (h.peakOffset + 8) ++ leBytes 1 h.servo)

/-- The rate in force enters the LOCKED history up to now: the last 16 s (R551). -/
def Hw.lockHistory (h : Hw) : Hw :=
  let t := h.time
  let dur := h.t64 - t.since
  let rec keep : List (Int × Nat) → Nat → List (Int × Nat)
    | [], _ => []
    | (r, d) :: l, left => if left = 0 then [] else if left ≤ d then [(r, left)] else (r, d) :: keep l (left - d)
  let hist := if h.servo = svLocked && dur != 0 then keep ((t.rate, dur) :: t.hist) 16000000000 else t.hist
  { h with time := { t with hist := hist, since := h.t64 } }

/-- Set the rate in force. -/
def Hw.setRate (h : Hw) (r : Int) : Hw :=
  let h := h.lockHistory
  let t := h.time
  { h with time := { t with rate := r } }.p Reg.TIME_RATE_rate (lowBits 32 r)

/-- Set the servo's state; a change writes a status record (R59). -/
def Hw.setServo (h : Hw) (s : Nat) : Hw :=
  if h.servo = s then h
  else
    let h := h.lockHistory
    let t := h.time
    ((({ h with time := { t with inCnt := 0, outCnt := 0 } } : Hw).p Reg.TIME_STAT_state s).s1
      Reg.HOST_IRQ_STAT_time).servoRecord

/-- The held rate of R551. -/
def TimeSt.heldRate (t : TimeSt) : Int :=
  let den := (t.hist.map (·.2)).foldl (· + ·) 0
  if den = 0 then t.rate else roundEven ((t.hist.map (fun e => e.1 * (e.2 : Int))).foldl (· + ·) 0) den

/-- Enter HOLDOVER (R339, R551). -/
def Hw.enterHoldover (h : Hw) : Hw :=
  let h := h.lockHistory
  (h.setRate h.time.heldRate).setServo svHoldover

/-- The slew limit in 2^−40 units, rounded down so that the rate never exceeds it (R338, R340). -/
def Hw.slewLimit (h : Hw) : Int := ((h.g Reg.TIME_SLEW_ppb * 2 ^ 40 / 1000000000 : Nat) : Int)

/-- The law of R338 on θ in 2^−16 ns; `full` takes the slew limit whatever kp gives (R340). -/
def Hw.servoLaw (h : Hw) (theta : Int) (full : Bool) : Hw :=
  let lg := sext 4 (h.g Reg.TIME_SERVO_CFG_log_int)
  let unit : Int := 2 ^ (16 - lg).toNat
  let freq := roundEven (h.time.freq * 1000000000 - (h.g Reg.TIME_SERVO_CFG_ki : Int) * theta * unit) 1000000000
  let raw := roundEven (freq * 1000000000 - (h.g Reg.TIME_SERVO_CFG_kp : Int) * theta * unit) 1000000000
  let lim := h.slewLimit
  let rate := if full then (if theta > 0 then -lim else lim) else clampI (-lim) lim raw
  let t := h.time
  ({ h with time := { t with freq := freq } } : Hw).setRate rate

/-- A time-step record, type 0x0C: a correction in 2^−16 ns as signed ns. -/
def Hw.stepRecord (h : Hw) (corr : Int) : Hw := h.trace 0x0C (leBytes 8 (lowBits 64 (asr corr 16)))

/-- Step T64 with its T80 fraction by a correction in 2^−16 ns (R340, R341). -/
def Hw.stepTime (h : Hw) (corr : Int) : Hw :=
  let v := ((h.t64 * 2 ^ 48 + h.sub : Nat) : Int) + corr * 2 ^ 32
  { h with t64 := (v / 2 ^ 48).toNat, sub := (v % 2 ^ 48).toNat }

/-- The counters of R339 after a measurement that the servo takes; the one that enters ACQUIRE is the first of them. -/
def Hw.servoCount (h : Hw) (theta : Int) : Hw :=
  let h := if h.servo = svFree || h.servo = svHoldover then h.setServo svAcquire else h
  let thr := (h.g Reg.TIME_LOCK_THR_ns : Int) * 65536
  let near : Bool := decide ((theta.natAbs : Int) ≤ thr)
  let far : Bool := decide ((theta.natAbs : Int) > 4 * thr)
  let t := h.time
  let h : Hw := { h with time := { t with inCnt := if near then t.inCnt + 1 else 0,
                                          outCnt := if far then t.outCnt + 1 else 0 } }
  if h.servo = svAcquire then (if h.time.inCnt ≥ 16 then h.setServo svLocked else h)
  else if h.time.outCnt ≥ 4 then h.enterHoldover
  else h

/-- Four measurement intervals in ns (R339). -/
def Hw.fourTau (h : Hw) : Nat :=
  let lg := sext 4 (h.g Reg.TIME_SERVO_CFG_log_int)
  if lg < 0 then 4000000000 / 2 ^ (-lg).toNat else 4000000000 * 2 ^ lg.toNat

/-- No measurement has arrived for four intervals at T64 value t: LOCKED is left (R339). -/
def Hw.servoSilent (h : Hw) (t : Nat) : Hw :=
  if h.servo = svLocked && h.time.lastMeas + h.fourTau ≤ t then h.enterHoldover else h

/-- No measurement reaches the servo: it is off or held, a switch is in progress, or the loop is open (R339, R414, R418). -/
def Hw.servoDeaf (h : Hw) : Bool :=
  !h.b Reg.TIME_CTRL_servo_en || h.b Reg.TIME_CTRL_hold || h.g Reg.CLK_STAT_state = 1 || h.g Reg.CLK_STAT_state = 5

/-- SERVO_MEASUREMENT: a write of TIME_MEAS_NS passes θ with the fraction written before it (R338–R340). -/
def Hw.servoMeasure (h : Hw) (ns : Nat) : Hw :=
  let h := (h.servoSilent (h.t64 - 1)).p Reg.TIME_MEAS_NS_ns ns
  let theta := sext 32 ns * 65536 + (h.g Reg.TIME_MEAS_FRAC_frac : Int)
  let h := h.measured theta
  if h.servoDeaf then h
  else
    let thr := (h.g Reg.TIME_JUMP_THR_ns : Int) * 65536
    let above : Bool := decide ((theta.natAbs : Int) > thr)
    if above && h.sysState ≤ 1 then
      ((h.stepTime (-theta)).s1 Reg.TIME_STAT_stepped).stepRecord (-theta)
    else if above then
      let whole := asr theta 16
      let h := ((h.p Reg.TIME_REFUSED_LO_ns (lowBits 32 whole)).p Reg.TIME_REFUSED_HI_ns
        (lowBits 64 whole / 2 ^ 32)).s1 Reg.TIME_STAT_refused
      let h := h.s1 Reg.HOST_IRQ_STAT_time
      let t := h.time
      let h : Hw := { h with time := { t with refused := theta } }
      let h := (h.raiseU 0x4A).stepRecord (-theta)
      (h.servoLaw (clampI (-thr) thr theta) true).servoCount theta
    else (h.servoLaw theta false).servoCount theta

/-- SERVO_MEAS_TIMEOUT (R339). -/
def Hw.servoTimeout (h : Hw) : Hw :=
  if h.servo = svLocked then (h.advanceTo (h.time.lastMeas + h.fourTau)).enterHoldover else h

/-- SERVO_HOLD (R339). -/
def Hw.servoHold (h : Hw) (on : Bool) : Hw :=
  let h := h.p Reg.TIME_CTRL_hold (b2n on)
  if on && (h.servo = svAcquire || h.servo = svLocked) then h.enterHoldover else h

/-- SERVO_ENABLE (R339): disabling gives FREE at rate 0. -/
def Hw.servoEnable (h : Hw) (en : Bool) : Hw :=
  let h := h.p Reg.TIME_CTRL_servo_en (b2n en)
  if en then h else (h.setServo svFree).setRate 0

/-- A write of TIME_CTRL (R344). -/
def Hw.timeCtrlWrite (h : Hw) (w : Nat) : Hw :=
  let h := if bitOf w 0 != h.b Reg.TIME_CTRL_servo_en then h.servoEnable (bitOf w 0) else h
  if bitOf w 1 != h.b Reg.TIME_CTRL_hold then h.servoHold (bitOf w 1) else h

/-! ### Re-timing (R341) -/

/-- Mute comes into force or ends at every output kitty (R240). -/
def Hw.muteKitties (h : Hw) : Hw :=
  let on := h.sinksOff
  { h with kout := h.kout.map (fun e => (e.1, { e.2 with mute := e.2.mute.set on })) }

/-- TIME_RETIME is accepted: the sinks fade from the first tick on. -/
def Hw.retimeAccept (h : Hw) : Hw :=
  if h.b Reg.TIME_STAT_refused then
    let t := h.time
    ({ h with time := { t with retPhase := 1 } } : Hw).s1 Reg.TIME_STAT_retime
  else h

/-- The first tick of a re-time. -/
def Hw.retimeTick (h : Hw) : Hw :=
  if h.time.retPhase = 1 then
    let t := h.time
    ({ h with time := { t with retPhase := 2, retTick := h.t64 } } : Hw).muteKitties
  else h

/-- RETIME_STEP: T64 steps by −θ of the latest measurement, and the block tick restarts. -/
def Hw.retimeStep (h : Hw) : Hw :=
  if h.time.retPhase != 2 then h
  else
    let h := h.advanceTo (h.time.retTick + 1000000)
    let h := h.epoch.ledger.foldl (fun h k => h.timeoutKitty k) h
    let t := h.time
    let fin := t.retTick + 10000000
    let h := ({ h with time := { t with retPhase := 3, refused := t.theta } } : Hw).stepTime (-t.theta)
    let t := h.time
    let h : Hw := { h with time := { t with
      retFlush := h.t64 + ceilDiv (h.bs * 1000000000) h.fs
      retEnd := ((fin : Int) - asr t.theta 16).toNat } }
    let e := h.epoch
    { h with epoch := { e with live := false, resolved := true } }

/-- RETIME_FLUSH: one block period after the step, every kitty is flushed and resynchronises. -/
def Hw.retimeFlush (h : Hw) : Hw :=
  if h.time.retPhase != 3 then h
  else
    let h := h.advanceTo h.time.retFlush
    { h with kin := h.kin.map (fun e => (e.1, { e.2 with slots := [], n0 := none, bad := 0, causes := [] }))
             kout := h.kout.map (fun e => (e.1, { e.2 with slots := [], n0 := none, lastN := none, rest := [] })) }

/-- RETIME_END: the sinks return, and the record of the commanded correction is written. -/
def Hw.retimeEnd (h : Hw) : Hw :=
  if h.time.retPhase != 3 then h
  else
    let h := h.advanceTo h.time.retEnd
    let t := h.time
    let h := ({ h with time := { t with retPhase := 0 } } : Hw).s0 Reg.TIME_STAT_retime
    (h.muteKitties).stepRecord (-t.refused)

/-! ### Event timers (R342) -/

def Hw.tmrStart (h : Hw) (i : Nat) : Nat :=
  h.g (Reg.TIME_TMR_START_LO_t64 i) + h.g (Reg.TIME_TMR_START_HI_t64 i) * 2 ^ 32

/-- The least firing instant not before T64 value `now`, and none where the timer never fires. -/
def Hw.tmrNext (h : Hw) (i now : Nat) : Option Nat :=
  let per := h.g (Reg.TIME_TMR_PER_per i)
  match h.g (Reg.TIME_TMR_CTRL_mode i) with
  | 1 => some (if h.tmrStart i > now then h.tmrStart i else now + 2)
  | 2 =>
    if per = 0 then none
    else some (if h.tmrStart i ≥ now then h.tmrStart i else h.tmrStart i + ceilDiv (now - h.tmrStart i) per * per)
  | 3 =>
    let N := per % 65536
    let off := per / 65536
    if N = 0 then none
    else
      let n := h.media now
      let n := if h.instant n < now then n + 1 else n
      some (h.instant (n + (off + N - n % N) % N))
  | _ => none

/-- TIMER_ARM: a write of TIME_TMR_CTRL; timer 0 is read only. -/
def Hw.timerArm (h : Hw) (i w : Nat) : Hw :=
  if i = 0 then h
  else
    let pin := h.b (Reg.TIME_TMR_CTRL_pin i)
    let h := (((h.p (Reg.TIME_TMR_CTRL_mode i) w).p (Reg.TIME_TMR_CTRL_irq i) (w / 4)).p
      (Reg.TIME_TMR_CTRL_pin i) (w / 8)).p (Reg.TIME_TMR_CTRL_width i) (w / 16)
    let mode := w % 4
    let h := h.fnSet 0x03 i pin (bitOf w 3)
    let h := h.p (Reg.TIME_TMR_STAT_armed i) (b2n (mode != 0))
    let h := if mode = 1 && h.tmrStart i ≤ h.t64 then h.s1 (Reg.TIME_TMR_STAT_late i) else h
    let t := h.time
    { h with time := { t with next := match h.tmrNext i h.t64 with
      | some n => t.next.put i n
      | none => t.next.del i } }

/-- EVENT_TIMER_FIRE: status, interrupt, DMA triggers, a pulse of the ball that the timer owns (R284, R285), and the next
firing. Timer 0 is the block
tick, which BLOCK_TICK carries out. -/
def Hw.timerFire (h : Hw) (i : Nat) : Hw :=
  if i = 0 then h
  else
    match h.time.next.find? i with
    | none => h
    | some n =>
      let h := (h.advanceTo n).s1 (Reg.TIME_TMR_STAT_fired i)
      let t := h.time
      let irq := if h.b (Reg.TIME_TMR_CTRL_irq i) && !t.irq.contains i then t.irq ++ [i] else t.irq
      let width := h.g (Reg.TIME_TMR_CTRL_width i)
      let pulse := if h.b (Reg.TIME_TMR_CTRL_pin i) && h.fnActive 0x03 i then t.pulse.put i (n + if width = 0 then 2 else width * 1000)
                   else t.pulse
      let nx := if h.g (Reg.TIME_TMR_CTRL_mode i) = 1 then t.next.del i
                else match h.tmrNext i (n + 1) with
                  | some m => t.next.put i m
                  | none => t.next.del i
      ({ h with time := { t with irq := irq, pulse := pulse, next := nx } } : Hw).dmaTrigger 1 i

/-! ### Capture inputs (R343) -/

/-- The head entry and the level are shown in the registers. -/
def Hw.captShow (h : Hw) (j : Nat) : Hw :=
  let q := h.time.capt.get [] j
  let (s, r) := q.headD (0, false)
  ((((h.p (Reg.TIME_CAP_FRAC_frac j) s).p (Reg.TIME_CAP_FRAC_rise j) (b2n r)).p
    (Reg.TIME_CAP_LO_t64 j) (s / 2 ^ 16)).p (Reg.TIME_CAP_HI_t64 j) (s / 2 ^ 48)).p
    (Reg.TIME_CAP_STAT_level j) q.length

/-- CAPTURE_EDGE: an input that owns no active ball stamps nothing (R285). -/
def Hw.captureEdge (h : Hw) (j : Nat) (rise : Bool) : Hw :=
  let e := h.g (Reg.TIME_CAP_CTRL_edge j)
  if !h.fnActive 0x02 j || !(e = 3 || (e = 1 && rise) || (e = 2 && !rise)) then h
  else
    let t := h.time
    let q := t.capt.get [] j
    if q.length ≥ 4 then h.s1 (Reg.TIME_CAP_STAT_ovf j)
    else
      let irq := if h.b (Reg.TIME_CAP_CTRL_irq j) && !t.irq.contains (64 + j) then t.irq ++ [64 + j] else t.irq
      let stamp := h.t64 * 2 ^ 16 + h.sub / 2 ^ 32
      ({ h with time := { t with capt := t.capt.put j (q ++ [(stamp, rise)]), irq := irq } } : Hw).captShow j

/-- CAPTURE_POP. -/
def Hw.capturePop (h : Hw) (j : Nat) : Hw :=
  let t := h.time
  (({ h with time := { t with capt := t.capt.put j ((t.capt.get [] j).drop 1) } } : Hw).captShow j).s0
    (Reg.TIME_CAP_STAT_pop j)

end Sys2Proof.Machine
end

