-- ==== Sys2Proof/Machine/NetOps.lean ====
section
/-! DEFINITION. Network ports A and B (R318–R337): receive classification, transmit queues with launch times
and the slot table, and PTP. -/

namespace Sys2Proof.Machine

def pn : Port → Nat
  | .a => 0
  | .b => 1

def Hw.macSt (h : Hw) (n : Nat) : MacSt := h.mac.get {} n

def Hw.setMac (h : Hw) (n : Nat) (m : MacSt) : Hw := { h with mac := h.mac.put n m }

def Hw.send (h : Hw) (m : Sent) : Hw := { h with sent := h.sent ++ [m] }

/-- Count k of MAC_CNT (R345). -/
def Hw.macCount (h : Hw) (n k : Nat) : Hw := h.inc (Reg.MAC_CNT_count n k)

/-- T80 now. -/
def Hw.t80 (h : Hw) : Nat := h.t64 * 2 ^ 16 + h.sub / 2 ^ 32

/-- Descriptors kept of each direction (DESIGN CHOICE, log entry 60). -/
def descKept : Nat := 256

/-! ### Receive (R319–R322) -/

/-- The receive descriptor of a frame: T80 of its arrival, its length, and the VID and PCP of the tag removed (R53, R320). -/
def Hw.rxDescribe (h : Hw) (n : Nat) (f : Frame) : Hw :=
  let m := h.macSt n
  h.setMac n { m with rxDesc :=
    (⟨h.t80, f.length, f.tag.map (fun x => (x.1.toNat, x.2.toNat))⟩ :: m.rxDesc).take descKept }

/-- A frame reaches destination `order` of R320. -/
def Hw.deliverTo (h : Hw) (n order : Nat) : Hw :=
  let m := h.macSt n
  h.setMac n { m with dest := m.dest.put order (m.dest.get 0 order + 1) }

/-- A frame for the peg core: at most 20,000 a second (R322). -/
def Hw.toPeg (h : Hw) (n order : Nat) : Hw × Bool :=
  let m := h.macSt n
  let sec := h.t64 / 1000000000
  let cnt := if m.pegSec = sec then m.pegCnt else 0
  if cnt ≥ 20000 then (h.macCount n 8, false)
  else ((h.setMac n { m with pegSec := sec, pegCnt := cnt + 1 }).deliverTo n order, true)

/-- The RTP packet of a UDP payload; header extensions are skipped (R328, R331). -/
def rtpPacket (b : List Byte) : Packet :=
  let b0 := beNat (sliceB b 0 1)
  let hdr := 12 + 4 * (b0 % 16)
  let hdr := if bitOf b0 4 then hdr + 4 + 4 * beNat (sliceB b (hdr + 2) 2) else hdr
  .rtp (b0 / 64 = 2 && hdr ≤ b.length) (BitVec.ofNat 16 (beNat (sliceB b 2 2)))
    (BitVec.ofNat 32 (beNat (sliceB b 4 4))) (b.drop hdr)

/-- The kitty of an enabled receive stream entry that a datagram matches (R320, order 2). -/
def Hw.rxMatch (h : Hw) (p : Port) (src dst : Word) (dstPort : Nat) : Option Nat :=
  match h.deal.cur with
  | none => none
  | some s => (s.rx.find? (fun e => e.port = p && e.dstIp = dst && e.dstPort = dstPort
      && (match e.srcIp with
        | some x => x = src
        | none => true))).map (·.kitty)

/-- Frame limits of R318. -/
def Hw.frameMax (h : Hw) (n : Nat) : Nat := if h.b (Reg.MAC_CTRL_jumbo n) then 9216 else 1522

/-- The tag passes the VID filter (R320). -/
def Hw.vidOk (h : Hw) (n : Nat) (f : Frame) : Bool :=
  match f.tag with
  | none => h.b (Reg.MAC_CTRL_untag_ok n)
  | some (vid, _) => (List.range 16).any (fun k =>
      h.b (Reg.MAC_VID_FILT_en n k) && h.g (Reg.MAC_VID_FILT_vid n k) == vid.toNat)

/-- RS-FEC runs: selected, at 25 Gbit/s (R318, R345). -/
def Hw.fecOn (h : Hw) (n : Nat) : Bool := h.b (Reg.MAC_CTRL_fec n) && !h.b (Reg.MAC_CTRL_speed n)

/-- The codewords that RS-FEC corrected in a frame are counted (R345). -/
def Hw.fecCount (h : Hw) (n : Nat) (f : Frame) : Hw :=
  if h.fecOn n then h.p (Reg.MAC_CNT_count n 5) (h.g (Reg.MAC_CNT_count n 5) + f.corrected) else h

/-- NET_FRAME_RECEIVE (R319–R322, R345): the codewords that RS-FEC corrected are counted. -/
def Hw.frameReceive (h : Hw) (p : Port) (f : Frame) : Hw :=
  let n := pn p
  if !h.b (Reg.MAC_CTRL_en n) then h
  else
  let h := h.fecCount n f
  if !f.fcsOk || !f.fecOk then h.macCount n 2
  else if f.length < 64 || f.length > h.frameMax n then h.macCount n 3
  else
    match f.kind with
    | .pause => (h.macCount n 4).s1 (Reg.MAC_STAT_pause_seen n)
    | kind =>
      let h := (h.macCount n 1).rxDescribe n f
      if !h.vidOk n f then h.macCount n 6
      else
        match kind with
        | .ptp => (h.toPeg n 1).1
        | .udp src dst _ dp payload =>
          if dp = 319 || dp = 320 then (h.toPeg n 1).1
          else
            match h.rxMatch p src dst dp with
            | some k =>
              let pkt := match (h.inK k).map (·.cfg.src) with
                | some (.brizu _) => Packet.brizu payload
                | _ => rtpPacket payload
              (h.deliverTo n 2).blockAdmit k (some p) true pkt
            | none => if dp = 17760 then h.deliverTo n 3 else if dp = 17761 then h.deliverTo n 4 else h.macCount n 7
        | .arp | .icmpEcho =>
          let (h, ok) := h.toPeg n 5
          if ok then h.send (.net p 5 []) else h
        | .igmpQuery =>
          let (h, ok) := h.toPeg n 5
          if ok then h.send (.net p 6 []) else h
        | _ => h.macCount n 7

/-- NET_LINK_DOWN (R319). -/
def Hw.netLinkDown (h : Hw) (p : Port) : Hw :=
  let n := pn p
  ((h.s0 (Reg.MAC_STAT_link n)).s0 (Reg.MAC_STAT_fec_lock n)).raiseU (0x48 + n)

/-! ### Transmit (R323–R327) -/

/-- A frame joins queue q of port n: its length grows by the tag that MAC_Q_CFG inserts (R323). -/
def Hw.queueFrame (h : Hw) (n q launch len : Nat) (body : List Byte) : Hw :=
  let m := h.macSt n
  let len := len + (if h.b (Reg.MAC_Q_CFG_tag_en n q) then 4 else 0)
  h.setMac n { m with queues := m.queues.put q (m.queues.get [] q ++ [⟨launch, len, body⟩]) }

/-- Bytes of a frame around a UDP payload: Ethernet header and FCS, IPv4 and UDP headers (R318). -/
def udpFrame (payload : Nat) : Nat := max (payload + 46) 64

/-- TX_ENQUEUE. -/
def Hw.txEnqueue (h : Hw) (p : Port) (q launch len : Nat) : Hw := h.queueFrame (pn p) q launch len []

/-- Time on the wire in ns, rounded up: 25 or 10 Gbit/s. -/
def Hw.wireNs (h : Hw) (n len : Nat) : Nat := ceilDiv (8 * len) (if h.b (Reg.MAC_CTRL_speed n) then 10 else 25)

/-- The entries in use of the active slot table (R327); with none in use, the first entry's gates. -/
def Hw.slotEntries (h : Hw) (n : Nat) : List (Nat × Nat) :=
  let all := (List.range 64).map (fun i => (h.g (Reg.MAC_SLOT_ACT_gate n i), h.g (Reg.MAC_SLOT_ACT_dur_ns n i)))
  match all.takeWhile (fun e => e.2 != 0) with
  | [] => all.take 1
  | l => l

def Hw.slotBase (h : Hw) (n : Nat) : Nat :=
  h.g (Reg.MAC_SLOT_BASE_LO_t64 n) + h.g (Reg.MAC_SLOT_BASE_HI_t64 n) * 2 ^ 32

/-- Gates in force at offset o of a cycle, and where that entry ends. -/
def slotAt (cyc : Nat) : List (Nat × Nat) → Nat → Nat → Nat × Nat
  | [], _, _ => (0xFF, cyc)
  | [(g, _)], _, _ => (g, cyc)
  | (g, d) :: t, start, o => if o < start + d || start + d ≥ cyc then (g, min (start + d) cyc) else slotAt cyc t (start + d) o

/-- How long queue q stays open from offset o on, over at most `fuel` entries; 0 when it is closed. -/
def slotOpen (es : List (Nat × Nat)) (cyc q : Nat) : Nat → Nat → Nat
  | 0, _ => 0
  | f + 1, o =>
    let (g, e) := slotAt cyc es 0 o
    if bitOf g q then (e - o) + slotOpen es cyc q f (if e ≥ cyc then 0 else e) else 0

/-- The gate of queue q lets a frame of `ns` pass now (R324). -/
def Hw.gateOk (h : Hw) (n q ns : Nat) : Bool :=
  if !h.b (Reg.MAC_CTRL_slot_en n) then true
  else if h.t64 < h.slotBase n then true
  else
    let cyc := max (h.g (Reg.MAC_SLOT_CYC_ns n)) 1
    decide (ns < slotOpen (h.slotEntries n) cyc q 130 ((h.t64 - h.slotBase n) % cyc))

/-- Queue q's head may start now (R324) (DEDUCED, log entry 40). -/
def Hw.eligible (h : Hw) (n q : Nat) : Bool :=
  let m := h.macSt n
  match m.queues.get [] q with
  | [] => false
  | f :: _ =>
    let ns := h.wireNs n f.len
    f.launch ≤ h.t64 && h.gateOk n q ns
      && (List.range 8).all (fun r => r ≤ q || match m.queues.get [] r with
        | x :: _ => x.launch = 0 || h.t64 + ns < x.launch
        | [] => true)

/-- Take the head of a queue. -/
def Hw.txPop (h : Hw) (n q : Nat) : Hw :=
  let m := h.macSt n
  h.setMac n { m with queues := m.queues.put q ((m.queues.get [] q).drop 1) }

/-- TX_FRAME_START (R319, R324, R325). -/
def Hw.txFrameStart (h : Hw) (p : Port) : Hw :=
  let n := pn p
  if !h.b (Reg.MAC_STAT_link n) then
    match (List.range 8).reverse.find? (fun q => !((h.macSt n).queues.get [] q).isEmpty) with
    | some q => (h.txPop n q).macCount n 11
    | none => h
  else
    match (List.range 8).reverse.find? (fun q => h.eligible n q) with
    | none => h
    | some q =>
      match (h.macSt n).queues.get [] q with
      | [] => h
      | f :: _ =>
        let h := h.txPop n q
        let late := if f.launch = 0 then 0 else h.t64 - f.launch
        if late > h.g (Reg.MAC_LAUNCH_TOL_tol_ns n) then (h.macCount n 10).s1 (Reg.MAC_STAT_launch_miss n)
        else
          let h := if late > 0 then h.macCount n 9 else h
          let m := h.macSt n
          let h := h.setMac n { m with txDesc := (⟨h.t80, f.len, none⟩ :: m.txDesc).take descKept }
          (h.macCount n 0).send (.net p (16 + q) (leBytes 2 f.len ++ f.body))

/-- The active and shadow slot tables change places (R326). -/
def Hw.slotSwap (h : Hw) (n : Nat) : Hw :=
  let h := (List.range 64).foldl (fun h i => h.swapF
    [(Reg.MAC_SLOT_ACT_gate n i, Reg.MAC_SLOT_SHD_gate n i),
     (Reg.MAC_SLOT_ACT_dur_ns n i, Reg.MAC_SLOT_SHD_dur_ns n i)]) h
  (h.p (Reg.MAC_SLOT_SWAP_act_sel n) (1 - h.g (Reg.MAC_SLOT_SWAP_act_sel n))).s0 (Reg.MAC_SLOT_SWAP_swap_req n)

/-- SLOT_CYCLE_START (R326, R327): the clock stands at a cycle start, and a pending swap applies. -/
def Hw.slotCycleStart (h : Hw) (p : Port) : Hw :=
  let n := pn p
  let cyc := max (h.g (Reg.MAC_SLOT_CYC_ns n)) 1
  let base := h.slotBase n
  let t := if h.t64 ≤ base then base else base + ceilDiv (h.t64 - base) cyc * cyc
  let h := h.advanceTo t
  let m := h.macSt n
  let h := h.setMac n { m with cycle := t }
  if h.b (Reg.MAC_SLOT_SWAP_swap_req n) then h.slotSwap n else h

/-- SLOT_SWAP_REQ. -/
def Hw.slotSwapReq (h : Hw) (p : Port) : Hw := h.s1 (Reg.MAC_SLOT_SWAP_swap_req (pn p))

/-! ### PTP (R335–R337) -/

/-- The port whose master ranks best (R337); port A on a tie. -/
def Hw.ptpPort (h : Hw) : Option Nat :=
  match (h.macSt 0).master, (h.macSt 1).master with
  | some a, some b => if b.2.1 < a.2.1 then some 1 else some 0
  | some _, none => some 0
  | none, some _ => some 1
  | none, none => none

/-- The profile in force: 0 AES67, 1 ST 2059-2, 2 802.1AS; and whether the engine sends one-step messages (R335). -/
def Hw.ptpKind (h : Hw) : Nat := Config.ptpProfile h.time.profile % 4

def Hw.oneStep (h : Hw) : Bool := bitOf (Config.ptpProfile h.time.profile) 2

/-- What the engine states in a PTP message: its kind, the profile's domain, the default interval of that kind in log2 s as a
signed byte, and whether a follow-up message completes it (R335). -/
def Hw.ptpBody (h : Hw) (kind : Nat) (interval : Int) (twoStep : Bool) : List Byte :=
  beBytes 1 kind ++ beBytes 1 (if h.ptpKind = 1 then 127 else 0) ++ beBytes 1 (lowBits 8 interval) ++ beBytes 1 (b2n twoStep)

/-- The clockClass that the engine advertises as a master: 6 when locked at quality 0 to 3, 7 in holdover, 248 otherwise
(R419). -/
def Hw.ownClass (h : Hw) : Nat :=
  match h.g Reg.CLK_STAT_state with
  | 2 => if h.g Reg.CLK_STAT_quality ≤ 3 then 6 else 248
  | 4 => 7
  | _ => 248

/-- The stamp of an event message in T80 at the module: less the receive delay, or with the transmit delay (R336; DEDUCED, log
entry 40). -/
def Hw.ptpStamp (h : Hw) (n : Nat) (tx : Bool) : Hw :=
  let m := h.macSt n
  h.setMac n { m with stamp := if tx then h.t80 + h.g (Reg.MAC_TS_COMP_tx_ns n) * 2 ^ 16
                               else h.t80 - h.g (Reg.MAC_TS_COMP_rx_ns n) * 2 ^ 16 }

/-- The T80 stamp that a message carries, 10 bytes. -/
def Hw.stampBytes (h : Hw) (n : Nat) : List Byte := beBytes 10 (h.macSt n).stamp

/-- An event message is stamped and sent; the message itself carries its stamp when the engine sends one-step messages, else its
follow-up does (R335, R336): 1 Sync and 5 its follow-up, 7 a peer delay response and 8 its follow-up. -/
def Hw.ptpEvent (h : Hw) (p : Port) (kind follow : Nat) : Hw :=
  let h := h.ptpStamp (pn p) true
  let stamp := h.stampBytes (pn p)
  let h := h.send (.net p kind (h.ptpBody kind (-3) (!h.oneStep) ++ if h.oneStep then stamp else []))
  if h.oneStep then h else h.send (.net p follow (h.ptpBody follow (-3) false ++ stamp))

/-- PTP_MESSAGE: event messages are stamped in T80, less the receive delay before the lane pins (R336; DEDUCED, log entry 40);
a measurement from the port in use goes to the servo, first its fraction and then its nanoseconds. A delay request is answered
by a master, and under the peer-to-peer mechanism by every engine (R335). -/
def Hw.ptpMessage (h : Hw) (p : Port) (msg : PtpMsg) : Hw :=
  let n := pn p
  let h := match msg with
    | .announce _ _ _ => h
    | _ => h.ptpStamp n false
  match msg with
  | .announce master rank cls =>
    let m := h.macSt n
    match m.master with
    | some (x, r, _) => if x = master || rank < r then h.setMac n { m with master := some (master, rank, cls) } else h
    | none => h.setMac n { m with master := some (master, rank, cls) }
  | .measure master theta =>
    let mine := match (h.macSt n).master with
      | some (x, _, _) => x == master
      | none => false
    if mine && h.ptpPort == some n then
      (h.p Reg.TIME_MEAS_FRAC_frac (lowBits 16 theta)).servoMeasure (lowBits 32 (asr theta 16))
    else h
  | .eventOnly _ => h
  | .delayReq =>
    if h.ptpKind = 2 then h.ptpEvent p 7 8
    else if h.ptpPort.isNone then h.send (.net p 4 (h.ptpBody 4 0 false ++ h.stampBytes n)) else h

/-- PTP_ANNOUNCE_TIMEOUT (R337): the port's master is lost. -/
def Hw.ptpTimeout (h : Hw) (p : Port) : Hw :=
  let m := h.macSt (pn p)
  h.setMac (pn p) { m with master := none }

/-- PTP_MESSAGE_SEND (R335, R337): Sync and Announce as master, which the engine is on no port while it is a slave on another,
the Announce with its clockClass and, under ST 2059-2, the synchronisation metadata TLV; a delay request as slave, or to its peer
under 802.1AS. -/
def Hw.ptpSend (h : Hw) (p : Port) (k : PtpSend) : Hw :=
  match k with
  | .sync => if h.ptpPort.isNone then h.ptpEvent p 1 5 else h
  | .announce =>
    let interval : Int := match h.ptpKind with
      | 1 => -2
      | 2 => 0
      | _ => 1
    if h.ptpPort.isNone then
      h.send (.net p 2 (h.ptpBody 2 interval false ++ beBytes 1 h.ownClass ++ beBytes 1 (b2n (decide (h.ptpKind = 1)))))
    else h
  | .delayReq =>
    if h.ptpKind = 2 then (h.ptpStamp (pn p) true).send (.net p 6 (h.ptpBody 6 0 false))
    else if h.ptpPort.isSome then (h.ptpStamp (pn p) true).send (.net p 3 (h.ptpBody 3 0 false)) else h

end Sys2Proof.Machine
end

