-- ==== Sys2Proof/Machine/LinkOps.lean ====
section
/-! DEFINITION. Serial lanes and Gnogo links (R346–R365): lane power states and bring-up, link training,
sequence numbers, credits, retransmission, delay measurement, routes, block and window frames. -/

namespace Sys2Proof.Machine

/-! ### Lanes -/

def Hw.lane (h : Hw) (n : Nat) : LaneSt := h.lanes.get {} n

def Hw.setLane (h : Hw) (n : Nat) (l : LaneSt) : Hw := { h with lanes := h.lanes.put n l }

/-- The lanes of link k; a tunnel has none (R355). -/
def linkLanes (k : Nat) : List Nat := if k < 4 then [4 + k] else if k = 4 then [2, 3] else []

/-- The link that a lane carries. -/
def laneLink (n : Nat) : Option Nat := if n ≥ 4 then some (n - 4) else if n ≥ 2 then some 4 else none

/-- The lane's function is enabled. -/
def Hw.laneUsed (h : Hw) (n : Nat) : Bool :=
  if n < 2 then h.b (Reg.MAC_CTRL_en n)
  else match laneLink n with
    | some k => h.b (Reg.GNOGO_LINK_CTRL_en k)
    | none => false

/-- The rate code in force: a test rate only while the function is disabled, else the function's rate (R347). -/
def Hw.laneRate (h : Hw) (n : Nat) : Nat := if h.laneUsed n then 0 else h.g (Reg.LANE_CTRL_rate n)

/-- The loopback in force: none while the function is enabled (R353). -/
def Hw.laneLoop (h : Hw) (n : Nat) : Nat := if h.laneUsed n then 0 else h.g (Reg.LANE_CTRL_lpbk n)

/-! ### Links -/

def lkDown : Nat := 0
def lkTrain : Nat := 1
def lkUp : Nat := 2

def Hw.linkSt (h : Hw) (k : Nat) : LinkSt := h.links.get {} k

def Hw.setLink (h : Hw) (k : Nat) (l : LinkSt) : Hw := { h with links := h.links.put k l }

def Hw.linkState (h : Hw) (k : Nat) : Nat := h.g (Reg.GNOGO_LINK_STAT_state k)

def Hw.ownId (h : Hw) : Nat := h.g Reg.GNOGO_ROLE_engine_id

def Hw.enrolled (h : Hw) : Bool := h.b Reg.GNOGO_ROLE_enrolled

/-- Count j of a link. -/
def Hw.linkCount (h : Hw) (k j : Nat) : Hw := h.inc (Reg.GNOGO_LINK_CNT_count k j)

def isTunnel (k : Nat) : Bool := k ≥ 5

/-- Credits of a frame with a body of n bytes (R358). -/
def creditCost (n : Nat) : Nat := (8 + n + 4 + 63) / 64

/-- A whole receive buffer in credits, by virtual channel (R358). -/
def bufCredits (vc : Nat) : Nat :=
  match vc with
  | 0 => 256
  | 1 => 1024
  | _ => 512

/-- The ports of a tunnel (R365, R381). -/
def Hw.tunPorts (h : Hw) (k : Nat) : List Nat :=
  (List.range 2).filter (fun n => bitOf (h.g (Reg.GNOGO_LINK_CTRL_port k)) n)

/-- A frame as it leaves: link header, body and CRC-32C (R356). -/
def gnBytes (f : GnFrame) (ack : Nat) : List Byte :=
  let b := beBytes 1 (64 + f.cls) ++ beBytes 1 f.vc ++ beBytes 2 f.seq ++ beBytes 2 ack ++ beBytes 2 f.body.length ++ f.body
  b ++ beBytes 4 (crc32c b)

/-- A frame leaves on link k: its descriptor holds T80 of its departure (R53). A tunnel's goes as one datagram on each of
its ports, from queue 5 (R323, R365). Every frame carries in ack the current in-order position (R360). -/
def Hw.linkFrame (h : Hw) (k : Nat) (f : GnFrame) : Hw :=
  let l := h.linkSt k
  let b := gnBytes f ((l.rxSeq + 65535) % 65536)
  let h := (h.setLink k { l with txDesc := (⟨h.t80, b.length, none⟩ :: l.txDesc).take descKept }).linkCount k 0
  if isTunnel k then (h.tunPorts k).foldl (fun h n => h.queueFrame n 5 0 (udpFrame b.length) b) h
  else h.send (.link k f.cls b)

/-- An unsequenced frame leaves, ahead of any frame that waits (R357, R359). -/
def Hw.linkSend (h : Hw) (k cls : Nat) (body : List Byte) : Hw := h.linkFrame k { vc := 0, cls := cls, body := body }

def replayBytes (l : LinkSt) : Nat := (l.replay.map (fun f => f.body.length + 12)).foldl (· + ·) 0

/-- The lanes of a link can carry frames now: they are in L0 (R351). -/
def Hw.lanesReady (h : Hw) (k : Nat) : Bool := (linkLanes k).all (fun n => h.g (Reg.LANE_STAT_state n) == 0)

/-- Frames in service order: control, block, window (R359). -/
def nextReady (l : LinkSt) (room : Nat) : Option GnFrame :=
  let ok := fun (f : GnFrame) => creditCost f.body.length ≤ l.credits.getD f.vc 0
    && replayBytes l + f.body.length + 12 ≤ room
  let head := fun vc => (l.waiting.find? (fun f => f.vc = vc)).filter ok
  (head 0).orElse (fun _ => (head 1).orElse (fun _ => head 2))

/-- a is at or before b in the order of 16-bit sequence numbers. -/
def seqLe (a b : Nat) : Bool := (b + 65536 - a) % 65536 < 32768

/-- Credits left on a virtual channel after a frame. -/
def LinkSt.spend (l : LinkSt) (f : GnFrame) : List Nat :=
  l.credits.set f.vc (l.credits.getD f.vc 0 - creditCost f.body.length)

/-- Send what credits and replay room allow: first what is to be sent again, in order, then what waits (R358, R359, R361). -/
def Hw.linkPump : Nat → Hw → Nat → Hw
  | 0, h, _ => h
  | fuel + 1, h, k =>
    let l := h.linkSt k
    if h.linkState k != lkUp || !h.lanesReady k then h
    else
      match l.resend with
      | some s =>
        match l.replay.find? (fun f => seqLe s f.seq) with
        | none => Hw.linkPump fuel (h.setLink k { l with resend := none }) k
        | some f =>
          if l.credits.getD f.vc 0 < creditCost f.body.length then h
          else
            let g := { f with tries := f.tries + 1, sentAt := h.t64 }
            let h := h.setLink k { l with
              credits := l.spend f
              resend := some ((f.seq + 1) % 65536)
              replay := l.replay.map (fun x => if x.seq = f.seq then g else x) }
            Hw.linkPump fuel ((h.linkCount k 4).linkFrame k g) k
      | none =>
        match nextReady l (if isTunnel k then 131072 else 65536) with
        | none => h
        | some f =>
          let g := { f with seq := l.txSeq, tries := 1, sentAt := h.t64 }
          let h := h.setLink k { l with
            waiting := l.waiting.erase f
            txSeq := (l.txSeq + 1) % 65536
            credits := l.spend f
            replay := l.replay ++ [g] }
          Hw.linkPump fuel (h.linkFrame k g) k

/-- Send all that may go now. -/
def Hw.linkGo (h : Hw) (k : Nat) : Hw :=
  let l := h.linkSt k
  Hw.linkPump (l.waiting.length + l.replay.length + 2) h k

/-- Queue a sequenced frame on a link; a Gnogo lane in L1 with auto_wake starts its exit to L0 (R351). -/
def Hw.linkQueue (h : Hw) (k vc cls : Nat) (body : List Byte) : Hw :=
  let l := h.linkSt k
  let h := h.setLink k { l with waiting := l.waiting ++ [{ vc := vc, cls := cls, body := body }] }
  let h := (linkLanes k).foldl (fun h n =>
    if h.g (Reg.LANE_STAT_state n) == 1 && h.b (Reg.LANE_CTRL_auto_wake n) && !h.b (Reg.LANE_STAT_busy n) then
      (h.setLane n { h.lane n with target := 0 }).s1 (Reg.LANE_STAT_busy n)
    else h) h
  h.linkGo k

/-! ### Routes (R364, R375) -/

/-- This engine's UP links with their enrolled peers. -/
def Hw.upLinks (h : Hw) : List (Nat × Nat) :=
  ((List.range 13).filter (fun k => h.linkState k = lkUp && h.b (Reg.GNOGO_LINK_STAT_peer_valid k)
    && !h.table.barred.contains k)).map (fun k => (k, h.g (Reg.GNOGO_LINK_STAT_peer k)))

/-- Breadth-first search: engines reached in one more hop, each with the first link of its route. -/
def routeGrow (topo : Tab (List (Nat × Nat))) : Nat → Tab Nat → List Nat → Tab Nat
  | 0, done, _ => done
  | f + 1, done, frontier =>
    let new := frontier.flatMap (fun e => ((topo.get [] e).map (·.2)).map (fun p => (p, done.get 0 e)))
    let fresh := new.filter (fun e => (done.find? e.1).isNone)
    if fresh.isEmpty then done
    else
      let done' := fresh.foldl (fun t e => match t.find? e.1 with
        | some k => if e.2 < k then t.put e.1 e.2 else t
        | none => t.put e.1 e.2) done
      routeGrow topo f done' (fresh.map (·.1)).dedup

/-- The route table: fewest hops, then the lowest link index. -/
def Hw.makeRoutes (h : Hw) : Hw :=
  let direct := h.upLinks.foldl (fun (t : Tab Nat) e => match t.find? e.2 with
    | some _ => t
    | none => t.put e.2 e.1) (Tab.put [] h.ownId 99)
  let all := routeGrow h.table.topo 64 direct (h.upLinks.map (·.2)).dedup
  let t := h.table
  { h with table := { t with routes := all.del h.ownId } }

def Hw.route? (h : Hw) (dst : Nat) : Option Nat := h.table.routes.find? dst

/-- A routed frame: queued on its route's link, or discarded and counted (R364). -/
def Hw.routeSend (h : Hw) (dst vc cls : Nat) (body : List Byte) (onto : Nat) : Hw :=
  match h.route? dst with
  | some k => h.linkQueue k vc cls body
  | none => h.linkCount onto 7

/-- The key_id of a message to an engine: the pairwise key where there is one, else the table key; 0 for enrolment
and where there is none (R366, R509). -/
def Hw.sendKey (h : Hw) (dst mtype : Nat) : Nat :=
  if 0x30 ≤ mtype && mtype ≤ 0x33 || mtype = 0x36 then 0
  else match h.table.pairs.find? dst with
    | some k => k.keyId
    | none => (h.table.keys.head?.map (·.keyId)).getD 0

/-- The sender's view of an engine's role epoch: what its last STALE_ROLE said, else that of one enrolment. -/
def Hw.epochOf (h : Hw) (dst : Nat) : Nat :=
  match h.table.staleSeen.find? (fun e => e.1 = dst) with
  | some e => e.2.2.2
  | none => 1

/-- The body of a CTRL message after its routing header: under the key of key_id, or in clear with a zero tag (R366). -/
def sealed (keyId counter : Nat) (hdr body : List Byte) : List Byte :=
  if keyId = 0 then body ++ List.replicate 16 0 else Config.gcmSeal keyId counter hdr body

/-- The routing header of a CTRL message that this engine sends (R366). -/
def Hw.ctrlHdr (h : Hw) (dst role mtype : Nat) : List Byte :=
  beBytes 2 dst ++ beBytes 2 h.ownId ++ beBytes 1 (role + 24) ++ beBytes 1 8 ++ beBytes 2 mtype
    ++ beBytes 4 (h.epochOf dst) ++ beBytes 4 (h.sendKey dst mtype) ++ beBytes 8 h.table.sendCtr

/-- The routing header and the message. -/
def Hw.ctrlBody (h : Hw) (dst role mtype : Nat) (body : List Byte) : List Byte :=
  let hdr := h.ctrlHdr dst role mtype
  hdr ++ sealed (h.sendKey dst mtype) h.table.sendCtr hdr body

/-- The counter rises with every message (R366). -/
def Hw.nextCtr (h : Hw) : Hw := let t := h.table; { h with table := { t with sendCtr := t.sendCtr + 1 } }

/-- Send a CTRL message to an engine by its route; dst_role 7 is any, twin 3 any. -/
def Hw.ctrl (h : Hw) (dst mtype : Nat) (body : List Byte) : Hw :=
  let h := h.nextCtr
  let b := h.ctrlBody dst 7 mtype body
  (h.send (.ctrl dst mtype body)).routeSend dst 0 2 b 0

/-- Send a CTRL message on one link. -/
def Hw.ctrlOn (h : Hw) (k mtype : Nat) (body : List Byte) : Hw :=
  let h := h.nextCtr
  h.linkQueue k 0 2 (h.ctrlBody 0xFFFF 7 mtype body)

/-- The entry by which the TOPO of a withdrawn manager tells its workers so (R375; DESIGN CHOICE, log entry 42). -/
def withdrawnMark : Nat × Nat := (0xFFFF, 0xFFFF)

/-- TOPO: the list of UP links and peers, on every UP link (R364). -/
def Hw.topoSend (h : Hw) : Hw :=
  let mark := if h.table.withdrawn && h.ownId % 32 = 0 then [withdrawnMark] else []
  let body := (mark ++ h.upLinks).flatMap (fun e => beBytes 2 e.1 ++ beBytes 2 e.2)
  h.upLinks.foldl (fun h e => h.ctrlOn e.1 0x40 body) h

/-! ### Bring-up and going down (R362) -/

/-- What a link holds is empty; its descriptors stay. -/
def Hw.linkClear (h : Hw) (k : Nat) : Hw :=
  let l := h.linkSt k
  h.setLink k { rxDesc := l.rxDesc, txDesc := l.txDesc }

/-- DOWN to TRAIN when enabled and not held DOWN by reaction 4 (R464), the lanes in L0 with block lock and their equaliser sweep complete. -/
def Hw.linkTry (h : Hw) (k : Nat) : Hw :=
  if h.linkState k != lkDown || !h.b (Reg.GNOGO_LINK_CTRL_en k) || (h.flt.holds.find? k).isSome then h
  else if (linkLanes k).all (fun n => h.g (Reg.LANE_STAT_state n) == 0 && h.b (Reg.LANE_STAT_blk_lock n)
      && (!h.b (Reg.LANE_EQ_auto n) || (h.lane n).eqDone)) then
    (h.linkClear k).p (Reg.GNOGO_LINK_STAT_state k) lkTrain
  else h

/-- A link goes DOWN: what it held is discarded and counted, and control messages take another route. Its next bring-up has an
equaliser sweep of its own (R349). -/
def Hw.linkDown (h : Hw) (k : Nat) : Hw :=
  if h.linkState k = lkDown then h
  else
    let l := h.linkSt k
    let was := h.linkState k
    let h := (h.linkClear k).p (Reg.GNOGO_LINK_STAT_state k) lkDown
    let h := (linkLanes k).foldl (fun h n => h.setLane n { h.lane n with eqDone := false }) h
    let h := h.makeRoutes
    let h := (l.replay ++ l.waiting).foldl (fun h f =>
      if f.vc = 0 && (h.route? (beNat (sliceB f.body 0 2))).isSome
      then h.routeSend (beNat (sliceB f.body 0 2)) 0 f.cls f.body k
      else h.linkCount k 7) h
    let h := if was = lkUp then h.topoSend else h
    h.linkTry k

/-- The retry limit of R361. -/
def Hw.linkRetryDown (h : Hw) (k : Nat) : Hw :=
  (((h.s1 (Reg.GNOGO_LINK_STAT_retry_lim k)).raiseU (0x50 + k))).linkDown k

/-- Retransmit, in order, from a sequence number; what credits do not allow now goes when they come (R358, R361). -/
def Hw.retransmit (h : Hw) (k : Nat) (from' : Nat) : Hw :=
  let l := h.linkSt k
  if (l.replay.filter (fun f => seqLe from' f.seq)).any (fun f => f.tries ≥ 8) then h.linkRetryDown k
  else (h.setLink k { l with resend := some from' }).linkGo k

/-- An ack covers the frames up to it, and frames that waited may go. -/
def Hw.linkAck (h : Hw) (k ack : Nat) : Hw :=
  let l := h.linkSt k
  (h.setLink k { l with replay := l.replay.filter (fun f => !seqLe f.seq ack) }).linkGo k

/-- Credits of freed buffers, all owed, in one CREDIT frame (R358). -/
def Hw.creditSend (h : Hw) (k : Nat) : Hw :=
  let l := h.linkSt k
  if l.owed.all (· == 0) then h
  else (h.setLink k { l with owed := [0, 0, 0] }).linkSend k 0x10 (l.owed.flatMap (beBytes 2) ++ beBytes 2 0)

/-- A buffer of virtual channel vc is freed: at a quarter of the buffer the credits go at once. -/
def Hw.oweCredits (h : Hw) (k vc len : Nat) : Hw :=
  let l := h.linkSt k
  let n := l.owed.getD vc 0 + creditCost len
  let h := h.setLink k { l with owed := l.owed.set vc n }
  if 4 * n ≥ bufCredits vc then h.creditSend k else h

/-- A NAK for the expected seq, once in 4 µs, or 2 ms on a tunnel (R360). -/
def Hw.nakSend (h : Hw) (k : Nat) : Hw :=
  let l := h.linkSt k
  let again := match l.nak with
    | some (s, t) => s != l.rxSeq || h.t64 ≥ t + (if isTunnel k then 2000000 else 4000)
    | none => true
  if again then
    ((h.setLink k { l with nak := some (l.rxSeq, h.t64) }).linkCount k 3).linkSend k 0x11
      (beBytes 2 l.rxSeq ++ beBytes 2 0)
  else h

/-- A frame arrives on link k (R357, R360): counted; a bad one, and a sequenced one out of order, discarded; its credits are
owed all the same (R358), and a duplicate brings the sender an ack, in the CREDIT frame that returns them. Answers whether it is
accepted. Its descriptor holds T80 of its arrival (R53). -/
def Hw.linkRx (h : Hw) (x : Link) (sequenced : Bool) (vc : Nat) : Hw × Bool :=
  let k := x.link.val
  if h.linkState k != lkUp then (h, false)
  else if !x.ok then
    let h := h.linkCount k 2
    (if sequenced then (h.oweCredits k vc x.len).nakSend k else h, false)
  else
    let h := h.linkCount k 1
    let l := h.linkSt k
    let h := (h.setLink k { l with
      lastRx := h.t64
      rxDesc := (⟨h.t80, x.len, none⟩ :: l.rxDesc).take descKept }).linkAck k x.ack.toNat
    if !sequenced then (h, true)
    else
      let l := h.linkSt k
      let h' := h.oweCredits k vc x.len
      if x.seq.toNat = l.rxSeq then
        let l := h'.linkSt k
        (h'.setLink k { l with rxSeq := (l.rxSeq + 1) % 65536 }, true)
      else if seqLe x.seq.toNat l.rxSeq then ((h'.linkCount k 5).creditSend k, false)
      else (h'.nakSend k, false)

/-! ### The rows of lanes -/

/-- A lane state change that is wanted begins (R352). Leaving L0 abandons the frames of a port not yet started; those of a link
stay in its buffers (R361). -/
def Hw.laneBegin (h : Hw) (n : Nat) : Hw :=
  let want := h.g (Reg.LANE_CTRL_state_req n)
  if h.b (Reg.LANE_STAT_busy n) || want = h.g (Reg.LANE_STAT_state n) then h
  else
    let h := if n < 2 && h.g (Reg.LANE_STAT_state n) == 0 then
        let m := h.macSt n
        h.setMac n { m with queues := [] }
      else h
    (h.setLane n { h.lane n with target := want }).s1 (Reg.LANE_STAT_busy n)

/-- LANE_STATE_REQ (R351, R352): L1 is not for lanes 0 and 1; the reserved code is discarded. -/
def Hw.laneStateReq (h : Hw) (n s : Nat) (master : Nat) : Hw :=
  if s = 3 then h.valueErr (Reg.LANE_CTRL_state_req n).addr master
  else if s = 1 && n < 2 then h.s1 (Reg.LANE_STAT_live_wr n)
  else (h.p (Reg.LANE_CTRL_state_req n) s).laneBegin n

/-- LANE_STATE_DONE (R351, R352). Leaving L0 or entering L2 loses block lock with what depends on it. -/
def Hw.laneStateDone (h : Hw) (n : Nat) : Hw :=
  if !h.b (Reg.LANE_STAT_busy n) then h
  else
    let t := (h.lane n).target
    let h := (h.p (Reg.LANE_STAT_state n) t).s0 (Reg.LANE_STAT_busy n)
    let h := h.p (Reg.LANE_STAT_cdr_lock n) (b2n (t != 2))
    let h := if t = 2 then
        let h := (h.s0 (Reg.LANE_STAT_blk_lock n)).setLane n { h.lane n with eqDone := false }
        match laneLink n with
        | some k => h.linkDown k
        | none => (h.s0 (Reg.MAC_STAT_link n)).s0 (Reg.MAC_STAT_fec_lock n)
      else h
    let h := h.laneBegin n
    match laneLink n with
    | some k => (h.linkTry k).linkGo k
    | none => h

/-- Runs of set bits of the codes 0–15: (first, length). -/
def codeRuns (m : Nat) : List (Nat × Nat) :=
  let r := (List.range 17).foldl (fun (s : List (Nat × Nat) × Option Nat) i =>
    if bitOf m i && i < 16 then (s.1, some (s.2.getD i))
    else match s.2 with
      | some a => (s.1 ++ [(a, i - a)], none)
      | none => s) ([], none)
  r.1

/-- LANE_EQ_SWEEP_DONE (R349): the lower middle code of the longest error-free run; which run, where two are
longest, is open (DESIGN CHOICE, log entry 41). -/
def Hw.laneEqDone (h : Hw) (n mask : Nat) : Hw :=
  let h := h.setLane n { h.lane n with eqDone := true }
  let runs := codeRuns mask
  let best := (runs.map (·.2)).foldl Nat.max 0
  let long := runs.filter (fun r => r.2 = best)
  let h := if !h.b (Reg.LANE_EQ_auto n) then h.p (Reg.LANE_STAT_ctle_act n) (h.g (Reg.LANE_EQ_ctle n))
    else if long.isEmpty then (h.p (Reg.LANE_STAT_ctle_act n) 15).s1 (Reg.LANE_STAT_eq_fail n)
    else
      let (v, h) := if long.length > 1 then h.draw else (0, h)
      let r := long.getD (v % long.length) (0, 1)
      h.p (Reg.LANE_STAT_ctle_act n) (r.1 + (r.2 - 1) / 2)
  match laneLink n with
  | some k => h.linkTry k
  | none => h

/-- BLOCK_LOCK_REGAIN: the lane has block lock again, and FEC lock where it is used. -/
def Hw.blockLock (h : Hw) (n : Nat) (fec : Bool) : Hw :=
  let h := (h.s1 (Reg.LANE_STAT_blk_lock n)).s1 (Reg.LANE_STAT_cdr_lock n)
  match laneLink n with
  | some k => h.linkTry k
  | none =>
    let useFec := h.b (Reg.MAC_CTRL_fec n) && !h.b (Reg.MAC_CTRL_speed n)
    let h := h.p (Reg.MAC_STAT_fec_lock n) (b2n (fec && useFec))
    h.p (Reg.MAC_STAT_link n) (b2n (!useFec || fec))

/-- PRBS_SYNC (R354): sync is gained or lost; the bits errored since the last row count while the checker was in sync. -/
def Hw.prbsSync (h : Hw) (n : Nat) (gained : Bool) (errs : Nat) : Hw :=
  if h.g (Reg.LANE_CTRL_prbs_chk n) = 0 then h
  else
    let h := if h.b (Reg.LANE_STAT_prbs_sync n) then
        h.p (Reg.LANE_PRBS_ERR_count n) (h.g (Reg.LANE_PRBS_ERR_count n) + errs) else h
    h.p (Reg.LANE_STAT_prbs_sync n) (b2n gained)

/-! ### The rows of links -/

/-- GNOGO_LINK_ENABLE: a write of GNOGO_LINK_CTRL (R347, R362, R381). -/
def Hw.linkEnable (h : Hw) (k w : Nat) : Hw :=
  let was := h.b (Reg.GNOGO_LINK_CTRL_en k)
  let en := bitOf w 0
  let rate := bitsOf w 1 1
  let port := bitsOf w 2 2
  let moved := rate != h.g (Reg.GNOGO_LINK_CTRL_rate k) || port != h.g (Reg.GNOGO_LINK_CTRL_port k)
  if was then
    let h := if moved then h.s1 (Reg.GNOGO_LINK_STAT_live_wr k) else h
    if en then h else (h.s0 (Reg.GNOGO_LINK_CTRL_en k)).linkDown k
  else
    let h := (h.p (Reg.GNOGO_LINK_CTRL_rate k) rate).p (Reg.GNOGO_LINK_CTRL_port k) port
    if !en then h
    else if isTunnel k && port = 0 then h.s1 (Reg.GNOGO_LINK_STAT_live_wr k)
    else
      (h.s1 (Reg.GNOGO_LINK_CTRL_en k)).linkTry k

/-- TRAIN_SEND (R362). -/
def Hw.trainSend (h : Hw) (k : Nat) : Hw :=
  if h.linkState k != lkTrain then h
  else
    let id := if h.enrolled then h.ownId else 0xFFFF
    h.linkSend k 0x13 (beBytes 2 id ++ beBytes 1 k ++ beBytes 1 (b2n ((h.linkSt k).trainRun ≥ 3)))

/-- GNOGO_LINK_DOWN: no valid frame for 3 ms; before that time has passed it can only be block lock lost for 10 µs, which its
lanes then show (R355, R362; DEDUCED, log entry 41). -/
def Hw.gnogoDown (h : Hw) (k : Nat) : Hw :=
  let h := if (h.linkSt k).lastRx + 3000000 ≤ h.t64 then h
    else (linkLanes k).foldl (fun h n => h.s0 (Reg.LANE_STAT_blk_lock n)) h
  h.linkDown k

/-- CREDIT (R358). -/
def Hw.creditRx (h : Hw) (x : Link) (c0 c1 c2 : Nat) : Hw :=
  let (h, ok) := h.linkRx x false 0
  if !ok then h
  else
    let k := x.link.val
    let l := h.linkSt k
    (h.setLink k { l with credits := List.zipWith (· + ·) l.credits [c0, c1, c2] }).linkGo k

/-- NAK (R361). -/
def Hw.nakRx (h : Hw) (x : Link) (expected : Nat) : Hw :=
  let (h, ok) := h.linkRx x false 0
  if ok then h.retransmit x.link.val expected else h

/-- GNOGO_RETRANSMIT_TIMEOUT (R361): 20 µs, or 2 ms on a tunnel, after the oldest was last sent. -/
def Hw.retransmitTimeout (h : Hw) (k : Nat) : Hw :=
  match (h.linkSt k).replay with
  | [] => h
  | f :: _ => (h.advanceTo (f.sentAt + if isTunnel k then 2000000 else 20000)).retransmit k f.seq

/-- LDM (R363): a request is answered; a reply gives one delay, and the mean of the last 16. t4 is this engine's own
receive stamp, from its time unit (R4). -/
def Hw.ldmRx (h : Hw) (x : Link) (reply : Bool) (t1 t2 t3 : Nat) : Hw :=
  let (h, ok) := h.linkRx x false 0
  let k := x.link.val
  if !ok then h
  else if !reply then
    h.linkSend k 0x12 (beBytes 1 1 ++ beBytes 1 0 ++ beBytes 10 t1 ++ beBytes 10 h.t80 ++ beBytes 10 h.t80)
  else
    let d := (((h.t80 : Int) - t1) - ((t3 : Int) - t2)) / 2
    let l := h.linkSt k
    let ds := (d :: l.delays).take 16
    let mean := ds.foldl (· + ·) 0 / (ds.length : Int)
    (h.setLink k { l with delays := ds }).p (Reg.GNOGO_LINK_DLY_dly k) (lowBits 32 (asr mean 8))

/-- LDM_REQUEST_SEND (R363). -/
def Hw.ldmSend (h : Hw) (k : Nat) : Hw :=
  if h.linkState k != lkUp then h
  else h.linkSend k 0x12 (beBytes 1 0 ++ beBytes 1 0 ++ beBytes 10 h.t80 ++ beBytes 10 0 ++ beBytes 10 0)

/-- A frame on a link barred by a withdrawal is discarded (R375). -/
def Hw.barredRx (h : Hw) (k : Nat) : Bool := h.table.barred.contains k

/-- The kitties fed by Gnogo with a block's stream ID. -/
def Hw.gnogoKitties (h : Hw) (b : List Byte) : List Nat :=
  (h.kin.filter (fun e => e.2.cfg.src = .gnogo && e.2.cfg.streamId = (brizuHdr b).streamId)).map (·.1)

/-- GNOGO_BLOCK (R357, R364). -/
def Hw.gnogoBlock (h : Hw) (x : Link) (dst hops : Nat) (b : List Byte) : Hw :=
  let (h, ok) := h.linkRx x true 1
  let k := x.link.val
  if !ok then h
  else if h.barredRx k then h.linkCount k 7
  else if dst = h.ownId then (h.gnogoKitties b).foldl (fun h i => h.blockAdmit i none true (.brizu b)) h
  else if hops ≤ 1 then h.linkCount k 7
  else h.routeSend dst 1 1 (beBytes 2 dst ++ beBytes 1 (hops - 1) ++ beBytes 1 0 ++ b) k

/-- The deal exports a range of the deck to an engine (R295). -/
def Hw.exportsTo (h : Hw) (src off len : Nat) : Bool :=
  match h.deal.cur with
  | some s => s.exports.any (fun e => e.1 = src && e.2.1 ≤ off && off + len ≤ e.2.1 + e.2.2)
  | none => false

/-- WREQ (R295): served from the deck, or answered with an error; others are forwarded. -/
def Hw.wreq (h : Hw) (x : Link) (dst src tag beats off : Nat) : Hw :=
  let (h, ok) := h.linkRx x true 2
  let k := x.link.val
  if !ok then h
  else if h.barredRx k then h.linkCount k 7
  else if dst != h.ownId then
    h.routeSend dst 2 3 (beBytes 2 dst ++ beBytes 2 src ++ beBytes 2 tag ++ beBytes 2 beats ++ beBytes 4 off) k
  else
    let good := 1 ≤ beats && beats ≤ 16 && h.exportsTo src off (16 * beats)
    let data := if good then h.rdBytes (deckBase + off) (16 * beats) else List.replicate (16 * beats) 0
    h.routeSend src 2 4 (beBytes 2 src ++ beBytes 2 h.ownId ++ beBytes 2 tag ++ beBytes 2 (b2n (!good)) ++ data) k

/-- Remote pieces granted at target 0x32 are sent to the engine of their window (R295). -/
def Hw.remoteSend : Nat → Hw → Hw
  | 0, h => h
  | f + 1, h =>
    match (h.arb 0x32).inFlight with
    | none => h
    | some p =>
      match h.place p.master p.dealer p.addr with
      | .remote w off =>
        let tag := h.xbar.nextTag
        let h := h.pieceDone 0x32 p
        let x := h.xbar
        let h : Hw := { h with xbar := { x with
          nextTag := (tag + 1) % 65536
          remote := x.remote.put tag { window := w, piece := p, sent := h.t64 } } }
        let dst := h.g (Reg.XBAR_WIN_CTRL_engine w)
        let h := match h.route? dst with
          | some k => h.linkQueue k 2 3 (beBytes 2 dst ++ beBytes 2 h.ownId ++ beBytes 2 tag
              ++ beBytes 2 ((p.len + 15) / 16) ++ beBytes 4 off)
          | none => h
        Hw.remoteSend f h
      | _ => Hw.remoteSend f ((h.pieceDone 0x32 p).decodeError p)

/-- WRSP (R296): completes the waiting piece; a later answer is discarded. -/
def Hw.wrsp (h : Hw) (x : Link) (dst src tag : Nat) (err : Bool) (data : List Byte) : Hw :=
  let (h, ok) := h.linkRx x true 2
  let k := x.link.val
  if !ok then h
  else if h.barredRx k then h.linkCount k 7
  else if dst != h.ownId then
    h.routeSend dst 2 4 (beBytes 2 dst ++ beBytes 2 src ++ beBytes 2 tag ++ beBytes 2 (b2n err) ++ data) k
  else Hw.remoteSend 4 (h.remoteEnd tag (if err then none else some data))

end Sys2Proof.Machine
end

