-- ==== Sys2Proof/Machine/TableOps.lean ====
section
/-! DEFINITION. Control messages, tables, houses, fault reports, enrolment and keys (R362, R364, R366–R379,
R508–R509). -/

namespace Sys2Proof.Machine

/-! ### Role -/

def Hw.role (h : Hw) : Nat := h.g Reg.GNOGO_ROLE_role

/-- The engine manages a table: role 2, or 3 as house manager. -/
def Hw.isManager (h : Hw) : Bool := h.role = 2 || h.role = 3

/-- The engine is a worker of a table. -/
def Hw.isWorker (h : Hw) : Bool := h.role = 1

/-- The engine ID of the manager's seat of the engine's table (R369). -/
def Hw.managerId (h : Hw) : Nat := h.ownId / 32 * 32

/-- A record of a role change (R57, type 0x06). -/
def Hw.traceRole (h : Hw) : Hw :=
  h.trace 6 (leBytes 1 h.role ++ leBytes 1 (h.g Reg.GNOGO_ROLE_twin) ++ leBytes 4 h.table.epoch)

/-- A role change: the role epoch rises by 1 (R370, R373). -/
def Hw.setRole (h : Hw) (role : Nat) : Hw :=
  let h := h.p Reg.GNOGO_ROLE_role role
  let t := h.table
  (({ h with table := { t with epoch := (t.epoch + 1) % 4294967296 } } : Hw).s1 Reg.HOST_IRQ_STAT_role).traceRole

/-- The device certificate as OTP holds it: a length, then the certificate (R507). -/
def Hw.certificate (h : Hw) : List Byte :=
  let n := (h.otp.get 0 0x500).toNat + 256 * (h.otp.get 0 0x501).toNat
  (List.range (min n 2046)).map (fun i => h.otp.get 0 (0x502 + i))

/-- The word of SYS_STATE (R277). -/
def Hw.sysStateWord (h : Hw) : Nat := h.rawRead 0x40000004

/-! ### Acceptance of a control message (R366, R367) -/

/-- A superseded key, and one before its time, fail (R509); of other keys `tagOk` tells all. -/
def Hw.keyInForce (h : Hw) (keyId : Nat) : Bool :=
  let t := h.table
  let old := match t.keys with
    | k :: rest => rest.any (fun x => x.keyId = keyId) && k.keyId != keyId && decide (h.t64 > k.active + 1000000000)
    | [] => false
  let early := match t.nextKey with
    | some k => k.keyId = keyId && decide (h.t64 + 1000000000 < k.active)
    | none => false
  !old && !early

/-- Authentication: a good tag under a key in force, and a counter above the last of its key and source. -/
def Hw.ctrlAuth (h : Hw) (c : Ctrl) : Hw × Bool :=
  let t := h.table
  let key := (c.src, c.keyId.toNat)
  if !c.tagOk || !h.keyInForce c.keyId.toNat then (h, false)
  else match t.counters.find? (fun e => e.1 = key) with
    | some e =>
      if c.counter ≤ e.2 then (h, false)
      else ({ h with table := { t with counters := t.counters.map (fun x => if x.1 = key then (key, c.counter) else x) } },
        true)
    | none => ({ h with table := { t with counters := t.counters ++ [(key, c.counter)] } }, true)

/-- The role check of R367. -/
def Hw.roleMatch (h : Hw) (c : Ctrl) : Bool :=
  (c.dstRole = h.role || c.dstRole = 7 || (c.dstRole = 2 && h.role = 3))
    && (c.dstTwin = 3 || c.dstTwin = h.g Reg.GNOGO_ROLE_twin) && c.epoch.toNat = h.table.epoch

/-- The answer STALE_ROLE, at most one in 1 ms to one source, never to a STALE_ROLE. -/
def Hw.staleAnswer (h : Hw) (c : Ctrl) (mtype : Nat) : Hw :=
  let t := h.table
  let again := match t.staleAt.find? c.src with
    | some x => h.t64 ≥ x + 1000000
    | none => true
  if mtype = 0x50 || !again then h
  else
    let h : Hw := { h with table := { t with staleAt := t.staleAt.put c.src h.t64 } }
    let h := h.linkCount c.link.link.val 6
    h.ctrl c.src 0x50 (beBytes 1 h.role ++ beBytes 1 (h.g Reg.GNOGO_ROLE_twin) ++ beBytes 4 h.table.epoch
      ++ beBytes 2 mtype ++ beBytes 8 c.counter)

/-- The routing header of a message on its way (R366). -/
def relayHdr (c : Ctrl) (ttl mtype : Nat) : List Byte :=
  beBytes 2 c.dst ++ beBytes 2 c.src ++ beBytes 1 (c.dstRole % 8 + 8 * (c.dstTwin % 4)) ++ beBytes 1 ttl ++ beBytes 2 mtype
    ++ beBytes 4 c.epoch.toNat ++ beBytes 4 c.keyId.toNat ++ beBytes 8 c.counter

/-- A message passed on: its ttl falls, and what its source sealed stays (R364, R366). -/
def relayBytes (c : Ctrl) (ttl mtype : Nat) (body : List Byte) : List Byte :=
  relayHdr c ttl mtype ++ sealed c.keyId.toNat c.counter (relayHdr c 8 mtype) body

/-- A CTRL message arrives: link, route, authentication and role (R357, R364, R366, R367, R375). `body` is what a
forwarding engine passes on. Answers whether this engine acts on it. -/
def Hw.ctrlAccept (h : Hw) (c : Ctrl) (mtype : Nat) (body : List Byte) : Hw × Bool :=
  let k := c.link.link.val
  let (h, ok) := h.linkRx c.link true 0
  if !ok then (h, false)
  else if h.barredRx k then (h.linkCount k 7, false)
  else if c.dst != h.ownId && mtype != 0x40 then
    if c.ttl ≤ 1 then (h.linkCount k 7, false)
    else
      (h.routeSend c.dst 0 2 (relayBytes c (c.ttl - 1) mtype body) k, false)
  else
    let enrol := 0x30 ≤ mtype && mtype ≤ 0x3F
    let (h, ok) := if enrol && c.keyId = 0 then (h, true) else h.ctrlAuth c
    if !ok then (h, false)
    else if enrol || mtype = 0x40 || mtype = 0x41 || h.roleMatch c then (h, true)
    else (h.staleAnswer c mtype, false)

/-- STALE_ROLE (R367). -/
def Hw.staleRx (h : Hw) (c : Ctrl) (role twin epoch mtype counter : Nat) : Hw :=
  let (h, ok) := h.ctrlAccept c 0x50 (beBytes 1 role ++ beBytes 1 twin ++ beBytes 4 epoch ++ beBytes 2 mtype
    ++ beBytes 8 counter)
  if !ok then h
  else
    let t := h.table
    ({ h with table := { t with
      staleSeen := (c.src, role, twin, epoch) :: t.staleSeen.filter (fun e => e.1 != c.src) } } : Hw).s1
      Reg.GNOGO_STAT_stale_rx

/-- PROED_RSP (R255). -/
def Hw.proedRspRx (h : Hw) (c : Ctrl) (status seq : Nat) : Hw :=
  let (h, ok) := h.ctrlAccept c 2 (beBytes 2 status ++ beBytes 2 seq)
  if !ok then h
  else
    let t := h.table
    { h with table := { t with responses := t.responses ++ [(c.src, seq, status)] } }

/-! ### Topology (R364) -/

/-- Links whose peer belongs to another table that holds this engine's table index: the peer has this engine's own ID, or an ID
of its table but none of the links that it tells of leads here (R375; DESIGN CHOICE, log entry 42). -/
def Hw.foreignLinks (h : Hw) : List Nat :=
  (List.range 13).filter (fun k =>
    let p := h.g (Reg.GNOGO_LINK_STAT_peer k)
    h.linkState k = lkUp && h.b (Reg.GNOGO_LINK_STAT_peer_valid k) && p / 32 = h.ownId / 32
      && (p = h.ownId || !(h.table.topo.get [] p).any (fun e => e.2 = h.ownId)))

/-- A worker takes part in its manager's withdrawal, which the manager's TOPO tells (R375). -/
def Hw.followWithdrawal (h : Hw) (on : Bool) : Hw :=
  let t := h.table
  { h with table := { t with withdrawn := on, barred := if on then h.foreignLinks else [] } }

/-- TOPO: the list is stored, routes are rebuilt, and the message is flooded on the other UP links. A list that
comes straight from its sender tells who the link's peer is. -/
def Hw.topoRx (h : Hw) (c : Ctrl) (links : List (Nat × Nat)) : Hw :=
  let body := links.flatMap (fun e => beBytes 2 e.1 ++ beBytes 2 e.2)
  let (h, ok) := h.ctrlAccept c 0x40 body
  if !ok then h
  else
    let k := c.link.link.val
    let h := if c.ttl = 8 && c.src != h.g (Reg.GNOGO_LINK_STAT_peer k) || !h.b (Reg.GNOGO_LINK_STAT_peer_valid k) then
        if c.ttl = 8 then (h.p (Reg.GNOGO_LINK_STAT_peer k) c.src).s1 (Reg.GNOGO_LINK_STAT_peer_valid k) else h
      else h
    let t := h.table
    let h : Hw := { h with table := { t with topo := t.topo.put c.src (links.filter (· != withdrawnMark)) } }
    let h := (if h.isWorker && c.src = h.managerId then h.followWithdrawal (links.contains withdrawnMark) else h).makeRoutes
    if c.ttl ≤ 1 then h
    else h.upLinks.foldl (fun h e =>
      if e.1 = k then h
      else h.linkQueue e.1 0 2 (relayBytes c (c.ttl - 1) 0x40 body)) h

/-! ### Beats (R371, R372, R379) -/

def Hw.setMembers (h : Hw) (ms : List Member) : Hw := let t := h.table; { h with table := { t with members := ms } }

def Hw.setCauses (h : Hw) (cs : List CauseRec) : Hw := let t := h.table; { h with table := { t with causes := cs } }

/-- State of a subject: in its membership and in its cause records. -/
def Hw.setSubject (h : Hw) (e st : Nat) : Hw :=
  let h := h.setMembers (h.table.members.map (fun m =>
    if m.engine = e then { m with state := st, polls := if st = 0 then 0 else m.polls, pollDue := none } else m))
  h.setCauses (h.table.causes.map (fun r => if r.subject = e then { r with state := st } else r))

def Hw.member? (h : Hw) (e : Nat) : Option Member := h.table.members.find? (fun m => m.engine = e)

/-- TABLE_BEAT_SEND. -/
def Hw.beatSend (h : Hw) : Hw :=
  if !h.isManager then h
  else
    let h := h.table.members.foldl (fun h m => h.ctrl m.engine 0x20 []) h
    h.setMembers (h.table.members.map (fun m => { m with beatAt := some h.t64 }))

/-- Frozen or not, in both registers that say so. -/
def Hw.setFrozen (h : Hw) (f : Bool) : Hw := (h.p Reg.GNOGO_ROLE_frozen (b2n f)).p Reg.SYS_STATE_frozen (b2n f)

/-- TABLE_BEAT: from the manager's seat; the worker answers and is not frozen. -/
def Hw.beatRx (h : Hw) (c : Ctrl) : Hw :=
  let (h, ok) := h.ctrlAccept c 0x20 []
  if !ok || !h.isWorker || c.src != h.managerId then h
  else
    let t := h.table
    let h : Hw := ({ h with table := { t with lastBeat := h.t64 } } : Hw).setFrozen false
    h.ctrl c.src 0x21 (beBytes 4 h.sysStateWord ++ beBytes 4 h.deal.number ++ beBytes 4 h.deal.digest.toNat)

/-- TABLE_FREEZE: 100 ms without a beat. -/
def Hw.tableFreeze (h : Hw) : Hw :=
  if !h.isWorker then h else (h.advanceTo (h.table.lastBeat + 100000000)).setFrozen true

def Hw.pollSend (h : Hw) (e : Nat) : Hw :=
  let h := h.ctrl e 0x22 []
  h.setMembers (h.table.members.map (fun m =>
    if m.engine = e then { m with pollAt := m.pollDue.getD h.t64, pollDue := none } else m))

/-- The polls that are due, 10 ms after the one before (R379). -/
def Hw.pollsDue (h : Hw) : Hw :=
  (h.table.members.filter (fun m => m.pollDue.any (· ≤ h.t64))).foldl (fun h m => h.pollSend m.engine) h

/-- BEAT_ACK_TIMEOUT: no BEAT_ACK within 2 ms. The subject of a cause record is suspect, and is polled. -/
def Hw.beatAckTimeout (h : Hw) (e : Nat) : Hw :=
  match h.member? e with
  | none => h
  | some m =>
    match m.beatAt with
    | none => h
    | some t =>
      let h := h.advanceTo (t + 2000000)
      let h := h.setMembers (h.table.members.map (fun m => if m.engine = e then { m with beatAt := none } else m))
      if !h.isManager || m.state != 0 || !h.table.causes.any (fun r => r.subject = e) then h
      else (h.setSubject e 1).pollSend e

/-- BEAT_ACK: one later than 2 ms finds its subject suspect (R7, R379). -/
def Hw.beatAck (h : Hw) (c : Ctrl) (st deal : Nat) (digest : Word) : Hw :=
  let (h, ok) := h.ctrlAccept c 0x21 (beBytes 4 st ++ beBytes 4 deal ++ beBytes 4 digest.toNat)
  if !ok || !h.isManager then h
  else
  let late := match h.member? c.src with
    | some m => m.beatAt.any (fun x => x + 2000000 < h.t64)
    | none => false
  let h := if late then h.beatAckTimeout c.src else h
  h.setMembers (h.table.members.map (fun m =>
    if m.engine = c.src then { m with beatAt := none, sysState := st, deal := deal, digest := digest } else m))

/-- HEALTH_POLL. -/
def Hw.healthPoll (h : Hw) (c : Ctrl) : Hw :=
  let (h, ok) := h.ctrlAccept c 0x22 []
  if ok then h.ctrl c.src 0x23 [] else h

/-- HEALTH_RSP. -/
def Hw.healthRsp (h : Hw) (c : Ctrl) : Hw :=
  let (h, ok) := h.ctrlAccept c 0x23 []
  if !ok || !h.isManager then h else h.setSubject c.src 0

/-- HEALTH_POLL_TIMEOUT: 2 ms after a poll, which has been sent when it was due. The third makes the subject lost; before that the
next poll is due 10 ms after this one. -/
def Hw.healthPollTimeout (h : Hw) (e : Nat) : Hw :=
  match h.member? e with
  | none => h
  | some m =>
    if !h.isManager || m.state != 1 then h
    else
      let at' := m.pollDue.getD m.pollAt
      let h := ((h.advanceTo at').pollsDue).advanceTo (at' + 2000000)
      let more := m.polls + 1 < 3
      let h := h.setMembers (h.table.members.map (fun x => if x.engine = e then
        { x with polls := m.polls + 1, pollDue := if more then some (at' + 10000000) else none } else x))
      if more then h else (h.setSubject e 2).raiseU 0x5D

/-! ### Fault reports (R376–R379) -/

/-- Enter events into the manager's cause records. -/
def Hw.enterCause (h : Hw) (subject cls stream reporter count t : Nat) : Hw :=
  let bit := 2 ^ (reporter % 32)
  let t0 := h.table
  let same := fun (r : CauseRec) => r.subject = subject && r.cls = cls && r.stream = stream
  let fresh : CauseRec :=
    { subject := subject, cls := cls, stream := stream, reporters := bit, count := count, first := t, last := t,
      state := ((t0.members.find? (fun m => m.engine = subject)).map (·.state)).getD 0, made := h.t64 }
  if t0.causes.any same then
    h.setCauses (t0.causes.map (fun r => if same r then
      { r with reporters := if bitOf r.reporters (reporter % 32) then r.reporters else r.reporters + bit
               count := r.count + count
               first := min r.first t
               last := max r.last t } else r))
  else if t0.causes.length < 256 then h.setCauses (t0.causes ++ [fresh])
  else
    match (t0.causes.map (·.last)).min? with
    | some m =>
      if m + 10000000000 < h.t64 then
        match t0.causes.findIdx? (fun r => r.last = m) with
        | some i => h.setCauses (t0.causes.eraseIdx i ++ [fresh])
        | none => h
      else { h with table := { t0 with unrecorded := t0.unrecorded + count } }
    | none => h

/-- Send one report if the token bucket allows (R378): 200 a second, depth 20. -/
def Hw.sendReport (h : Hw) (subject cls stream count : Nat) : Hw :=
  let t := h.table
  let credit := min 100000000 (t.bucket + (h.t64 - t.bucketAt))
  if credit < 5000000 then
    (({ h with table := { t with bucket := credit, bucketAt := h.t64, dropped := t.dropped + 1 } } : Hw).inc
      Reg.GNOGO_RPT_DROP_count).s1 Reg.GNOGO_STAT_rpt_drop
  else
    ({ h with table := { t with bucket := credit - 5000000, bucketAt := h.t64, dropped := 0 } } : Hw).ctrl h.managerId
      0x24 (beBytes 2 subject ++ beBytes 1 cls ++ beBytes 4 stream ++ beBytes 4 count ++ beBytes 8 h.t64
        ++ beBytes 4 t.dropped)

/-- The worker is frozen: it says so, or its last TABLE_BEAT is more than 100 ms old (R7, R371). -/
def Hw.frozenNow (h : Hw) : Bool :=
  h.b Reg.GNOGO_ROLE_frozen || (h.isWorker && decide (h.table.lastBeat + 100000000 < h.t64))

/-- REPORT_WINDOW_CLOSE (R377). -/
def Hw.windowClose (h : Hw) (subject cls stream : Nat) : Hw :=
  let t := h.table
  let same := fun (w : RptWindow) => w.subject = subject && w.cls = cls && w.stream = stream
  match t.windows.find? same with
  | none => h
  | some w =>
    let h := h.advanceTo (w.opened + 10000000)
    let h : Hw := { h with table := { t with windows := t.windows.filter (fun x => !same x) } }
    if w.count = 0 || h.frozenNow then h else h.sendReport subject cls stream w.count

/-- An event to be reported (R376, R377): the manager enters its own; a frozen worker discards it. A window that has closed by
now has sent its follow-up first, and the event opens another (R7). -/
def Hw.reportEvent (h : Hw) (subject cls stream : Nat) : Hw :=
  if h.isManager then h.enterCause subject cls stream h.ownId 1 h.t64
  else if !h.isWorker || h.frozenNow then h
  else
    let same := fun (w : RptWindow) => w.subject = subject && w.cls = cls && w.stream = stream
    let h := if h.table.windows.any (fun w => same w && decide (w.opened + 10000000 < h.t64)) then h.windowClose subject cls stream
             else h
    let t := h.table
    if t.windows.any same then
      { h with table := { t with windows := t.windows.map (fun w => if same w then { w with count := w.count + 1 } else w) } }
    else
      ({ h with table := { t with windows := t.windows ++ [⟨subject, cls, stream, 0, h.t64⟩] } } : Hw).sendReport
        subject cls stream 1

/-- FAULT_REPORT (R379). -/
def Hw.faultReportRx (h : Hw) (c : Ctrl) (subject cls stream count t : Nat) : Hw :=
  let (h, ok) := h.ctrlAccept c 0x24 (beBytes 2 subject ++ beBytes 1 cls ++ beBytes 4 stream ++ beBytes 4 count
    ++ beBytes 8 t)
  if !ok || !h.isManager then h else h.enterCause subject cls stream c.src count t

def storeSummary (l : List CauseRec) (r : CauseRec) : List CauseRec :=
  l.filter (fun x => !(x.subject = r.subject && x.cls = r.cls && x.stream = r.stream)) ++ [r]

/-- A cause record as a CAUSE_SUMMARY carries it (R379). -/
def CauseRec.wire (r : CauseRec) : List Byte :=
  beBytes 2 r.subject ++ beBytes 1 r.cls ++ beBytes 4 r.stream ++ beBytes 4 r.reporters ++ beBytes 4 r.count
    ++ beBytes 8 r.first ++ beBytes 8 r.last ++ beBytes 1 r.state

/-- CAUSE_SUMMARY_SEND (R375, R379): the oldest record of which no summary was sent, 10 ms after its creation. -/
def Hw.summarySend (h : Hw) : Hw :=
  if !h.isManager then h
  else
    match h.table.causes.find? (fun r => !r.told) with
    | none => h
    | some r =>
      let h := h.advanceTo (r.made + 10000000)
      let same := fun (x : CauseRec) => x.subject = r.subject && x.cls = r.cls && x.stream = r.stream
      let h := h.setCauses (h.table.causes.map (fun x => if same x then { x with told := true } else x))
      if h.table.withdrawn then h
      else if h.role = 3 then
        let t := h.table
        { h with table := { t with summaries := storeSummary t.summaries r } }
      else match h.table.house with
        | none => h
        | some e => h.ctrl e.engine 0x25 r.wire

/-- CAUSE_SUMMARY (R374): the house manager holds the record as it is sent. -/
def Hw.summaryRx (h : Hw) (c : Ctrl) (x : Cause) : Hw :=
  let r : CauseRec := { subject := x.subject, cls := x.cls, stream := x.stream.toNat, reporters := x.reporters.toNat,
                        count := x.count, first := x.first, last := x.last, state := x.state, made := h.t64, told := true }
  let (h, ok) := h.ctrlAccept c 0x25 r.wire
  if !ok || h.role != 3 then h
  else
    let t := h.table
    { h with table := { t with summaries := storeSummary t.summaries r } }

/-! ### Trace gathering (R61) -/

/-- A trace record's bytes (R56). -/
def TraceRec.bytes (r : TraceRec) : List Byte :=
  leBytes 8 r.t64 ++ leBytes 2 r.engineId ++ leBytes 1 r.type ++ leBytes 1 r.rflags ++ leBytes 4 r.rseq ++ padB 16 r.payload

/-- A record from its bytes. -/
def traceOf (b : List Byte) : TraceRec :=
  { t64 := leNat (sliceB b 0 8), engineId := leNat (sliceB b 8 2), type := leNat (sliceB b 10 1),
    rflags := leNat (sliceB b 11 1), rseq := leNat (sliceB b 12 4), payload := sliceB b 16 16 }

/-- The ring's records, oldest first. -/
def Ring.inOrder (r : Ring) : List TraceRec :=
  ((r.recs.filter (fun e => decide (r.writeIdx ≤ e.1))) ++ r.recs.filter (fun e => decide (e.1 < r.writeIdx))).map (·.2)

/-- A merge begins with this engine's own ring, and the others are asked for theirs (R61, R62). -/
def Hw.traceGather (h : Hw) (from' : List Nat) (asker : Option Nat) : Hw :=
  let r := h.ring
  let h : Hw := { h with ring := { r with gathered := r.inOrder, awaited := from', askedBy := asker } }
  from'.foldl (fun h e => h.ctrl e 0x26 []) h

/-- The workers of this engine's table. -/
def Hw.workers (h : Hw) : List Nat := (h.table.members.map (·.engine)).filter (· != h.ownId)

/-- The managers of the other tables of the house: a manager's engine ID is its table index × 32 (R369, R373). -/
def Hw.houseManagers (h : Hw) : List Nat := (h.table.routes.map (·.1)).filter (fun e => e % 32 = 0 && e != h.ownId)

/-- TRACE_REQ: a worker sends its ring, and a manager that another table's engine asks, the house manager, its table's merge once
it has it (R62; DEDUCED, log entry 48). -/
def Hw.traceReq (h : Hw) (c : Ctrl) : Hw :=
  let (h, ok) := h.ctrlAccept c 0x26 []
  if !ok then h
  else if h.isManager && c.src / 32 != h.ownId / 32 && !h.workers.isEmpty then h.traceGather h.workers (some c.src)
  else h.ctrl c.src 0x27 (h.ring.inOrder.flatMap TraceRec.bytes)

/-- The order of R61: t64, engine ID, rseq. -/
def recLt (a b : TraceRec) : Bool :=
  decide (a.t64 < b.t64) || (a.t64 == b.t64 && (decide (a.engineId < b.engineId)
    || (a.engineId == b.engineId && decide (a.rseq < b.rseq))))

/-- The ring whose head comes first. -/
def firstRing : List (List TraceRec) → Option (Nat × TraceRec)
  | [] => none
  | [] :: t => (firstRing t).map (fun e => (e.1 + 1, e.2))
  | (r :: _) :: t =>
    match firstRing t with
    | none => some (0, r)
    | some (i, x) => if recLt x r then some (i + 1, x) else some (0, r)

/-- Merge by least head: one engine's records stay in rseq order. -/
def mergeRings : Nat → List (List TraceRec) → List TraceRec
  | 0, _ => []
  | f + 1, rs =>
    match firstRing rs with
    | none => []
    | some (i, r) => r :: mergeRings f (rs.set i ((rs.getD i []).drop 1))

/-- TRACE_DATA: the manager holds what it has gathered, merged; the last ring that it waits for completes the merge that the house
manager asked for (R61, R62). -/
def Hw.traceData (h : Hw) (c : Ctrl) (records : List (List Byte)) : Hw :=
  let (h, ok) := h.ctrlAccept c 0x27 records.flatten
  if !ok || !h.isManager then h
  else
    let new := records.map traceOf
    let r := h.ring
    let old := r.gathered.filter (fun x => !new.any (fun y => y.engineId = x.engineId && y.rseq = x.rseq))
    let ids := ((old ++ new).map (·.engineId)).dedup
    let rings := ids.map (fun i => (old ++ new).filter (fun x => x.engineId = i))
    let all := mergeRings (old.length + new.length) rings
    let left := r.awaited.filter (· != c.src)
    let h : Hw := { h with ring := { r with gathered := all, awaited := left } }
    match r.askedBy with
    | some e =>
      if left.isEmpty then
        let h : Hw := { h with ring := { r with gathered := all, awaited := [], askedBy := none } }
        h.ctrl e 0x27 (all.flatMap TraceRec.bytes)
      else h
    | none => h

/-! ### Houses (R373–R375) -/

def Hw.houseId (h : Hw) : HouseId := ⟨h.table.priority, h.ownId, h.serial⟩

/-- a ranks above b: lower priority, then lower engine ID, then lower serial. -/
def HouseId.above (a b : HouseId) : Bool :=
  decide (a.priority < b.priority) || (a.priority == b.priority && (decide (a.engine < b.engine)
    || (a.engine == b.engine && decide (beNat a.serial < beNat b.serial))))

/-- A candidate for house manager. -/
def Hw.candidate (h : Hw) : Bool := h.isManager && decide (h.table.priority < 255) && !h.table.withdrawn

/-- A manager with the same table index and another serial was heard on link k (R375). -/
def Hw.idConflict (h : Hw) (k : Nat) (id : HouseId) : Hw :=
  let t := h.table
  if !h.isManager || id.engine / 32 != h.ownId / 32 || id.serial = h.serial then h
  else
    let known := match t.other with
      | some o => o.serial = id.serial && h.t64 < t.otherAt + 300000000
      | none => false
    let h := if known then h else h.raiseU 0x61
    let lower := HouseId.above id h.houseId
    let h : Hw := { h with table := { t with other := some id, otherAt := h.t64, withdrawn := t.withdrawn || lower,
                                             barred := if lower then (h.foreignLinks ++ t.barred ++ [k]).dedup else t.barred } }
    let h := if lower && h.role = 3 then h.setRole 2 else h
    if lower && !t.barred.contains k then (h.makeRoutes).topoSend else h

/-- ANNOUNCE (R373, R375). -/
def Hw.announceRx (h : Hw) (k : Nat) (id : HouseId) : Hw :=
  if h.linkState k != lkUp || !h.isManager then h
  else
    let h := h.idConflict k id
    let t := h.table
    if HouseId.above id h.houseId then { h with table := { t with higherAt := h.t64 } } else h

def houseBytes (i : HouseId) : List Byte := beBytes 1 i.priority ++ beBytes 2 i.engine ++ padB 16 i.serial

/-- A message to the neighbours on every UP link, and by its route to every manager that is no neighbour: the managers reached by
links or tunnels (R373; DEDUCED, log entry 42). -/
def Hw.toNeighbours (h : Hw) (mtype : Nat) (body : List Byte) : Hw :=
  let far := h.houseManagers.filter (fun e => !h.upLinks.any (fun l => l.2 = e))
  far.foldl (fun h e => h.ctrl e mtype body)
    (((List.range 13).filter (fun k => h.linkState k = lkUp)).foldl (fun h k => h.ctrlOn k mtype body)
      (h.send (.ctrl 0xFFFF mtype body)))

/-- ANNOUNCE_SEND. -/
def Hw.announceSend (h : Hw) : Hw := if h.candidate then h.toNeighbours 0x41 (houseBytes h.houseId) else h

/-- HOUSE_ELECTION_TIMEOUT: 300 ms without a HOUSE_BEAT and without a higher-ranking ANNOUNCE. -/
def Hw.electionTimeout (h : Hw) : Hw :=
  if !h.candidate || h.role != 2 then h
  else
    let h := h.advanceTo (max h.table.houseBeat h.table.higherAt + 300000000)
    let t := h.table
    ({ h with table := { t with house := some h.houseId } } : Hw).setRole 3

/-- HOUSE_BEAT: the lower-ranking of two house managers steps down at once. -/
def Hw.houseBeatRx (h : Hw) (k : Nat) (id : HouseId) : Hw :=
  if h.linkState k != lkUp || !h.isManager then h
  else
    let h := h.idConflict k id
    let t := h.table
    if h.role = 3 && !HouseId.above id h.houseId then h
    else
      let h : Hw := { h with table := { t with houseBeat := h.t64, house := some id } }
      if h.role = 3 then h.setRole 2 else h

/-- HOUSE_BEAT_SEND. -/
def Hw.houseBeatSend (h : Hw) : Hw := if h.role = 3 then h.toNeighbours 0x42 (houseBytes h.houseId) else h

/-- TABLE_WITHDRAW_END: the other manager has not been heard for 300 ms. -/
def Hw.withdrawEnd (h : Hw) : Hw :=
  if !h.table.withdrawn then h
  else
    let h := h.advanceTo (h.table.otherAt + 300000000)
    let t := h.table
    (({ h with table := { t with withdrawn := false, barred := [], other := none } } : Hw).makeRoutes).topoSend

/-! ### Training and enrolment (R362, R369, R370, R508) -/

def enrolBytes (m : EnrolMsg) : List Byte := m.cert ++ m.pub ++ m.nonce ++ m.sig

/-- Send an enrolment message: on a link, or through a relay behind its link index (R370). -/
def Hw.enrolSend (h : Hw) (e : EnrolSt) (mtype : Nat) (body : List Byte) : Hw :=
  match e.relay with
  | some (r, k) => h.ctrl r mtype (beBytes 1 k ++ [0, 0, 0] ++ body)
  | none => (h.send (.ctrl 0xFFFF mtype body)).ctrlOn e.link mtype body

def Hw.setEnrols (h : Hw) (es : List EnrolSt) : Hw := let t := h.table; { h with table := { t with enrols := es } }

def Hw.enrol? (h : Hw) (k : Nat) : Option EnrolSt := h.table.enrols.find? (fun e => e.link = k)

/-- The exchange on a link is replaced, or dropped. -/
def Hw.putEnrol (h : Hw) (e : EnrolSt) : Hw := h.setEnrols (h.table.enrols.filter (fun x => x.link != e.link || x.relay != e.relay) ++ [e])

def Hw.dropEnrol (h : Hw) (e : EnrolSt) : Hw := h.setEnrols (h.table.enrols.filter (fun x => x.link != e.link || x.relay != e.relay))

/-- Sixteen bytes of the TRNG: free. -/
def randBytes (v n : Nat) : List Byte := beBytes n v

/-- The manager begins an exchange with ENROL_HELLO: its certificate, an ephemeral key and a nonce. -/
def Hw.enrolStart (h : Hw) (k : Nat) (relay : Option (Nat × Nat)) : Hw :=
  let (eph, h) := h.draw
  let (nonce, h) := h.draw
  let m : EnrolMsg := ⟨h.certificate, Config.ecdhPub eph, randBytes nonce 16, []⟩
  let e : EnrolSt := { link := k, relay := relay, stage := 1, transcript := enrolBytes m, eph := eph,
                       salt := randBytes nonce 16, started := h.t64 }
  (h.putEnrol e).enrolSend e 0x30 (enrolBytes m)

/-- ENROL_HELLO: a standalone engine replies; a relay passes the message on the named link. -/
def Hw.enrolHello (h : Hw) (k : Nat) (m : EnrolMsg) : Hw :=
  if h.isWorker then h.ctrlOn k 0x30 (enrolBytes m)
  else if h.enrolled || h.linkState k != lkUp || !h.b Reg.SEC_STAT_identity || !Config.certOk m.cert then h
  else
    let (eph, h) := h.draw
    let (nonce, h) := h.draw
    let r : EnrolMsg := ⟨h.certificate, Config.ecdhPub eph, randBytes nonce 16, Config.ecdsaSign (Config.sha256 (enrolBytes m))⟩
    let salt := m.nonce ++ randBytes nonce 16
    let e : EnrolSt := { link := k, stage := 2, transcript := enrolBytes m ++ enrolBytes r, peer := m.cert, eph := eph,
                         pair := Config.hkdf (Config.ecdh eph m.pub) salt ("KG960 pair".toList.map (fun c => BitVec.ofNat 8 c.toNat)),
                         serial := Config.certSerial m.cert, salt := salt, started := h.t64 }
    (h.putEnrol e).enrolSend e 0x31 (enrolBytes r)

/-- The key record of ENROL_FINISH: the table key (R509). -/
def KeyRec.bytes (k : KeyRec) : List Byte := beBytes 4 k.keyId ++ padB 16 k.key ++ beBytes 8 k.active

/-- Key_id of a kind, generation and issuer (R509). -/
def keyIdOf (kind gen issuer : Nat) : Nat := kind * 2 ^ 28 + gen % 4096 * 2 ^ 16 + issuer % 65536

/-- The table key of the manager; the first is drawn when it is first needed. -/
def Hw.tableKey (h : Hw) : Hw × KeyRec :=
  match h.table.keys with
  | k :: _ => (h, k)
  | [] =>
    let (v, h) := h.draw
    let k : KeyRec := ⟨keyIdOf 2 0 h.ownId, randBytes v 16, h.t64⟩
    let t := h.table
    ({ h with table := { t with keys := [k] } }, k)

/-- The exchange that a reply answers: of those on a link number, directly and through relays, the one whose hello its signature
covers (R370, R508). -/
def Hw.enrolOf (h : Hw) (k : Nat) (m : EnrolMsg) : Option EnrolSt :=
  (h.table.enrols.find? (fun e => e.link = k && e.stage = 1
    && Config.ecdsaOk m.cert (Config.sha256 e.transcript) m.sig)).orElse (fun _ => h.enrol? k)

/-- ENROL_REPLY: the manager checks certificate, signature and seat, and answers ENROL_FINISH; a relay passes it to
the manager. Of two exchanges with one engine the one through the relay with the lower engine ID goes on. -/
def Hw.enrolReply (h : Hw) (k : Nat) (m : EnrolMsg) : Hw :=
  if h.isWorker then h.ctrl h.managerId 0x31 (beBytes 1 k ++ [0, 0, 0] ++ enrolBytes m)
  else
    match h.enrolOf k m with
    | none => h
    | some e =>
      if !h.isManager || e.stage != 1 then h
      else
        let serial := Config.certSerial m.cert
        let seat := h.table.seats.find? (fun x => x.2 = serial)
        let good := Config.certOk m.cert && Config.ecdsaOk m.cert (Config.sha256 e.transcript) m.sig
        let rival := h.table.enrols.any (fun x => x.serial = serial && x.stage = 3
          && (match x.relay, e.relay with
            | some a, some b => decide (a.1 < b.1)
            | _, _ => true))
        match seat with
        | none => h.dropEnrol e
        | some (s, _) =>
          let held := h.table.members.any (fun x => x.engine = h.ownId / 32 * 32 + s && x.serial != serial)
          if !good || held || rival then h.dropEnrol e
          else
            let salt := e.salt ++ m.nonce
            let pair := Config.hkdf (Config.ecdh e.eph m.pub) salt ("KG960 pair".toList.map (fun c => BitVec.ofNat 8 c.toNat))
            let tr := e.transcript ++ enrolBytes m
            let (h, key) := h.tableKey
            let h := h.setEnrols (h.table.enrols.filter (fun x => x.serial != serial || x.stage != 3))
            let e := { e with stage := 3, transcript := tr, peer := m.cert, pair := pair, seat := s, serial := serial, salt := salt }
            (h.putEnrol e).enrolSend e 0x32 (Config.ecdsaSign (Config.sha256 tr) ++ beBytes 1 s ++ key.bytes)

/-- ENROL_FINISH: the engine takes its seat, its role and the table key, and answers ENROL_DONE. -/
def Hw.enrolFinish (h : Hw) (k : Nat) (sig : List Byte) (seat tableIdx keyId : Nat) (key : List Byte) : Hw :=
  if h.isWorker then h.ctrlOn k 0x32 (sig ++ beBytes 1 seat ++ beBytes 4 keyId ++ padB 16 key)
  else
    match h.enrol? k with
    | none => h
    | some e =>
      if h.enrolled || e.stage != 2 then h
      else if !Config.ecdsaOk e.peer (Config.sha256 e.transcript) sig then h.dropEnrol e
      else
        let own := tableIdx * 32 + seat
        let h := ((h.dropEnrol e).p Reg.GNOGO_ROLE_engine_id own).s1 Reg.GNOGO_ROLE_enrolled
        let t := h.table
        let h : Hw := { h with table := { t with
          index := tableIdx
          lastBeat := h.t64
          keys := [⟨keyId, key, h.t64⟩]
          pairs := t.pairs.put (tableIdx * 32) ⟨keyIdOf 1 0 (tableIdx * 32), e.pair, h.t64⟩ } }
        let h := h.setRole 1
        let h := h.enrolSend e 0x33 ((Config.gmacTag e.pair [] e.transcript).take 16)
        (h.makeRoutes).topoSend

/-- ENROL_DONE: the manager completes the enrolment; a relay passes it on. -/
def Hw.enrolDone (h : Hw) (k : Nat) (tagOk : Bool) : Hw :=
  if h.isWorker then h.ctrl h.managerId 0x33 (beBytes 1 k ++ [0, 0, 0])
  else
    match h.table.enrols.find? (fun e => e.link = k && e.stage = 3) with
    | none => h
    | some e =>
      if !h.isManager then h
      else if !tagOk then h.dropEnrol e
      else
        let id := h.ownId / 32 * 32 + e.seat
        let h := h.dropEnrol e
        let h := h.setMembers (h.table.members.filter (fun m => m.engine != id) ++ [{ engine := id, serial := e.serial }])
        let t := h.table
        let h : Hw := { h with table := { t with pairs := t.pairs.put id ⟨keyIdOf 1 0 h.ownId, e.pair, h.t64⟩ } }
        if e.relay.isNone then
          (((h.p (Reg.GNOGO_LINK_STAT_peer k) id).s1 (Reg.GNOGO_LINK_STAT_peer_valid k)).makeRoutes).topoSend
        else h

/-- ENROL_TIMEOUT: 500 ms after its start. -/
def Hw.enrolTimeout (h : Hw) (k : Nat) : Hw :=
  match h.enrol? k with
  | none => h
  | some e => (h.advanceTo (e.started + 500000000)).dropEnrol e

/-- PEER_SEEN: the manager runs the enrolment through the reporting engine. -/
def Hw.peerSeen (h : Hw) (c : Ctrl) (idx : Nat) : Hw :=
  let (h, ok) := h.ctrlAccept c 0x36 (beBytes 1 idx ++ [0, 0, 0])
  if !ok || !h.isManager || h.table.enrols.any (fun e => e.relay = some (c.src, idx)) then h
  else h.enrolStart idx (some (c.src, idx))

/-- TRAIN (R362). -/
def Hw.trainRx (h : Hw) (x : Link) (id linkIdx : Nat) (received : Bool) : Hw :=
  let k := x.link.val
  let l := h.linkSt k
  if h.linkState k = lkDown then h
  else if !x.ok then (h.linkCount k 2).setLink k { l with trainRun := 0, okRun := 0 }
  else
    let h := h.linkCount k 1
    let run := l.trainRun + 1
    let okRun := if received then l.okRun + 1 else 0
    if h.linkState k = lkUp then h.setLink k { l with lastRx := h.t64 }
    else if okRun < 3 then h.setLink k { l with trainRun := run, okRun := okRun, lastRx := h.t64 }
    else
      let h := h.setLink k { lastRx := h.t64, trainRun := run, okRun := okRun }
      let h := (h.p (Reg.GNOGO_LINK_STAT_state k) lkUp).p (Reg.GNOGO_LINK_STAT_peer k) id
      let h := h.p (Reg.GNOGO_LINK_STAT_peer_valid k) (b2n (id != 0xFFFF))
      let h := (h.makeRoutes).topoSend
      if id != 0xFFFF || !h.enrolled then h
      else if h.isManager then h.enrolStart k none
      else h.ctrl h.managerId 0x36 (beBytes 1 linkIdx ++ [0, 0, 0])

/-! ### Gnogo over UDP (R365) -/

/-- The tunnel that an enabled link's peer address and ports give to a datagram. -/
def Hw.tunnelOf (h : Hw) (p : Port) (src : Word) : Option Nat :=
  ((List.range 13).drop 5).find? (fun k => h.b (Reg.GNOGO_LINK_CTRL_en k) && h.g (Reg.GNOGO_TUN_ADDR_ipv4 k) == src.toNat
    && (h.tunPorts k).contains (pn p))

/-- A len that can stand with a class (R357). -/
def gnLenOk (cls n : Nat) : Bool :=
  match cls with
  | 0x01 => decide (4 < n)
  | 0x02 => decide (40 ≤ n)
  | 0x03 => n == 12
  | 0x04 => decide (8 ≤ n) && (n - 8) % 16 == 0
  | 0x10 => n == 8
  | 0x11 => n == 4
  | 0x12 => n == 32
  | 0x13 => n == 4
  | _ => false

/-- The virtual channel of a class (R357). -/
def vcOf (cls : Nat) : Nat := if cls = 1 then 1 else if cls = 3 || cls = 4 then 2 else 0

/-- The second copy of an unsequenced frame, brought by the other port of a tunnel on both (R365). -/
def Hw.secondCopy (h : Hw) (k : Nat) (p : Port) (b : List Byte) : Hw × Bool :=
  let l := h.linkSt k
  match l.plain with
  | some (q, c) =>
    if q != pn p && c == b then ((h.setLink k { l with plain := none }).linkCount k 5, true)
    else (h.setLink k { l with plain := some (pn p, b) }, false)
  | none => (h.setLink k { l with plain := some (pn p, b) }, false)

/-- A datagram with one Gnogo frame: the frame is taken as one of its link is (R356, R357, R365). A CTRL frame is taken when its
message comes, as the row of its mtype (DESIGN CHOICE, log entry 41). -/
def Hw.gnogoDatagram (h : Hw) (p : Port) (src : Word) (b : List Byte) : Hw :=
  match h.tunnelOf p src with
  | none => h
  | some k =>
    let n := b.length - 12
    let f := fun (o len : Nat) => beNat (sliceB b o len)
    let body := sliceB b 8 n
    let g := fun (o len : Nat) => beNat (sliceB body o len)
    let cls := f 0 1 % 64
    let ok := 12 ≤ b.length && f 0 1 / 64 == 1 && f 1 1 == vcOf cls && f 6 2 == n && gnLenOk cls n
      && crc32c (b.take (8 + n)) == f (8 + n) 4
    let x : Link := ⟨Fin.ofNat 13 k, ok, BitVec.ofNat 16 (f 2 2), BitVec.ofNat 16 (f 4 2), n⟩
    if 1 ≤ cls && cls ≤ 4 then
      match cls with
      | 1 => h.gnogoBlock x (g 0 2) (g 2 1) (body.drop 4)
      | 2 => if ok then h else (h.linkRx x true 0).1
      | 3 => h.wreq x (g 0 2) (g 2 2) (g 4 2) (g 6 2) (g 8 4)
      | _ => h.wrsp x (g 0 2) (g 2 2) (g 4 2) (g 6 2 == 1) (body.drop 8)
    else
      let (h, again) := h.secondCopy k p b
      if again then h
      else match cls with
        | 0x10 => h.creditRx x (g 0 2) (g 2 2) (g 4 2)
        | 0x11 => h.nakRx x (g 0 2)
        | 0x12 => h.ldmRx x (g 0 1 == 1) (g 2 10) (g 12 10) (g 22 10)
        | 0x13 => h.trainRx x (g 0 2) (g 2 1) (g 3 1 == 1)
        | _ => (h.linkRx x false 0).1

/-- NET_FRAME_RECEIVE: what reaches order 4 of R320 goes to the Gnogo controller. -/
def Hw.netFrame (h : Hw) (p : Port) (f : Frame) : Hw :=
  let g := h.frameReceive p f
  match f.kind with
  | .udp src _ _ _ payload =>
    if (g.macSt (pn p)).dest.get 0 4 = (h.macSt (pn p)).dest.get 0 4 then g else g.gnogoDatagram p src payload
  | _ => g

/-! ### Keys (R509) -/

/-- TABLE_KEY_ROTATE: the manager draws a new key, active at least 1 s after its distribution
(DESIGN CHOICE, log entry 42). -/
def Hw.keyRotate (h : Hw) : Hw :=
  if !h.isManager then h
  else
    let (h, old) := h.tableKey
    let (v, h) := h.draw
    let (later, h) := h.draw
    let k : KeyRec := ⟨keyIdOf 2 (old.keyId / 2 ^ 16 % 4096 + 1) h.ownId, randBytes v 16, h.t64 + 1000000000 + later⟩
    let t := h.table
    let h : Hw := { h with table := { t with nextKey := some k } }
    h.table.members.foldl (fun h m => h.ctrl m.engine 0x32 k.bytes) h

/-- TABLE_KEY_ACTIVATE. -/
def Hw.keyActivate (h : Hw) : Hw :=
  match h.table.nextKey with
  | none => h
  | some k =>
    let h := h.advanceTo k.active
    let t := h.table
    { h with table := { t with keys := k :: t.keys.take 1, nextKey := none } }

/-- PAIRWISE_REKEY: the pair between the manager and an engine is made anew; the exchange is one step
(DESIGN CHOICE, log entry 42). -/
def Hw.pairRekey (h : Hw) (e : Nat) : Hw :=
  match h.table.pairs.find? e with
  | none => h
  | some old =>
    let (v, h) := h.draw
    let k : KeyRec := ⟨keyIdOf 1 (old.keyId / 2 ^ 16 % 4096 + 1) (old.keyId % 65536), randBytes v 32, h.t64⟩
    let t := h.table
    { h with table := { t with pairs := t.pairs.put e k } }

/-- IMAGE_REQ (R510): the manager sends its running image. -/
def Hw.imageReq (h : Hw) (c : Ctrl) : Hw :=
  let (h, ok) := h.ctrlAccept c 0x34 []
  if !ok || !h.isManager then h
  else h.ctrl c.src 0x35 h.boot.running

end Sys2Proof.Machine
end

