-- ==== Sys2Proof/Machine/PortOps.lean ====
section
/-! DEFINITION. Digital audio ports (R382–R403): serial audio ports, AES3 receivers and transmitters, alignment
groups, the ASRC pool and the buffer-steered oscillator. -/

namespace Sys2Proof.Machine

/-! ### Positions and samples, shared by all ports -/

/-- The media sample index nearest to a T64; half-way goes to the later one (R388). -/
def Hw.nearest (h : Hw) (t : Nat) : Nat :=
  let m := h.media t
  if 2 * t ≥ h.instant m + h.instant (m + 1) then m + 1 else m

/-- The first media sample index at or after a T64. -/
def Hw.indexAfter (h : Hw) (t : Nat) : Nat :=
  let m := h.media t
  if h.instant m < t then m + 1 else m

/-- The first block boundary at or after a T64 (R390). -/
def Hw.blockAfter (h : Hw) (t : Nat) : Nat := ceilDiv (h.indexAfter t) h.bs * h.bs

/-- A block of a port with the samples of media sample index n put in; `rep` marks a repeated sample (R389). -/
def Slot.portFill (s : Slot) (bs now n : Nat) (xs : List (Nat × Int)) (rep : Bool) : Slot :=
  let smp : Block := xs.foldl (fun (b : Block) e => b.set e.1 ((b.getD e.1 []).set (n % bs) e.2)) s.samples
  { s with samples := smp, filled := Nat.lor s.filled (2 ^ (n % bs)), concealed := s.concealed || rep, admitted := now }

/-- Store samples at a position in an input kitty, channel by channel, or in the lining buffer ahead of it while no slot is
free for their block (R209). -/
def InKitty.portStore (k : InKitty) (bs now delay pos : Nat) (instant : Nat → Nat) (early : InKitty → Nat → Bool)
    (xs : List (Nat × Int)) (rep : Bool) : InKitty :=
  let n := pos + delay
  let m := n / bs * bs
  let i := k.slotOf bs m
  let fresh : Slot := { n := m, p := instant m, samples := List.replicate k.cfg.chans (List.replicate bs 0) }
  if k.cfg.lining != 0 && (k.lined.any (fun s => s.n = m) || early k m) then
    let s := (k.lined.find? (fun s => s.n = m)).getD fresh
    { k with lined := ((k.lined.filter (fun s => s.n != m)) ++ [s.portFill bs now n xs rep]).take (min k.cfg.lining 4096) }
  else
    let s := match k.slots.find? i with
      | some s => if s.n = m then s else fresh
      | none => fresh
    { k with
      slots := k.slots.put i (s.portFill bs now n xs rep)
      n0 := some (k.n0.getD m)
      firstN := if k.awaiting then some m else k.firstN
      awaiting := false }

/-- The sample of a hold of `run` repeats, and the sample after a hold (R37, R39, R389, R393). -/
def holdSample (fs bs hold run : Nat) (held : Int) : Int := concealAt (concealF fs) hold bs run held

def rampSample (fs bs hold run ret : Nat) (held x : Int) : Int :=
  if ret ≥ 64 then x else xfade (holdSample fs bs hold (run + ret) held) x (scarf 64 false ret)

/-- Deliver one position of a port to the kitties it feeds. `val` gives a kitty channel's input by slot list, as
(slot, kitty channel) pairs. -/
def Hw.toKitties (h : Hw) (feeds : InCfg → Option Nat) (chans : List (Nat × Nat)) (pos : Nat) (f : Nat → Nat → Int)
    (rep : Bool) : Hw :=
  { h with kin := h.kin.map (fun (e : Nat × InKitty) => match feeds e.2.cfg with
    | some d => (e.1, e.2.portStore h.bs h.t64 d pos h.instant (fun k m => h.reach k m == cEarly) (chans.map (fun c => (c.2, f (h.holdIn e.2.cfg) c.1))) rep)
    | none => e) }

/-- Repeat the held samples at positions a … b − 1. -/
def Hw.repeatAt (h : Hw) (feeds : InCfg → Option Nat) (chans : List (Nat × Nat)) (held : List Int) (run a b : Nat) : Hw :=
  (List.range (b - a)).foldl (fun h i =>
    h.toKitties feeds chans (a + i) (fun hold s => holdSample h.fs h.bs hold (run + i) (nthI held s)) true) h

/-- A frame at a position: skipped positions repeat, a late one is discarded, the ramp follows a hold. Answers the
state after it, the repeated and the discarded count. -/
def Hw.takeFrame (h : Hw) (p : PortSt) (feeds : InCfg → Option Nat) (chans : List (Nat × Nat)) (pos : Nat)
    (xs : List Int) : Hw × PortSt × Nat × Nat :=
  match p.pos with
  | none =>
    (h.toKitties feeds chans pos (fun _ s => nthI xs s) false, { p with pos := some pos, last := xs, run := 0, ret := 64 },
      0, 0)
  | some q =>
    if pos ≤ q then (h, p, 0, 1)
    else
      let skip := pos - q - 1
      let held := if p.run = 0 then p.last else p.held
      let h := h.repeatAt feeds chans held p.run (q + 1) pos
      let run := p.run + skip
      let ret := if skip > 0 || (p.run > 0 && p.ret ≥ 64) then 0 else p.ret
      let h := h.toKitties feeds chans pos (fun hold s =>
        rampSample h.fs h.bs hold run (if run = 0 then 64 else ret) (nthI held s) (nthI xs s)) false
      let done := run = 0 || ret + 1 ≥ 64
      (h, { p with pos := some pos, last := xs, held := held, run := if done then 0 else run
                   ret := if done then 64 else ret + 1 }, skip, 0)

/-- The sample an output port sends at a position. Answers the state and the repeated and discarded counts. -/
def PortSt.send (p : PortSt) (pos : Nat) : PortSt × Nat × Nat :=
  let back := match p.outPos with
    | some q => decide (pos ≤ q)
    | none => false
  if back then (p, 1, 0)
  else
    let past := (p.fifo.filter (fun (e : Nat × (Bool × List Int)) => decide (e.1 < pos))).length
    let rest := p.fifo.filter (fun (e : Nat × (Bool × List Int)) => decide (pos < e.1))
    match p.fifo.find? pos with
    | some x => ({ p with fifo := rest, outPos := some pos, outLast := x }, 0, past)
    | none => ({ p with fifo := rest, outPos := some pos }, 1, past)

/-- A released block enters the FIFO of its port at the positions of its release (R25, R389). While the port's clock is
stopped the writer sees the FIFO full, and its contents stay as they are (R16). -/
def Hw.portFifo (h : Hw) (p : PortSt) (stopped : Bool) (release : Nat) (b : Block) (concealed : Bool) : PortSt :=
  let a := h.indexAfter release
  if stopped then p
  else { p with fifo := (List.range h.bs).foldl (fun (t : Tab (Bool × List Int)) i =>
      t.put (a + i) (concealed, b.map (fun l => nthI l i))) p.fifo }

/-- The output kitty of a port, and its samples through mute at the frame; an awaiting kitty's port sends zeros (R240,
R552). -/
def Hw.outMuted (h : Hw) (isMine : Sink → Bool) (xs : List Int) : Hw × List Int :=
  match List.find? (fun (e : Nat × OutKitty) => isMine e.2.cfg.sink) h.kout with
  | none => (h, xs)
  | some (kid, k) =>
    let (y, m) := k.mute.apply h.fs (if k.awaiting then xs.map (fun _ => 0) else xs)
    (h.setOut kid { k with mute := m }, y)

/-! ### The ASRC pool (R399–R401) -/

def Hw.asrcSt (h : Hw) (c : Nat) : AsrcSt := h.ports.asrc.get {} c

def Hw.setAsrc (h : Hw) (c : Nat) (a : AsrcSt) : Hw := let p := h.ports; { h with ports := { p with asrc := p.asrc.put c a } }

/-- Channels in the pool at the table rate. -/
def Hw.asrcMax (h : Hw) : Nat := if h.fs ≤ 48000 then 128 else if h.fs ≤ 96000 then 64 else 32

/-- The channel bound to a port slot and direction. -/
def Hw.asrcFor (h : Hw) (dir kind unit slot : Nat) : Option Nat :=
  (List.range 128).find? (fun c => h.b (Reg.ASRC_CH_CTRL_en c) && h.g (Reg.ASRC_CH_CTRL_dir c) == dir
    && h.g (Reg.ASRC_CH_CTRL_kind c) == kind && h.g (Reg.ASRC_CH_CTRL_unit c) == unit && h.g (Reg.ASRC_CH_CTRL_slot c) == slot)

/-- A sample enters a channel. -/
def Hw.asrcIn (h : Hw) (c : Nat) (x : Int) : Hw :=
  let a := h.asrcSt c
  h.setAsrc c { a with hist := (x :: a.hist).take 256 }

/-- ASRC_ENABLE: a write of ASRC_CH_CTRL (R399, R406). -/
def Hw.asrcCtrl (h : Hw) (c w : Nat) : Hw :=
  let en := bitOf w 0
  let same := bitsOf w 1 12 == bitsOf (h.g (Reg.ASRC_CH_CTRL_dir c) * 2 + h.g (Reg.ASRC_CH_CTRL_kind c) * 4
    + h.g (Reg.ASRC_CH_CTRL_unit c) * 8 + h.g (Reg.ASRC_CH_CTRL_slot c) * 256) 1 12
  let set := fun (h : Hw) => (((h.p (Reg.ASRC_CH_CTRL_dir c) (bitsOf w 1 1)).p (Reg.ASRC_CH_CTRL_kind c) (bitsOf w 2 1)).p
    (Reg.ASRC_CH_CTRL_unit c) (bitsOf w 3 5)).p (Reg.ASRC_CH_CTRL_slot c) (bitsOf w 8 5)
  if h.b (Reg.ASRC_CH_CTRL_en c) then
    if !same then h.s1 (Reg.ASRC_CH_STAT_live_wr c)
    else if en then h
    else
      let h := if h.g (Reg.ASRC_CH_STAT_state c) = 2 then h.s1 (Reg.ASRC_CH_STAT_unlock c) else h
      ((h.s0 (Reg.ASRC_CH_CTRL_en c)).p (Reg.ASRC_CH_STAT_state c) 0).setAsrc c {}
  else if !en then set h
  else
    let used := ((List.range 128).filter (fun i => h.b (Reg.ASRC_CH_CTRL_en i))).length
    if used ≥ h.asrcMax then h.s1 (Reg.ASRC_CH_STAT_live_wr c)
    else (((set h).s1 (Reg.ASRC_CH_CTRL_en c)).p (Reg.ASRC_CH_STAT_state c) 1).setAsrc c {}

/-- The ratio lies in 1:4 to 4:1, in Q8.24. -/
def ratioOk (r : Nat) : Bool := decide (4194304 ≤ r) && decide (r ≤ 67108864)

/-- Leave the locked state. -/
def Hw.asrcLeave (h : Hw) (c st : Nat) : Hw :=
  let h := if h.g (Reg.ASRC_CH_STAT_state c) = 2 then h.s1 (Reg.ASRC_CH_STAT_unlock c) else h
  h.p (Reg.ASRC_CH_STAT_state c) st

/-- ASRC_LOCK. -/
def Hw.asrcLock (h : Hw) (c ratio : Nat) : Hw :=
  if !h.b (Reg.ASRC_CH_CTRL_en c) then h
  else
    let h := h.p (Reg.ASRC_CH_RATIO_ratio c) ratio
    if ratioOk ratio then h.p (Reg.ASRC_CH_STAT_state c) 2 else h.asrcLeave c 3

/-- ASRC_RANGE. -/
def Hw.asrcRange (h : Hw) (c ratio : Nat) : Hw :=
  if !h.b (Reg.ASRC_CH_CTRL_en c) then h
  else (h.p (Reg.ASRC_CH_RATIO_ratio c) ratio).asrcLeave c 3

/-- At the tick each input channel delivers a block toward the Joinery: converted when it is locked, else
hold and fade with the concealed flag (R401). -/
def Hw.asrcTick (h : Hw) : Hw :=
  (List.range 128).foldl (fun h c =>
    if h.b (Reg.ASRC_CH_CTRL_en c) && h.g (Reg.ASRC_CH_CTRL_dir c) == 0 then
      let a := h.asrcSt c
      let (blk, cc) := if h.g (Reg.ASRC_CH_STAT_state c) = 2 then
          a.conceal.take h.fs h.bs 4 [(List.range h.bs).map (fun i => Config.asrcOut (h.g (Reg.ASRC_CH_RATIO_ratio c)) a.hist i)]
        else a.conceal.miss h.fs h.bs 4 1 1
      let h := h.setAsrc c { a with conceal := cc }
      let e := h.epoch
      let h : Hw := { h with asrcBlk := h.asrcBlk.put c (blk.headD []) }
      if h.g (Reg.ASRC_CH_STAT_state c) = 2 then h else { h with epoch := { e with concealed := true } }
    else h) h

/-- The Joinery's destinations of kind 3 that the epoch's ROUTE objects have written feed the output channels with its
samples (R136, R138, R399). -/
def Hw.asrcFeed (h : Hw) : Hw :=
  let fed := (h.join.routed.filter (fun d => h.g (Reg.JOIN_DST_kind d) = 3)).map (fun d => h.g (Reg.JOIN_DST_object d))
  h.join.asrcIn.foldl (fun h (e : Nat × List Int) =>
    if fed.contains e.1 &&  h.b (Reg.ASRC_CH_CTRL_en e.1) && h.g (Reg.ASRC_CH_CTRL_dir e.1) == 1 then
      let a := h.asrcSt e.1
      h.setAsrc e.1 { a with hist := (e.2.reverse ++ a.hist).take 256 }
    else h) h

/-- The sample an output channel drives at a position: converted, or in the range state its last converted sample
under hold and fade (R401, R37). -/
def Hw.asrcDrive (h : Hw) (c pos : Nat) : Int :=
  let a := h.asrcSt c
  if h.g (Reg.ASRC_CH_STAT_state c) = 3 then holdSample h.fs h.bs 4 (pos - a.outPos - 1) a.outLast
  else Config.asrcOut (h.g (Reg.ASRC_CH_RATIO_ratio c)) a.hist pos

/-- The output channels of a port's slots keep the samples they drove at a position. -/
def Hw.asrcDrove (h : Hw) (kind unit : Nat) (slots : List Nat) (pos : Nat) : Hw :=
  slots.foldl (fun h s => match h.asrcFor 1 kind unit s with
    | none => h
    | some c =>
      if h.g (Reg.ASRC_CH_STAT_state c) = 3 then h
      else h.setAsrc c { h.asrcSt c with outLast := h.asrcDrive c pos, outPos := pos }) h

/-! ### Serial audio ports -/

def Hw.sapSt (h : Hw) (n : Nat) : PortSt := h.ports.sap.get {} n

def Hw.setSap (h : Hw) (n : Nat) (x : PortSt) : Hw := let p := h.ports; { h with ports := { p with sap := p.sap.put n x } }

def Hw.sapState (h : Hw) (n : Nat) : Nat := h.g (Reg.SAP_STAT_state n)

def Hw.sapSlots (h : Hw) (n : Nat) : Nat := h.g (Reg.SAP_CTRL_slots_m1 n) + 1

/-- Bits of a width or word code. -/
def widthBits (c : Nat) : Nat := if c = 0 then 16 else if c = 1 then 24 else 32

/-- Format code of a word length: L16, L24, L32 (R386). -/
def wordFmt (c : Nat) : Nat := c + 1

/-- MEDIA as a multiple of fs (R384). -/
def Hw.mediaMult (h : Hw) : Nat := if h.fs ≤ 48000 then 2048 else if h.fs ≤ 96000 then 1024 else 512

/-- An enable's settings are within R383 and R384. -/
def Hw.sapCfgOk (h : Hw) (w : Nat) : Bool :=
  let master := bitOf w 1
  let slots := bitsOf w 4 5 + 1
  let width := widthBits (bitsOf w 9 2)
  let word := widthBits (bitsOf w 11 2)
  let lim := if h.fs % 48000 = 0 then 49152000 else 45158400
  decide (slots * width * h.fs ≤ lim) && (bitsOf w 2 2 == 2 || decide (slots ≤ 2)) && decide (word ≤ width)
    && (!master || h.mediaMult % (slots * width) == 0)

/-- The alignment group that the deal gives a transmitter (R390, R391; DESIGN CHOICE, log entry 18). -/
def Hw.txGroup (h : Hw) (j : Nat) : Option Nat :=
  match h.deal.cur with
  | some s => (s.txGroups.find? (fun e => e.1.val = j)).map (·.2.val)
  | none => none

/-- A member of a group has been disabled; the last one ends the start (R404). -/
def Hw.groupCheck (h : Hw) (g : Nat) : Hw :=
  let any := (List.range 32).any (fun n => h.b (Reg.SAP_CTRL_en n) && h.b (Reg.SAP_CTRL_grp_en n)
    && h.g (Reg.SAP_CTRL_group n) == g)
  if any || (List.range 8).any (fun j => h.b (Reg.AES_TX_CTRL_en j) && h.txGroup j = some g) then h
  else
    let p := h.ports
    ({ h with ports := { p with startIdx := p.startIdx.del g } } : Hw).s0 (Reg.SAP_GRP_STAT_started g)

/-- A write of SAP_CTRL (R383, R384, R390, R391, R404). -/
def Hw.sapCtrlWrite (h : Hw) (n w master : Nat) : Hw :=
  let en := bitOf w 0
  let a := (Reg.SAP_CTRL_en n).addr
  let set := fun (h : Hw) => ((((((((((h.p (Reg.SAP_CTRL_master n) (bitsOf w 1 1)).p (Reg.SAP_CTRL_fmt n) (bitsOf w 2 2)).p
    (Reg.SAP_CTRL_slots_m1 n) (bitsOf w 4 5)).p (Reg.SAP_CTRL_width n) (bitsOf w 9 2)).p (Reg.SAP_CTRL_wlen n) (bitsOf w 11 2)).p
    (Reg.SAP_CTRL_bclk_pol n) (bitsOf w 13 1)).p (Reg.SAP_CTRL_fs_pol n) (bitsOf w 14 1)).p (Reg.SAP_CTRL_fs_dly n) (bitsOf w 15 1)).p
    (Reg.SAP_CTRL_group n) (bitsOf w 16 3)).p (Reg.SAP_CTRL_grp_en n) (bitsOf w 19 1))
  let old := h.g (Reg.SAP_CTRL_master n) * 2 + h.g (Reg.SAP_CTRL_fmt n) * 4 + h.g (Reg.SAP_CTRL_slots_m1 n) * 16
    + h.g (Reg.SAP_CTRL_width n) * 2 ^ 9 + h.g (Reg.SAP_CTRL_wlen n) * 2 ^ 11 + h.g (Reg.SAP_CTRL_bclk_pol n) * 2 ^ 13
    + h.g (Reg.SAP_CTRL_fs_pol n) * 2 ^ 14 + h.g (Reg.SAP_CTRL_fs_dly n) * 2 ^ 15 + h.g (Reg.SAP_CTRL_group n) * 2 ^ 16
    + h.g (Reg.SAP_CTRL_grp_en n) * 2 ^ 19
  if h.b (Reg.SAP_CTRL_en n) then
    if bitsOf w 1 19 != bitsOf old 1 19 then h.s1 (Reg.SAP_STAT_live_wr n)
    else if en then h
    else
      let h := ((h.s0 (Reg.SAP_CTRL_en n)).p (Reg.SAP_STAT_state n) 0).setSap n {}
      if h.b (Reg.SAP_CTRL_grp_en n) then h.groupCheck (h.g (Reg.SAP_CTRL_group n)) else h
  else if bitsOf w 2 2 = 3 || bitsOf w 9 2 = 3 || bitsOf w 11 2 = 3 then h.valueErr a master
  else if !en then set h
  else if !h.sapCfgOk w then h.s1 (Reg.SAP_STAT_cfg_bad n)
  else
    let h := (set h).s1 (Reg.SAP_CTRL_en n)
    let live := if bitOf w 1 then 3 else 2
    let g := bitsOf w 16 3
    if !bitOf w 19 then (h.p (Reg.SAP_STAT_state n) live).setSap n {}
    else if !h.b (Reg.SAP_GRP_STAT_started g) then (h.p (Reg.SAP_STAT_state n) 1).setSap n {}
    else (h.p (Reg.SAP_STAT_state n) live).setSap n { startAt := h.blockAfter h.t64 }

/-- SAP_ENABLE: a write of SAP_CTRL, and the port's balls (R285). -/
def Hw.sapCtrl (h : Hw) (n w master : Nat) : Hw :=
  let was := h.b (Reg.SAP_CTRL_en n)
  let h := h.sapCtrlWrite n w master
  h.sapPins n was (h.b (Reg.SAP_CTRL_en n))

/-- The slots a port receives for its kitty: (slot, channel). -/
def Hw.sapInSlots (h : Hw) (n : Nat) : List (Nat × Nat) :=
  ((List.range (h.sapSlots n)).filter (fun s => h.b (Reg.SAP_SLOTMAP_ACT_in_en n s) && !h.b (Reg.SAP_SLOTMAP_ACT_in_asrc n s))).map
    (fun s => (s, h.g (Reg.SAP_SLOTMAP_ACT_in_chan n s)))

/-- The presentation delay when a kitty takes its blocks from this SAP. -/
def sapFeeds (n : Nat) (c : InCfg) : Option Nat :=
  match c.src with
  | .sap m d => if m.val = n then some d else none
  | _ => none

def aesFeeds (i : Nat) (c : InCfg) : Option Nat :=
  match c.src with
  | .aes m d => if m.val = i then some d else none
  | _ => none

/-- The slot maps change places (R387). -/
def Hw.sapSwap (h : Hw) (n : Nat) : Hw :=
  let h := (List.range 32).foldl (fun h s => h.swapF
    [(Reg.SAP_SLOTMAP_ACT_in_chan n s, Reg.SAP_SLOTMAP_SHD_in_chan n s), (Reg.SAP_SLOTMAP_ACT_out_chan n s, Reg.SAP_SLOTMAP_SHD_out_chan n s),
     (Reg.SAP_SLOTMAP_ACT_in_en n s, Reg.SAP_SLOTMAP_SHD_in_en n s), (Reg.SAP_SLOTMAP_ACT_out_en n s, Reg.SAP_SLOTMAP_SHD_out_en n s),
     (Reg.SAP_SLOTMAP_ACT_in_asrc n s, Reg.SAP_SLOTMAP_SHD_in_asrc n s), (Reg.SAP_SLOTMAP_ACT_out_asrc n s, Reg.SAP_SLOTMAP_SHD_out_asrc n s)]) h
  (h.p (Reg.SAP_SLOT_SWAP_act_sel n) (1 - h.g (Reg.SAP_SLOT_SWAP_act_sel n))).s0 (Reg.SAP_SLOT_SWAP_swap_req n)

/-- A slot's content as an H32 sample (R382, R386). -/
def Hw.sapIn (h : Hw) (n : Nat) (w : Word) : Int :=
  let width := widthBits (h.g (Reg.SAP_CTRL_width n))
  let code := h.g (Reg.SAP_CTRL_wlen n)
  let v := w.toNat % 2 ^ width / 2 ^ (width - widthBits code)
  toH32 (wordFmt code) (beBytes (widthBits code / 8) v)

/-- A sample as the slot drives it. -/
def Hw.sapOut (h : Hw) (n : Nat) (x : Int) : Nat :=
  let width := widthBits (h.g (Reg.SAP_CTRL_width n))
  let code := h.g (Reg.SAP_CTRL_wlen n)
  lowBits (widthBits code) (fromH32 (wordFmt code) x) * 2 ^ (width - widthBits code)

/-- The steered oscillator's measurement at a frame of the steering port (R402). The loop's code is free
(UNVERIFIED, log entry 49). -/
def Hw.vcxoMeasure (h : Hw) (kind unit edge pos : Nat) : Hw :=
  if !h.b Reg.SAP_VCXO_CTRL_en || h.g Reg.SAP_VCXO_CTRL_kind != kind || h.g Reg.SAP_VCXO_CTRL_unit != unit then h
  else
    let off := clampI (-32768) 32767 (((edge : Int) - h.instant pos) * (h.fs : Int) * 256 / 1000000000)
    let h := h.p Reg.SAP_VCXO_STAT_offset (lowBits 16 off)
    let p := h.ports
    let small := decide (-64 < off) && decide (off < 64)
    let since := if small then some (p.vcxoIn.getD h.t64) else none
    let (v, h) := h.draw
    let h := (h.p Reg.SAP_VCXO_CODE_code v)
    let h : Hw := { h with ports := { p with vcxoIn := since, vcxoDriven := true } }
    let h := if v % 65536 = 0 || v % 65536 = 65535 then h.s1 Reg.SAP_VCXO_STAT_rail else h
    h.p Reg.SAP_VCXO_STAT_lock (b2n (match since with
      | some t => decide (t + 1000000000 ≤ h.t64)
      | none => false))

def Hw.setPos (h : Hw) (n pos : Nat) : Hw :=
  (h.p (Reg.SAP_POS_LO_pos n) (pos % 2 ^ 32)).p (Reg.SAP_POS_HI_pos n) (pos / 2 ^ 32)

/-- The output side of a SAP frame at a position (R387, R389): only slots that the port's FIFO feeds count. -/
def Hw.sapDrive (h : Hw) (n pos : Nat) : Hw :=
  let outs := (List.range (h.sapSlots n)).filter (fun s => h.b (Reg.SAP_SLOTMAP_ACT_out_en n s))
  if outs.isEmpty then
    let p := h.sapSt n
    h.setSap n { p with out := List.replicate (h.sapSlots n) 0 }
  else
    let (p, rep, disc) := (h.sapSt n).send pos
    let (h, xs) := h.outMuted (fun k => match k with
      | .sap m => m.val == n
      | _ => false) p.outLast.2
    let words := (List.range (h.sapSlots n)).map (fun s =>
      if !h.b (Reg.SAP_SLOTMAP_ACT_out_en n s) then 0
      else if h.b (Reg.SAP_SLOTMAP_ACT_out_asrc n s) then
        match h.asrcFor 1 0 n s with
        | some c => h.sapOut n (h.asrcDrive c pos)
        | none => 0
      else h.sapOut n (nthI xs (h.g (Reg.SAP_SLOTMAP_ACT_out_chan n s))))
    let h := (h.setSap n { p with out := words }).asrcDrove 0 n
      (outs.filter (fun s => h.b (Reg.SAP_SLOTMAP_ACT_out_asrc n s))) pos
    if outs.all (fun s => h.b (Reg.SAP_SLOTMAP_ACT_out_asrc n s)) then h
    else (h.add (Reg.SAP_CNT_count n 0) rep).add (Reg.SAP_CNT_count n 1) disc

/-- The input side of a SAP frame at a position (R388, R389, R393). -/
def Hw.sapTake (h : Hw) (n pos : Nat) (slots : List Word) : Hw :=
  let xs := slots.map (h.sapIn n)
  let h := (List.range (h.sapSlots n)).foldl (fun h s =>
    if h.b (Reg.SAP_SLOTMAP_ACT_in_en n s) && h.b (Reg.SAP_SLOTMAP_ACT_in_asrc n s) then
      match h.asrcFor 0 0 n s with
      | some c => h.asrcIn c (nthI xs s)
      | none => h
    else h) h
  let ins := h.sapInSlots n
  let (h, p, rep, disc) := h.takeFrame (h.sapSt n) (sapFeeds n) ins pos xs
  let h := h.setSap n p
  let h := if p.pos = some pos then h.setPos n pos else h
  if ins.isEmpty then h else (h.add (Reg.SAP_CNT_count n 0) rep).add (Reg.SAP_CNT_count n 1) disc

/-- SAP_FRAME: a frame whose start edge the time unit stamps: at `edge`, or now where T64 is past it (R4, R388, R389); `valid` is a frame period and a BCLK count
within the limits of R392, and slot words stand right-aligned in their slots. -/
def Hw.sapFrame (h : Hw) (n edge : Nat) (valid : Bool) (slots : List Word) : Hw :=
  let st := h.sapState n
  if !h.b (Reg.SAP_CTRL_en n) || st ≤ 1 then h
  else
    let h := h.advanceTo edge
    let edge := h.t64
    let h := if h.b (Reg.SAP_SLOT_SWAP_swap_req n) then h.sapSwap n else h
    let master := h.b (Reg.SAP_CTRL_master n)
    let pos := if master then h.media edge else h.nearest edge
    let p := h.sapSt n
    if pos < p.startAt then h
    else if !master && !valid then
      let h := (h.s1 (Reg.SAP_STAT_glitch n)).add (Reg.SAP_CNT_count n 2) 1
      (h.setSap n { p with valid := 0 }).sapDrive n pos
    else
      let h := h.setSap n { p with valid := p.valid + 1 }
      let h := h.vcxoMeasure 0 n edge pos
      let need := if st = 4 then 2 else if st = 5 then 64 else 1
      let h := if p.valid + 1 < need then h else (h.p (Reg.SAP_STAT_state n) 3).sapTake n pos slots
      h.sapDrive n pos

/-- The port stops and holds its last sample (R392). -/
def Hw.sapHold (h : Hw) (n st : Nat) : Hw :=
  let p := h.sapSt n
  (h.p (Reg.SAP_STAT_state n) st).setSap n { p with valid := 0 }

/-- SAP_CLK_STOP (R392): a master port never detects a stop (R393), and a stopped port detects no second one. -/
def Hw.sapStop (h : Hw) (n : Nat) : Hw :=
  if !h.b (Reg.SAP_CTRL_en n) || h.b (Reg.SAP_CTRL_master n) || h.sapState n == 4 then h
  else (((h.sapHold n 4).s1 (Reg.SAP_STAT_clk_stop n)).add (Reg.SAP_CNT_count n 3) 1).raiseU (0x70 + n)

/-- The ASRC channels bound to a port. -/
def Hw.asrcOf (h : Hw) (kind unit : Nat) : List Nat :=
  (List.range 128).filter (fun c => h.b (Reg.ASRC_CH_CTRL_en c) && h.g (Reg.ASRC_CH_CTRL_kind c) == kind
    && h.g (Reg.ASRC_CH_CTRL_unit c) == unit)

/-- The ratio of a rate code's frequency to the table rate, in Q8.24. -/
def Hw.rateRatio (h : Hw) (code : Nat) : Nat := rateHz code * 2 ^ 24 / h.fs

/-- SAP_RATE_CHANGE (R392): a port whose slots feed ASRC channels goes on through them where the new rate lies in
their range. -/
def Hw.sapRate (h : Hw) (n code : Nat) : Hw :=
  if !h.b (Reg.SAP_CTRL_en n) || h.b (Reg.SAP_CTRL_master n) then h
  else
    let mine := h.asrcOf 0 n
    if !mine.isEmpty && ratioOk (h.rateRatio code) then mine.foldl (fun h c => h.asrcLeave c 1) h
    else (((h.sapHold n 5).s1 (Reg.SAP_STAT_rate_chg n)).p (Reg.SAP_STAT_rate n) code).raiseU (0x90 + n)

/-- SAP_SLOT_SWAP. -/
def Hw.sapSwapReq (h : Hw) (n : Nat) : Hw := h.s1 (Reg.SAP_SLOT_SWAP_swap_req n)

/-- A stopped port holds the input of the ASRC channels bound to its slots (R401). -/
def Hw.asrcHold (h : Hw) (kind unit count : Nat) (last : List Int) : Hw :=
  ((h.asrcOf kind unit).filter (fun c => h.g (Reg.ASRC_CH_CTRL_dir c) == 0)).foldl (fun h c =>
    (List.range (min count 256)).foldl (fun h _ => h.asrcIn c (nthI last (h.g (Reg.ASRC_CH_CTRL_slot c)))) h) h

/-- At a tick at media sample index t, a stopped port has repeated its last sample up to it (R392, R389). -/
def Hw.sapTick (h : Hw) (t : Nat) : Hw :=
  (List.range 32).foldl (fun h n =>
    if h.sapState n = 4 || h.sapState n = 5 then
      let p := h.sapSt n
      match p.pos with
      | none => h
      | some q =>
        if q + 1 ≥ t then h
        else
          let held := if p.run = 0 then p.last else p.held
          let h := h.repeatAt (sapFeeds n) (h.sapInSlots n) held p.run (q + 1) t
          let h := h.setSap n { p with pos := some (t - 1), held := held, run := p.run + (t - q - 1), ret := 64 }
          ((h.asrcHold 0 n (t - q - 1) p.last).setPos n (t - 1)).add (Reg.SAP_CNT_count n 0) (t - q - 1)
    else h) h

/-! ### Alignment groups (R390, R391) -/

/-- SAP_GROUP_ARM: with a trigger T64 that has passed, the group starts at the next block boundary. -/
def Hw.groupArm (h : Hw) (g : Nat) : Hw :=
  let h := ((h.s1 (Reg.SAP_GRP_CTRL_arm g)).s1 (Reg.SAP_GRP_STAT_armed g))
  let p := h.ports
  if h.b (Reg.SAP_GRP_CTRL_src g) then { h with ports := { p with trigger := p.trigger.del g } }
  else
    let t := h.g (Reg.SAP_GRP_START_LO_t64 g) + h.g (Reg.SAP_GRP_START_HI_t64 g) * 2 ^ 32
    if t < h.t64 then ({ h with ports := { p with trigger := p.trigger.put g h.t64 } } : Hw).s1 (Reg.SAP_GRP_STAT_late g)
    else { h with ports := { p with trigger := p.trigger.put g t } }

/-- An event timer's firing is the trigger of the groups armed for it. -/
def Hw.groupTimer (h : Hw) (i : Nat) : Hw :=
  (List.range 8).foldl (fun h g =>
    let tmr := h.g (Reg.SAP_GRP_CTRL_tmr g)
    if h.b (Reg.SAP_GRP_STAT_armed g) && h.b (Reg.SAP_GRP_CTRL_src g) && (if tmr = 0 then 1 else tmr) = i
        && (h.ports.trigger.find? g).isNone then
      let p := h.ports
      { h with ports := { p with trigger := p.trigger.put g h.t64 } }
    else h) h

/-- SAP_GROUP_START: at the start instant every enabled member begins. -/
def Hw.groupStart (h : Hw) (g : Nat) : Hw :=
  match h.ports.trigger.find? g with
  | none => h
  | some t =>
    if !h.b (Reg.SAP_GRP_STAT_armed g) then h
    else
      let i := h.blockAfter t
      let h := h.advanceTo (h.instant i)
      let p := h.ports
      let h : Hw := { h with ports := { p with trigger := p.trigger.del g, startIdx := p.startIdx.put g i } }
      let h := ((h.s1 (Reg.SAP_GRP_STAT_started g)).s0 (Reg.SAP_GRP_STAT_armed g)).s0 (Reg.SAP_GRP_CTRL_arm g)
      (List.range 32).foldl (fun h n =>
        if h.b (Reg.SAP_CTRL_en n) && h.b (Reg.SAP_CTRL_grp_en n) && h.g (Reg.SAP_CTRL_group n) == g && h.sapState n = 1 then
          let x := h.sapSt n
          (h.p (Reg.SAP_STAT_state n) (if h.b (Reg.SAP_CTRL_master n) then 3 else 2)).setSap n { x with startAt := i }
        else h) h

/-! ### AES3 receivers (R394–R396) -/

def Hw.aesSt (h : Hw) (i : Nat) : AesRxSt := h.ports.aesRx.get {} i

def Hw.setAes (h : Hw) (i : Nat) (x : AesRxSt) : Hw := let p := h.ports; { h with ports := { p with aesRx := p.aesRx.put i x } }

/-- Block synchronisation at a frame, `z` for a Z preamble: the receiver after it, and the lock code. A Z at any other
count than 192, or none where it is due, ends block lock. -/
def Hw.aesBlockSync (h : Hw) (i : Nat) (z : Bool) : Hw :=
  let a := h.aesSt i
  let lock := h.g (Reg.AES_RX_STAT_lock i)
  let lost := fun (h : Hw) => if lock = 2 then (h.p (Reg.AES_RX_STAT_lock i) 1).add (Reg.AES_RX_CNT_count i 1) 1 else h
  if z then
    match a.sinceZ with
    | some 192 => (h.p (Reg.AES_RX_STAT_lock i) 2).setAes i { a with sinceZ := some 0, bits := [[], [], [], []] }
    | some _ => (lost h).setAes i { a with sinceZ := some 0, bits := [[], [], [], []] }
    | none => h.setAes i { a with sinceZ := some 0, bits := [[], [], [], []] }
  else if a.sinceZ = some 192 then (lost h).setAes i { a with sinceZ := none, bits := [[], [], [], []] }
  else h

/-- A period of `per` ns lies within 1/n of a rate's period. -/
def nearPeriod (per hz n : Nat) : Bool := decide (((per * hz : Nat) - 1000000000 : Int).natAbs * n ≤ 1000000000)

/-- A frame's start edge against the one before it (R392, R393): a glitch, a rate change after 64 periods at another
standard rate, the return after 64 at the declared one. A frame discarded before lock breaks the run of consecutive valid frames
(R394). Answers whether the frame is taken. -/
def Hw.aesPeriod (h : Hw) (i edge : Nat) : Hw × Bool :=
  let a := h.aesSt i
  match a.edge with
  | none => (h.setAes i { a with edge := some edge }, !a.changed)
  | some e =>
    let per := edge - e
    let code := ((List.range 6).find? (fun c => nearPeriod per (rateHz c) 200)).getD 6
    let n := if code = 6 then 0 else if code = a.keeps.1 then a.keeps.2 + 1 else 1
    let a : AesRxSt := { a with edge := some edge, keeps := (code, n) }
    let hz := match a.nominal with
      | some c => rateHz c
      | none => h.fs
    let h := h.setAes i a
    if n = 64 && rateHz code != hz then
      if !(h.asrcOf 1 i).isEmpty && ratioOk (h.rateRatio code) then
        ((h.asrcOf 1 i).foldl (fun h c => h.asrcLeave c 1) (h.setAes i { a with nominal := some code }), true)
      else
        ((((h.setAes i { a with changed := true, stopped := true, frames := 0 }).s1 (Reg.AES_RX_STAT_rate_chg i)).p
          (Reg.AES_RX_STAT_rate i) code).raiseU (0xB8 + i), false)
    else if a.changed then
      if n ≥ 64 && rateHz code = hz then (h.setAes i { a with changed := false }, true) else (h, false)
    else if nearPeriod per hz 8 then (h, true)
    else
      let a := if h.g (Reg.AES_RX_STAT_lock i) = 0 then { a with frames := 0 } else a
      ((h.setAes i a).s1 (Reg.AES_RX_STAT_glitch i), false)

/-- AES_RX_FRAME: one decoded frame whose start edge the time unit stamps: at `edge`, or now where T64 is past it (R4). -/
def Hw.aesFrame (h : Hw) (i edge : Nat) (z par1 par2 v1 v2 c1 c2 u1 u2 : Bool) (s1 s2 : Nat) : Hw :=
  if !h.b (Reg.AES_RX_CTRL_en i) then h
  else
    let h := h.advanceTo edge
    let edge := h.t64
    let (h, taken) := h.aesPeriod i edge
    if !taken then h
    else
    let pos := h.nearest edge
    let a := h.aesSt i
    let frames := a.frames + 1
    let need := if a.stopped then 2 else 8
    let h := h.setAes i { a with frames := frames }
    let h := h.vcxoMeasure 1 i edge pos
    if frames < need then h
    else
      let a := h.aesSt i
      let h := h.setAes i { a with stopped := false }
      let h := if h.g (Reg.AES_RX_STAT_lock i) = 0 then h.p (Reg.AES_RX_STAT_lock i) 1 else h
      let h := h.aesBlockSync i z
      let a := h.aesSt i
      let h := h.setAes i { a with
        sinceZ := a.sinceZ.map (· + 1)
        bits := [a.bits.getD 0 [] ++ [c1], a.bits.getD 1 [] ++ [c2], a.bits.getD 2 [] ++ [u1], a.bits.getD 3 [] ++ [u2]] }
      let h := if v1 || v2 then h.s1 (Reg.AES_RX_STAT_v_seen i) else h
      let h := h.add (Reg.AES_RX_CNT_count i 0) (b2n par1 + b2n par2)
      let vc := h.b (Reg.AES_RX_CTRL_v_conceal i)
      let bad1 := par1 || (vc && v1)
      let bad2 := par2 || (vc && v2)
      let a := h.aesSt i
      let x1 := if bad1 then nthI a.port.last 0 else toH32 2 (beBytes 3 s1)
      let x2 := if bad2 then nthI a.port.last 1 else toH32 2 (beBytes 3 s2)
      let feed := fun (h : Hw) (s : Nat) (x : Int) => match h.asrcFor 0 1 i s with
        | some c => h.asrcIn c x
        | none => h
      let h := feed (feed h 0 x1) 1 x2
      let (h, p, rep, _) := h.takeFrame (h.aesSt i).port (aesFeeds i) [(0, 0), (1, 1)] pos [x1, x2]
      let a := h.aesSt i
      let h := (h.setAes i { a with port := p }).add (Reg.AES_RX_CNT_count i 3) (rep + b2n bad1 + b2n bad2)
      if bad1 || bad2 then
        { h with kin := h.kin.map (fun (e : Nat × InKitty) => match aesFeeds i e.2.cfg with
          | some d =>
            let m := (pos + d) / h.bs * h.bs
            let mark := fun (s : Slot) => if s.n = m then { s with concealed := true } else s
            (e.1, { e.2 with slots := e.2.slots.map (fun (x : Nat × Slot) => (x.1, mark x.2)), lined := e.2.lined.map mark })
          | none => e) }
      else h

/-- Bytes of captured bits: bit 8k + j is bit j of byte k (R396). -/
def bitsToBytes (bs : List Bool) : List Nat :=
  (List.range (bs.length / 8)).map (fun k => (List.range 8).foldl (fun v j => v + b2n (bs.getD (8 * k + j) false) * 2 ^ j) 0)

/-- One bit of the CRCC of AES3, bits in transmission order. -/
def crccStep (c bit : Nat) : Nat := if (c + bit) % 2 = 1 then Nat.xor (c / 2) 0xB8 else c / 2

/-- The CRCC over bytes, initial value 0xFF (R396) (PRESUMED, log entry 40). -/
def crcc (bs : List Nat) : Nat := bs.foldl (fun c b => (List.range 8).foldl (fun c j => crccStep c (b / 2 ^ j)) c) 0xFF

/-- AES_RX_BLOCK: at the end of a block under block lock. -/
def Hw.aesBlock (h : Hw) (i : Nat) : Hw :=
  let a := h.aesSt i
  if h.g (Reg.AES_RX_STAT_lock i) != 2 || (a.bits.getD 0 []).length != 192 then h
  else
    let by' := a.bits.map bitsToBytes
    let cs := [by'.getD 0 [], by'.getD 1 []]
    let pro := (cs.getD 0 []).getD 0 0 % 2 = 1
    let bad := h.b (Reg.AES_RX_CTRL_crc_chk i) && cs.any (fun c => c.getD 0 0 % 2 = 1 && crcc (c.take 23) != c.getD 23 0)
    let h := h.setAes i { a with bits := [[], [], [], []] }
    if bad then (h.s1 (Reg.AES_RX_STAT_crc_err i)).add (Reg.AES_RX_CNT_count i 2) 1
    else
      let word := fun (l : List Nat) (w : Nat) => (List.range 4).foldl (fun v j => v + l.getD (4 * w + j) 0 * 2 ^ (8 * j)) 0
      let h := (List.range 2).foldl (fun h ch => (List.range 6).foldl (fun h w =>
        (h.p (Reg.AES_RX_CS_bytes i ch w) (word (by'.getD ch []) w)).p (Reg.AES_RX_UB_bytes i ch w)
          (word (by'.getD (2 + ch) []) w)) h) h
      ((h.p (Reg.AES_RX_STAT_pro i) (b2n pro)).s1 (Reg.AES_RX_STAT_cs_new i)).add (Reg.AES_RX_CS_SEQ_seq i) 1

/-- AES_CLK_STOP (R392): a stopped receiver detects no second stop. -/
def Hw.aesStop (h : Hw) (i : Nat) : Hw :=
  if !h.b (Reg.AES_RX_CTRL_en i) || (h.aesSt i).stopped then h
  else
    let a := h.aesSt i
    (((h.setAes i { a with frames := 0, stopped := true, edge := none, sinceZ := none, bits := [[], [], [], []] }).p
      (Reg.AES_RX_STAT_lock i) 0).s1 (Reg.AES_RX_STAT_clk_stop i)).raiseU (0xB0 + i)

/-- At a tick a stopped receiver has repeated its last samples (R392). -/
def Hw.aesTick (h : Hw) (t : Nat) : Hw :=
  (List.range 8).foldl (fun h i =>
    let a := h.aesSt i
    match a.stopped, a.port.pos with
    | true, some q =>
      if q + 1 ≥ t then h
      else
        let p := a.port
        let held := if p.run = 0 then p.last else p.held
        let h := h.repeatAt (aesFeeds i) [(0, 0), (1, 1)] held p.run (q + 1) t
        let h := h.asrcHold 1 i (t - q - 1) p.last
        (h.setAes i { a with port := { p with pos := some (t - 1), held := held, run := p.run + (t - q - 1), ret := 64 } }).add
          (Reg.AES_RX_CNT_count i 3) (t - q - 1)
    | _, _ => h) h

/-- A disabled receiver has no lock. -/
def Hw.aesRxOff (h : Hw) (i : Nat) : Hw := (h.setAes i {}).p (Reg.AES_RX_STAT_lock i) 0

/-! ### AES3 transmitters (R397, R398) -/

def Hw.aesTxSt (h : Hw) (j : Nat) : PortSt := h.ports.aesTx.get {} j

def Hw.setAesTx (h : Hw) (j : Nat) (x : PortSt) : Hw := let p := h.ports; { h with ports := { p with aesTx := p.aesTx.put j x } }

/-- The channel-status copies change places at a frame 0. -/
def Hw.csSwap (h : Hw) (j : Nat) : Hw :=
  let h := (List.range 2).foldl (fun h ch => (List.range 6).foldl (fun h w =>
    h.swapF [(Reg.AES_TX_CS_ACT_bytes j ch w, Reg.AES_TX_CS_SHD_bytes j ch w)]) h) h
  (h.p (Reg.AES_TX_CS_SWAP_act_sel j) (1 - h.g (Reg.AES_TX_CS_SWAP_act_sel j))).s0 (Reg.AES_TX_CS_SWAP_swap_req j)

/-- Channel-status bit f of a channel as sent: byte 23 is the CRCC in professional format with crc_gen. -/
def Hw.csBit (h : Hw) (j ch f : Nat) : Bool :=
  let byte := fun k => h.g (Reg.AES_TX_CS_ACT_bytes j ch (k / 4)) / 2 ^ (8 * (k % 4)) % 256
  if f / 8 = 23 && h.b (Reg.AES_TX_CTRL_crc_gen j) && byte 0 % 2 = 1 then
    crcc ((List.range 23).map byte) / 2 ^ (f % 8) % 2 = 1
  else byte (f / 8) / 2 ^ (f % 8) % 2 = 1

def parityOf : Nat → Nat → Nat
  | 0, _ => 0
  | n + 1, v => (v + parityOf n (v / 2)) % 2

/-- A subframe: preamble code (0 Z, 1 X, 2 Y) in [3:0], sample in [27:4], V, U, C and even parity. -/
def Hw.subframe (h : Hw) (j ch f : Nat) (x : Int) (v : Bool) : Nat :=
  let pre := if ch = 1 then 2 else if f = 0 then 0 else 1
  let u := h.b (Reg.AES_TX_CTRL_u_en j) && h.g (Reg.AES_TX_UB_bytes j ch (f / 32)) / 2 ^ (f % 32) % 2 = 1
  let body := lowBits 24 (fromH32 2 x) + b2n v * 2 ^ 24 + b2n u * 2 ^ 25 + b2n (h.csBit j ch f) * 2 ^ 26
  pre + body * 16 + parityOf 27 body * 2 ^ 31

/-- A transmitter of a group that has not started awaits its start; the first frame of one enabled later is at a block boundary
(R390, R391). Answers the least position, where it may send. -/
def Hw.txFrom (h : Hw) (j : Nat) : Option Nat :=
  match h.txGroup j with
  | none => some (h.indexAfter h.t64)
  | some g =>
    match h.ports.startIdx.find? g with
    | none => none
    | some i => some (if (h.aesTxSt j).outPos.isNone then max i (h.blockAfter h.t64) else h.indexAfter h.t64)

/-- AES_TX_FRAME: the frame at the next position. -/
def Hw.aesTx (h : Hw) (j : Nat) : Hw :=
  if !h.b (Reg.AES_TX_CTRL_en j) then
    let p := h.aesTxSt j
    h.setAesTx j { p with out := [] }
  else match h.txFrom j with
  | none => h
  | some now =>
    let pos := match (h.aesTxSt j).outPos with
      | some q => max (q + 1) now
      | none => now
    let h := h.advanceTo (h.instant pos)
    let f := pos % 192
    let h := if f = 0 && h.b (Reg.AES_TX_CS_SWAP_swap_req j) then h.csSwap j else h
    let (p, _, _) := (h.aesTxSt j).send pos
    let (h, xs) := h.outMuted (fun k => match k with
      | .aes m => m.val == j
      | _ => false) p.outLast.2
    let sample := fun (h : Hw) ch => match h.asrcFor 1 1 j ch with
      | some c => h.asrcDrive c pos
      | none => nthI xs ch
    let mode := h.g (Reg.AES_TX_CTRL_v_mode j)
    let v := if mode = 0 then false else if mode = 2 then true else p.outLast.1
    (h.setAesTx j { p with out := [h.subframe j 0 f (sample h 0) v, h.subframe j 1 f (sample h 1) v] }).asrcDrove 1 j [0, 1] pos

/-- AES_TX_CS_SWAP. -/
def Hw.aesTxSwapReq (h : Hw) (j : Nat) : Hw := h.s1 (Reg.AES_TX_CS_SWAP_swap_req j)

/-- The network ports that a stream leaves on: those of its sink, or, in twin service, port A of the active engine while the
standby serves port B, both ports when solo, and port B of a standby in service (R334, R445). -/
def Hw.streamPorts (h : Hw) (ports : List Port) : List Port :=
  if !h.b Reg.TWIN_CTRL_en then ports
  else if h.g Reg.TWIN_STAT_position = 2 then (if h.twin.sendB then [.b] else [])
  else if h.b Reg.TWIN_STAT_solo then ports
  else [.a]

/-- Stream packets join the audio queue of their ports, each with its launch time (R323, R332, R334). -/
def Hw.streamSend (h : Hw) (ports : List Port) (pkts : List (Nat × List Byte)) : Hw :=
  (h.streamPorts ports).foldl (fun h p =>
    pkts.foldl (fun h x => h.queueFrame (pn p) 6 x.1 (udpFrame x.2.length) x.2) h) h

/-- A block released to a port enters its FIFO; a network sink's packets are queued; to a Gnogo sink, its frame is sent, but
not by a standby (R25, R332, R334, R357, R389, R445). -/
def Hw.releaseTo (h : Hw) (kid : Nat) : Hw :=
  match h.outK kid with
  | none => h
  | some k =>
    match k.cfg.sink, k.lastN with
    | .sap n, some m =>
      let st := h.sapState n.val
      h.setSap n.val (h.portFifo (h.sapSt n.val) (st = 4 || st = 5) (h.releaseAt k.cfg m) k.sent k.sentConcealed)
    | .aes j, some m =>
      h.setAesTx j.val (h.portFifo (h.aesTxSt j.val) false (h.releaseAt k.cfg m) k.sent k.sentConcealed)
    | .gnogo dst, some _ =>
      if h.g Reg.TWIN_STAT_position = 2 then h
      else k.pkts.foldl (fun h b => h.routeSend dst 1 1 (beBytes 2 dst ++ beBytes 1 8 ++ beBytes 1 0 ++ b.2) 0) h
    | .brizu ports, some _ => h.streamSend ports k.pkts
    | .rtp ports _ _ _ _ _, some _ => h.streamSend ports k.pkts
    | _, _ => h

end Sys2Proof.Machine
end

