-- ==== Sys2Proof/Machine/ClkOps.lean ====
section
/-! DEFINITION. Reference selection and the media clock (R407–R421). -/

namespace Sys2Proof.Machine

def ckFree : Nat := 0
def ckSwitching : Nat := 1
def ckLocked : Nat := 2
def ckAcquiring : Nat := 3
def ckHoldover : Nat := 4
def ckSteered : Nat := 5

def Hw.refSt (h : Hw) (r : Nat) : RefSt := h.clk.refs.get {} r

def Hw.setRef (h : Hw) (r : Nat) (x : RefSt) : Hw := let c := h.clk; { h with clk := { c with refs := c.refs.put r x } }

def Hw.refState (h : Hw) (r : Nat) : Nat := h.g (Reg.CLK_REF_STAT_state r)

def Hw.setRefState (h : Hw) (r s : Nat) : Hw := h.p (Reg.CLK_REF_STAT_state r) s

def Hw.clkState (h : Hw) : Nat := h.g Reg.CLK_STAT_state

def Hw.sel (h : Hw) : Nat := h.g Reg.CLK_STAT_sel

/-- A reference is qualified: a candidate, or selected. -/
def Hw.refQualified (h : Hw) (r : Nat) : Bool := h.refState r = 4 || h.refState r = 5

/-- The quality before R410 of a reference, from what it carries (R407). -/
def Hw.refQuality (h : Hw) (r grade : Nat) : Nat :=
  let cfg := h.g (Reg.CLK_REF_CFG_qual r)
  if r = 0 then
    (if grade = 6 then 1 else if grade = 13 then 2 else if grade = 7 || grade = 14 then 4
     else if grade = 52 || grade = 187 then 6 else 10)
  else if r = 1 then min (grade + 1) 14
  else if 6 ≤ r && r ≤ 13 then (if grade = 1 then 2 else if grade = 2 then 3 else cfg)
  else cfg

/-- The quality in force: the soft window adds 2, at most 14 (R410). -/
def Hw.refQual (h : Hw) (r : Nat) : Nat :=
  let x := h.refSt r
  if x.soft then min (x.base + 2) 14 else x.base

/-- The advertised quality (R419). -/
def Hw.setQuality (h : Hw) : Hw :=
  let st := h.clkState
  h.p Reg.CLK_STAT_quality (if st = ckHoldover then 14 else if st = ckFree || st = ckSteered then 15
    else if h.sel < 15 then h.refQual h.sel else 14)

/-- Set CLK_STAT.state, and the quality that follows from it; a change is an interrupt (R238). -/
def Hw.setClk (h : Hw) (s : Nat) : Hw :=
  let h := if h.clkState = s then h else h.s1 Reg.HOST_IRQ_STAT_ref
  let c := h.clk
  (({ h with clk := { c with shown := true } } : Hw).p Reg.CLK_STAT_state s).setQuality

/-- The record of a switch, type 0x07 (R57, R420). -/
def Hw.switchRecord (h : Hw) (from' dst cause : Nat) : Hw :=
  h.trace 7 (leBytes 1 from' ++ leBytes 1 dst ++ leBytes 1 cause)

/-- What is selected, as R420 codes it. -/
def Hw.selCode (h : Hw) : Nat :=
  if h.sel < 15 then h.sel else if h.clkState = ckFree then 0xFF else 0xFE

/-- Free-run (R416): the rate is 0. -/
def Hw.clkFree (h : Hw) (cause : Nat) : Hw :=
  let from' := h.selCode
  let h := (h.p Reg.CLK_STAT_sel 15).setClk ckFree
  ((h.setRate 0).raiseU 0x6C).switchRecord from' 0xFF cause

/-- No selected reference (R416): holdover at the held rate, or free-run if the servo has never locked. -/
def Hw.clkHoldover (h : Hw) (cause : Nat) : Hw :=
  let from' := h.selCode
  let h := if h.sel < 15 && h.refState h.sel = 5 then h.setRefState h.sel 4 else h
  let h := (h.p Reg.CLK_STAT_sel 15).setClk ckHoldover
  let h := h.enterHoldover
  let c := h.clk
  let h := ({ h with clk := { c with holdSince := h.t64, cause := cause } } : Hw).raiseU 0x6B
  let h := h.switchRecord from' 0xFE cause
  if h.clk.everLocked then h else h.clkFree cause

/-- CLK_STAT.state follows the servo between locked and acquiring (R419). -/
def Hw.clkSync (h : Hw) : Hw :=
  let c := h.clk
  let h : Hw := if h.servo = svLocked then { h with clk := { c with everLocked := true } } else h
  if h.clkState = ckAcquiring && h.servo = svLocked then h.setClk ckLocked
  else if h.clkState = ckLocked && h.servo != svLocked then h.setClk ckAcquiring
  else h

/-- a ranks above b: quality, then priority, then index (R413). -/
def Hw.outranks (h : Hw) (a b : Nat) : Bool :=
  let k := fun r => h.refQual r * 2 ^ 12 + h.g (Reg.CLK_REF_CFG_prio r) * 16 + r
  decide (k a < k b)

/-- The best candidate. -/
def Hw.bestCandidate (h : Hw) : Option Nat :=
  (List.range 15).foldl (fun (b : Option Nat) r =>
    if h.refState r != 4 then b
    else match b with
      | none => some r
      | some x => if h.outranks r x then some r else b) none

/-- Start a switch (R414, step 1): the servo holds its rate without measurements. -/
def Hw.startSwitch (h : Hw) (r cause : Nat) : Hw :=
  let from' := h.selCode
  let h := if h.sel < 15 && h.refState h.sel = 5 then h.setRefState h.sel 4 else h
  let c := h.clk
  let h : Hw := ({ h with clk := { c with sw := some ⟨r, from', cause⟩ } } : Hw).setClk ckSwitching
  if h.servo = svAcquire || h.servo = svLocked then h.setServo svHoldover else h

/-- The selector's decision (R413, R417). -/
def Hw.clkDecide (h : Hw) : Hw :=
  if !h.b Reg.CLK_CTRL_en || h.b Reg.CLK_CTRL_open || h.clk.sw.isSome then h
  else if h.b Reg.CLK_CTRL_force_en then
    let r := h.g Reg.CLK_CTRL_force_ref
    if h.sel = r then h
    else if h.refState r = 4 then (if h.t64 < h.clk.dwell then h else h.startSwitch r 3)
    else if h.sel < 15 then h.clkHoldover 3
    else h
  else if h.t64 < h.clk.dwell then h
  else
    match h.bestCandidate with
    | none => h
    | some r =>
      if h.sel < 15 then (if h.outranks r h.sel then h.startSwitch r 0 else h)
      else h.startSwitch r h.clk.cause

/-- A reference is lost (1) or disqualified (2): holdover at once when it is selected; a switch to it ends in
holdover, and the dwell runs from there (R409, R410, R413, R414). -/
def Hw.refFail (h : Hw) (r st : Nat) : Hw :=
  let was := h.refState r
  let x := h.refSt r
  let h := h.setRef r { x with pass := none, wtr := none }
  let h := (h.setRefState r st).p (Reg.CLK_REF_STAT_wtr_left r) 0
  let h := if was = 4 || was = 5 then (h.s1 Reg.CLK_STAT_lost).raiseU 0x6A else h
  let c := h.clk
  let cause := if st = 1 then 1 else 2
  match c.sw with
  | some s =>
    if s.target = r then
      ({ h with clk := { c with sw := none, dwell := h.t64 + 100000000 } } : Hw).clkHoldover cause
    else h
  | none => if was = 5 then h.clkHoldover cause else h

/-- Median of a list: the mean of the two middle values when their count is even, in half ppb (R410). -/
def median2 (l : List Int) : Int :=
  let s := l.mergeSort (fun a b => a ≤ b)
  let n := s.length
  if n % 2 = 1 then 2 * nthI s (n / 2) else nthI s (n / 2 - 1) + nthI s (n / 2)

/-- Twice the majority of a reference, when there is one (R410, R411). -/
def Hw.majority2 (h : Hw) (r : Nat) : Option Int :=
  let l := ((List.range 15).filter (fun i => i != r && h.refQualified i)).filterMap (fun i => (h.refSt i).ppb)
  if l.isEmpty then none else some (median2 l)

/-- A check after one more measurement. -/
def failStep (f : Option Failing) (bad : Bool) (t : Nat) : Option Failing :=
  if bad then match f with
    | some x => some { x with n := x.n + 1 }
    | none => some ⟨t, 1⟩
  else none

/-- A check has failed for the persistence time; for 1PPS at least three measurements. -/
def failed (f : Option Failing) (t persist : Nat) (pps : Bool) : Bool :=
  match f with
  | some x => decide (x.since + persist ≤ t) && (!pps || decide (x.n ≥ 3))
  | none => false

/-- One reference's measurement (R409–R412). -/
def Hw.refMeasure1 (h : Hw) (s : RefSample) : Hw :=
  let r := s.ref.val
  if !h.b (Reg.CLK_REF_CFG_en r) then h
  else
    let x := h.refSt r
    let h := h.p (Reg.CLK_REF_FREQ_ppb r) (lowBits 32 s.ppb)
    let h := if h.refState r = 0 then h.setRefState r 1 else h
    if s.lost then h.refFail r 1
    else
      let off2 := match h.majority2 r with
        | some m => (2 * s.ppb - m).natAbs
        | none => 0
      let xo := s.ppb.natAbs
      let rate := match x.ppb with
        | some p => (s.ppb - p).natAbs * 100
        | none => 0
      let t := h.t64
      let maj := failStep x.maj (off2 > 2 * 100 * h.g Reg.CLK_QUAL0_hard_maj) t
      let xof := failStep x.xo (xo > 1000 * h.g Reg.CLK_QUAL0_hard_xo) t
      let drift := failStep x.drift (rate > 100 * h.g Reg.CLK_QUAL1_drift) t
      let soft : Bool := decide (off2 > 2 * 100 * h.g Reg.CLK_QUAL0_soft_maj) || decide (xo > 1000 * h.g Reg.CLK_QUAL0_soft_xo)
      let clean := maj.isNone && xof.isNone && drift.isNone
      let pass := if clean then some (x.pass.getD t) else none
      let h := h.setRef r { x with
        maj := maj
        xo := xof
        drift := drift
        pass := pass
        ppb := some s.ppb
        soft := soft
        base := h.refQuality r s.grade }
      let h := h.p (Reg.CLK_REF_STAT_qual_act r) (h.refQual r)
      let h := if soft && !x.soft then ((h.s1 (Reg.CLK_REF_STAT_soft r)).s1 Reg.CLK_STAT_warn).raiseU 0x69 else h
      let persist := h.g Reg.CLK_QUAL1_persist * 10000000
      let pps := 2 ≤ r && r ≤ 5 && h.g (Reg.CLK_REF_CFG_kind r) = 2
      let bad := failed maj t persist pps || failed xof t persist pps || failed drift t persist pps
      let st := h.refState r
      if st ≥ 4 then (if bad then h.refFail r 2 else h)
      else if st = 3 then
        if !clean then h.refFail r 2
        else if x.wtr.any (fun w => w + h.g (Reg.CLK_REF_WTR_wtr r) * 1000000000 ≤ t) then
          ((h.setRef r { h.refSt r with wtr := none }).setRefState r 4).p (Reg.CLK_REF_STAT_wtr_left r) 0
        else h.p (Reg.CLK_REF_STAT_wtr_left r) (h.g (Reg.CLK_REF_WTR_wtr r) - (t - x.wtr.getD t) / 1000000000)
      else
        match pass with
        | none => h
        | some p =>
          if t < p + 1000000000 then h
          else
            let y := h.refSt r
            let wtr := h.g (Reg.CLK_REF_WTR_wtr r)
            if !x.qualified || wtr = 0 then (h.setRef r { y with qualified := true }).setRefState r 4
            else ((h.setRef r { y with wtr := some t }).setRefState r 3).p (Reg.CLK_REF_STAT_wtr_left r) wtr

/-- REF_MEASURE: every 10 ms. -/
def Hw.refMeasure (h : Hw) (refs : List RefSample) : Hw := ((refs.foldl Hw.refMeasure1 h).setQuality).clkDecide

/-- REF_LOST. -/
def Hw.refLost (h : Hw) (r : Nat) : Hw :=
  if h.refState r = 0 then h else (h.refFail r 1).clkDecide

/-- REF_WTR_EXPIRE. -/
def Hw.refWtrExpire (h : Hw) (r : Nat) : Hw :=
  let x := h.refSt r
  match x.wtr with
  | none => h
  | some t =>
    if h.refState r != 3 then h
    else
      let h := h.advanceTo (t + h.g (Reg.CLK_REF_WTR_wtr r) * 1000000000)
      let h := (h.setRef r { x with wtr := none }).setRefState r 4
      (h.p (Reg.CLK_REF_STAT_wtr_left r) 0).clkDecide

/-- REF_DWELL_END. -/
def Hw.refDwellEnd (h : Hw) : Hw := (h.advanceTo h.clk.dwell).clkDecide

/-- The rate of CLK_STEER within ±TIME_SLEW (R418). -/
def Hw.steer (h : Hw) : Hw :=
  if h.clkState = ckSteered then h.setRate (clampI (-h.slewLimit) h.slewLimit (sext 32 (h.g Reg.CLK_STEER_rate))) else h

/-- The loop is open: no reference is selected, and the servo stays in HOLDOVER at the rate of CLK_STEER (R418). -/
def Hw.clkSteer (h : Hw) : Hw :=
  let from' := h.selCode
  let h := if h.sel < 15 && h.refState h.sel = 5 then h.setRefState h.sel 4 else h
  let h := (h.p Reg.CLK_STAT_sel 15).setClk ckSteered
  let h := h.setServo svHoldover
  (h.steer).switchRecord from' 0xFE 5

/-- CLK_CTRL.en (R416, R421). -/
def Hw.clkEnable (h : Hw) (en : Bool) : Hw :=
  let was := h.b Reg.CLK_CTRL_en
  let h := h.p Reg.CLK_CTRL_en (b2n en)
  if en = was then h
  else if en then (if h.b Reg.CLK_CTRL_open then h.clkSteer else (h.clkHoldover 0).clkDecide)
  else
    let h := if h.sel < 15 && h.refState h.sel = 5 then h.setRefState h.sel 4 else h
    let h := (h.p Reg.CLK_STAT_sel 15).setClk ckFree
    h.setRate 0

/-- CLK_CTRL.open (R418). -/
def Hw.clkOpen (h : Hw) (o : Bool) : Hw :=
  let was := h.b Reg.CLK_CTRL_open
  let h := h.p Reg.CLK_CTRL_open (b2n o)
  if o = was || !h.b Reg.CLK_CTRL_en then h
  else if o then h.clkSteer
  else
    let c := h.clk
    let h : Hw := { h with clk := { c with dwell := h.t64, cause := 5 } }
    match h.bestCandidate with
    | some _ => h.clkDecide
    | none => h.clkHoldover 5

/-- CLK_CTRL.force_en and force_ref (R417). -/
def Hw.clkForce (h : Hw) (en : Bool) (r : Nat) : Hw :=
  ((h.p Reg.CLK_CTRL_force_en (b2n en)).p Reg.CLK_CTRL_force_ref r).clkDecide

/-- A write of CLK_CTRL takes its effect. -/
def Hw.clkCtrlNow (h : Hw) (w : Nat) : Hw :=
  let h := h.p Reg.CLK_CTRL_family (bitsOf w 1 1)
  let h := h.clkEnable (bitOf w 0)
  let h := h.clkOpen (bitOf w 2)
  h.clkForce (bitOf w 3) (bitsOf w 4 4)

/-- A write of CLK_CTRL (R414, R421): the reserved reference and a change of family while en is 1 are discarded;
during a switch it waits. -/
def Hw.clkCtrl (h : Hw) (w master : Nat) : Hw :=
  if bitsOf w 4 4 = 15 then h.valueErr 0x40100000 master
  else if h.b Reg.CLK_CTRL_en && bitsOf w 1 1 != h.g Reg.CLK_CTRL_family then h
  else if h.clk.sw.isSome then
    let c := h.clk
    { h with clk := { c with pend := some w } }
  else h.clkCtrlNow w

/-- A switch has ended without completing: a write of CLK_CTRL that waited for it takes effect (R414) (DEDUCED, log entry 33). -/
def Hw.clkWaiting (h : Hw) : Hw :=
  let c := h.clk
  match c.sw, c.pend with
  | none, some w => ({ h with clk := { c with pend := none } } : Hw).clkCtrlNow w
  | _, _ => h

/-- The word of CLK_CTRL as it stands. -/
def Hw.clkWord (h : Hw) : Nat :=
  h.g Reg.CLK_CTRL_en + h.g Reg.CLK_CTRL_family * 2 + h.g Reg.CLK_CTRL_open * 4 + h.g Reg.CLK_CTRL_force_en * 8
    + h.g Reg.CLK_CTRL_force_ref * 16

/-- REF_SWITCH_COMPLETE: the first offset from the new reference reaches the servo (R414, step 3). -/
def Hw.switchComplete (h : Hw) (theta : Int) : Hw :=
  match h.clk.sw with
  | none => h
  | some s =>
    let h := (h.setRefState s.target 5).p Reg.CLK_STAT_sel s.target
    let h := h.setClk ckAcquiring
    let h := (h.p Reg.TIME_MEAS_FRAC_frac (lowBits 16 theta)).servoMeasure (lowBits 32 (asr theta 16))
    let h := if h.servo = svFree || h.servo = svHoldover then h.setServo svAcquire else h
    let h := (h.switchRecord s.from' s.target s.cause).s1 Reg.HOST_IRQ_STAT_ref
    let h := h.inc Reg.CLK_SW_CNT_count
    let c := h.clk
    let pend := c.pend
    let h : Hw := { h with clk := { c with sw := none, dwell := h.t64 + 100000000, pend := none } }
    let h := h.clkSync
    match pend with
    | some w => h.clkCtrlNow w
    | none => h

/-- HOLDOVER_LIMIT (R416). -/
def Hw.holdoverLimit (h : Hw) : Hw :=
  let m := h.g Reg.CLK_HOLD_CFG_max_min
  if h.clkState != ckHoldover || m = 0 then h
  else (h.advanceTo (h.clk.holdSince + m * 60000000000)).clkFree 4

/-- DPLL_UNLOCK and DPLL_LOCK (R408). -/
def Hw.dpllUnlock (h : Hw) : Hw := (h.s0 Reg.CLK_STAT_dpll_lock).raiseU 0x68

def Hw.dpllLock (h : Hw) : Hw := h.s1 Reg.CLK_STAT_dpll_lock

/-- A write of CLK_REF_CFG.en: a disabled reference leaves (R421). -/
def Hw.refEnable (h : Hw) (r : Nat) (en : Bool) : Hw :=
  let was := h.b (Reg.CLK_REF_CFG_en r)
  let h := h.p (Reg.CLK_REF_CFG_en r) (b2n en)
  let h := if inRange r 2 5 then h.fnSet 0x0A (r - 2) was en else h
  if en = was then h
  else
    let fresh : RefSt := { qualified := (h.refSt r).qualified }
    if en then (h.setRef r fresh).setRefState r 1
    else ((((h.refFail r 1).setRefState r 0).setRef r fresh).clkWaiting).clkDecide

end Sys2Proof.Machine
end

