-- ==== Sys2Proof/Machine/AmpOps.lean ====
section
/-! DEFINITION. The bridge, sill safe state, mute, the amplifier channels and envelope boost (R12–R14, R240,
R241, R422–R440). The rail model itself is in Machine/JoineryOps.lean. -/

namespace Sys2Proof.Machine

def Hw.ampSt (h : Hw) (c : Nat) : AmpSt := h.sill.amps.get {} c

def Hw.setAmp (h : Hw) (c : Nat) (a : AmpSt) : Hw := let s := h.sill; { h with sill := { s with amps := s.amps.put c a } }

def Hw.ampState (h : Hw) (c : Nat) : Nat := h.g (Reg.AMP_STAT_state c)

/-- Enter a step of R429 or R430 now. -/
def Hw.ampStep (h : Hw) (c : Nat) (st : AmpStep) (state : Nat) : Hw :=
  let a := h.ampSt c
  (h.setAmp c { a with step := st, t0 := h.t64 }).p (Reg.AMP_STAT_state c) state

/-- The gates of a channel go low and it rests. -/
def Hw.ampOff (h : Hw) (c state : Nat) : Hw :=
  let a := h.ampSt c
  (h.setAmp c { a with
    step := .off
    t0 := h.t64
    gates := false
    direct := false
    quick := false
    rise := none
    dac := 0 }).p (Reg.AMP_STAT_state c) state

/-! ### Boost (R430, R434) -/

/-- Twin service is on. -/
def Hw.twinEn (h : Hw) : Bool := h.b Reg.TWIN_CTRL_en

def Hw.groupOf (h : Hw) (c : Nat) : Nat := h.g (Reg.AMP_CFG_group c)

def Hw.groupChans (h : Hw) (g : Nat) : List Nat := (List.range 16).filter (fun c => h.groupOf c = g)

/-- The controller may run: enabled, scaled, not stopped or fenced, and some channel of its group has not ended; in twin
service only while the engine is selected, and from the start of the gate hold (R444, R452). -/
def Hw.boostMay (h : Hw) (g : Nat) : Bool :=
  h.b (Reg.BOOST_CTRL_en g) && h.b (Reg.BOOST_SCALE_vs_div g) && h.b (Reg.BOOST_SCALE_vin_div g)
    && !h.bit Reg.FAULT_FENCE_boost g && !h.sill.safe && h.b Reg.AMP_MASTER_EN_en && h.pins.ampOffN
    && (!h.twinEn || h.b Reg.TWIN_STAT_selected)
    && ((h.groupChans g).any (fun c => (h.ampSt c).gates) || h.twin.holdEnd.isSome)

/-- The controller's state: pass-through while the target lies below the measured input plus 1 V (R434). -/
def Hw.boostUpdate (h : Hw) (g : Nat) : Hw :=
  if !h.boostMay g then h.p (Reg.BOOST_STAT_state g) 0
  else if h.g (Reg.BOOST_STAT_state g) = 3 then h
  else h.p (Reg.BOOST_STAT_state g)
    (if h.sill.target.get 0 g < (h.g (Reg.BOOST_VMEAS_vin g) + 128) * 512 then 1 else 2)

/-! ### Start and stop (R429, R430) -/

/-- The band that the dealer computes for a channel (R426): the run of clear frequencies about f_idle, in units of
1/60 kHz, narrowed by 0.2%; no run gives the empty band 0–0 (DEDUCED, log entry 45). -/
def Hw.bandOf (h : Hw) (c : Nat) : Nat × Nat :=
  let f := 60 * h.g (Reg.AMP_OSC_f_idle c)
  let floor := 60 * h.g (Reg.AMP_OSC_f_floor c)
  let barred := (List.range 16).flatMap (fun i =>
    let x := h.g (Reg.AMP_CARRIER_freq i)
    let g := h.g (Reg.AMP_CARRIER_guard i)
    if h.b (Reg.AMP_CARRIER_en i) then [1, 2, 3, 4, 5].map (fun k => ((x - g) * 60 / k, (x + g) * 60 / k)) else [])
  if f < floor || 36000 < f || barred.any (fun (e : Nat × Nat) => e.1 ≤ f && f ≤ e.2) then (0, 0)
  else
    let lo := barred.foldl (fun m (e : Nat × Nat) => if e.2 < f then max m e.2 else m) floor
    let hi := barred.foldl (fun m (e : Nat × Nat) => if f < e.1 then min m e.1 else m) 36000
    (ceilDiv (lo * 1000) (60 * 998), hi * 1000 / (60 * 1002))

/-- The dealer writes a channel's band. -/
def Hw.bandWrite (h : Hw) (c : Nat) : Hw :=
  let (lo, hi) := h.bandOf c
  let h := (h.p (Reg.AMP_BAND_f_lo c) lo).p (Reg.AMP_BAND_f_hi c) hi
  let a := h.ampSt c
  h.setAmp c { a with bandDue := false }

/-- Carriers or oscillator settings have changed: the bands of channels that are off are computed now, the others at
their next start (R426, R427). -/
def Hw.bandsDue (h : Hw) : Hw :=
  (List.range 16).foldl (fun h c =>
    if h.ampState c = 0 then h.bandWrite c
    else
      let a := h.ampSt c
      h.setAmp c { a with bandDue := true }) h

/-- The channel's band is valid (R426). -/
def Hw.bandOk (h : Hw) (c : Nat) : Bool :=
  let lo := h.g (Reg.AMP_BAND_f_lo c)
  let hi := h.g (Reg.AMP_BAND_f_hi c)
  let f := h.g (Reg.AMP_OSC_f_idle c)
  decide (lo ≤ f) && decide (f ≤ hi) && decide (lo + 40 ≤ hi)

/-- Every start condition but the band (R429); in twin service a channel runs only while the engine is selected and
after the gate hold (R444, R452). -/
def Hw.mayStart (h : Hw) (c : Nat) : Bool :=
  h.b (Reg.AMP_CTRL_en c) && h.b Reg.AMP_MASTER_EN_en && h.pins.ampOffN && h.b Reg.SYS_STATE_bridge_up
    && !h.sill.safe && h.ampState c = 0 && h.b (Reg.AMP_CFG_vfs c) && !h.b (Reg.BOOST_STAT_therm_trip (h.groupOf c))
    && !h.bit Reg.FAULT_FENCE_boost (h.groupOf c)
    && (!h.twinEn || (h.b Reg.TWIN_STAT_selected && h.twin.holdEnd.isNone))

/-- Start the channel if it may start; a bad band is reported (R426). -/
def Hw.ampTry (h : Hw) (c : Nat) : Hw :=
  if !h.mayStart c then h
  else
  let h := if (h.ampSt c).bandDue then h.bandWrite c else h
  if h.bandOk c then
    let a := h.ampSt c
    (h.setAmp c { a with therm := false, retryAt := none }).ampStep c .prepared 1
  else (h.s1 (Reg.AMP_STAT_steer_bad c)).raise 0xE0 (Config.faultCode 0xE0 % 256) c

/-- Start every channel that may start. -/
def Hw.ampTryAll (h : Hw) : Hw := (List.range 16).foldl Hw.ampTry h

/-- A stop request (R430, R437): cancels a pending retry; before closed loop it goes straight to step 3. -/
def Hw.ampStop (h : Hw) (c : Nat) : Hw :=
  match (h.ampSt c).step with
  | .running | .fadeIn =>
    let a := h.ampSt c
    (h.setAmp c { a with fade := 0 }).ampStep c .fadeOut 4
  | .prepared | .hold | .zero =>
    let a := h.ampSt c
    (h.setAmp c { a with direct := true }).ampStep c .ending 4
  | .off =>
    if h.ampState c = 5 then
      let a := h.ampSt c
      (h.setAmp c { a with retryAt := none }).p (Reg.AMP_STAT_state c) 0
    else h
  | .fadeOut | .ending => h

def Hw.ampStopAll (h : Hw) : Hw := (List.range 16).foldl Hw.ampStop h

/-- AMP_START: at the first switching edge all four gates are released at 50% duty; that cycle is not limited. -/
def Hw.ampStart (h : Hw) (c : Nat) : Hw :=
  let h := h.ampTry c
  if (h.ampSt c).step = .prepared then
    let a := h.ampSt c
    (((h.setAmp c { a with gates := true }).ampStep c .hold 1).s0 (Reg.AMP_STAT_ilim_act c)).boostUpdate (h.groupOf c)
  else h

/-- The fade-in's length: 10 ms, 2 ms at a twin takeover (R452). -/
def AmpSt.fadeNs (a : AmpSt) : Nat := if a.quick then 2000000 else 10000000

/-- The fade-in in samples: a time T spans round(T × fs) (R549). -/
def AmpSt.fadeLen (a : AmpSt) (fs : Nat) : Nat := (a.fadeNs * fs + 500000000) / 1000000000

/-- AMP_OPEN_LOOP_HOLD_END: 2 ms after the gates were released; 0.5 ms at a twin takeover. -/
def Hw.ampHoldEnd (h : Hw) (c : Nat) : Hw :=
  let a := h.ampSt c
  if a.step = .hold then (h.advanceTo (a.t0 + if a.quick then 500000 else 2000000)).ampStep c .zero 1 else h

/-- AMP_CLOSE_LOOP: the comparator, or open-loop modulation, takes control and the fade-in begins. -/
def Hw.ampCloseLoop (h : Hw) (c : Nat) : Hw :=
  let a := h.ampSt c
  if a.step = .zero then (h.setAmp c { a with rise := some 0 }).ampStep c .fadeIn 1 else h

/-- AMP_FADE_IN_END: the channel runs, and is no longer fenced (R482). -/
def Hw.ampFadeInEnd (h : Hw) (c : Nat) : Hw :=
  let a := h.ampSt c
  if a.step = .fadeIn then
    (((h.setAmp c { a with rise := none }).advanceTo (a.t0 + a.fadeNs)).ampStep c .running
      (if h.b (Reg.AMP_CTRL_mode c) then 3 else 2)).setBit Reg.FAULT_FENCE_amp c false
  else h

/-- AMP_STOP_FADE_END: 1 ms after the stop began. -/
def Hw.ampStopFadeEnd (h : Hw) (c : Nat) : Hw :=
  let a := h.ampSt c
  if a.step = .fadeOut then (h.advanceTo (a.t0 + 1000000)).ampStep c .ending 4 else h

/-- AMP_GATES_OFF: 0.2 ms after the bridge was handed over, or at the next switching edge of a stop during the start; the boost stops with the last channel of the group; an
enable written meanwhile is acted on. -/
def Hw.ampGatesOff (h : Hw) (c : Nat) : Hw :=
  let a := h.ampSt c
  if a.step = .ending then
    let h := (h.advanceTo (if a.gates && !a.direct then a.t0 + 200000 else a.t0)).ampOff c 0
    (h.boostUpdate (h.groupOf c)).ampTry c
  else h

/-- AMP_UNLATCH: the latch and the trip history are cleared (R437). -/
def Hw.ampUnlatch (h : Hw) (c : Nat) : Hw :=
  let a := h.ampSt c
  let h := (h.setAmp c { a with trips := [] }).setBit Reg.FAULT_FENCE_amp c false
  let h := if h.b (Reg.AMP_STAT_latched c) then (h.s0 (Reg.AMP_STAT_latched c)).p (Reg.AMP_STAT_state c) 0 else h
  h.ampTry c

/-- AMP_CHANNEL_ENABLE: a write of AMP_CTRL (R428–R430, R437, R439). Of a write while the channel is not off, the mode alone is
discarded, so that a stop is never lost (DEDUCED, log entry 43). -/
def Hw.ampCtrl (h : Hw) (c w : Nat) : Hw :=
  let h := if h.ampState c = 0 then h.p (Reg.AMP_CTRL_mode c) (bitsOf w 1 1)
    else if bitOf w 1 != h.b (Reg.AMP_CTRL_mode c) then h.s1 (Reg.AMP_STAT_live_wr c)
    else h
  let h := h.p (Reg.AMP_CTRL_retry_en c) (bitsOf w 3 1)
  let h := h.p (Reg.AMP_CTRL_en c) (bitsOf w 0 1)
  let h := if bitOf w 2 then h.ampUnlatch c else h
  if bitOf w 0 then h.ampTry c else h.ampStop c

/-- A write of AMP_MASTER_EN.en (R241); hardware holds it at 0 while AMP_OFF_N is low (R239)
(DEDUCED, log entry 43). -/
def Hw.ampMaster (h : Hw) (w : Nat) : Hw :=
  let en := bitOf w 0 && h.pins.ampOffN
  let h := h.p Reg.AMP_MASTER_EN_en (b2n en)
  if en then h.ampTryAll else h.ampStopAll

/-- AMP_OFF_N_EDGE (R239, R241). -/
def Hw.ampOffN (h : Hw) (level : Bool) : Hw :=
  let p := h.pins
  let h : Hw := { h with pins := { p with ampOffN := level } }
  if level then h.ampTryAll else (h.s0 Reg.AMP_MASTER_EN_en).ampStopAll

/-! ### Protection (R435–R437) -/

/-- A trip: the gates go low at once; the fourth within 10 s, the first without retry, and a DC trip latch. -/
def Hw.ampTrip (h : Hw) (c cause : Nat) (latch : Bool) : Hw :=
  if (h.ampSt c).step = .off then h
  else
    let a := h.ampSt c
    let trips := (a.trips.filter (fun t => h.t64 ≤ t + 10000000000)) ++ [h.t64]
    let lat := latch || !h.b (Reg.AMP_CTRL_retry_en c) || decide (trips.length ≥ 4)
    let h := (h.setAmp c { a with trips := trips, retryAt := if lat then none else some (h.t64 + 250000000) }).ampOff c
      (if lat then 6 else 5)
    let h := ((h.s1 (Reg.AMP_STAT_tripped c)).p (Reg.AMP_STAT_cause c) cause).inc (Reg.AMP_TRIP_CNT_count c)
    let h := if cause = 1 then h.s1 (Reg.AMP_STAT_ilim_act c) else h
    let h := (h.boostUpdate (h.groupOf c)).raiseU (0xC0 + c)
    if lat then (h.s1 (Reg.AMP_STAT_latched c)).raiseU (0xD0 + c) else h

/-- AMP_DC_TRIP: with its detector active. -/
def Hw.ampDcTrip (h : Hw) (c : Nat) : Hw := if h.b (Reg.AMP_PROT_dc_en c) then h.ampTrip c 3 true else h

/-- AMP_RETRY: 250 ms after the trip. -/
def Hw.ampRetry (h : Hw) (c : Nat) : Hw :=
  match (h.ampSt c).retryAt with
  | none => h
  | some t =>
    if h.ampState c != 5 then h
    else
      let h := h.advanceTo t
      let a := h.ampSt c
      ((h.setAmp c { a with retryAt := none }).p (Reg.AMP_STAT_state c) 0).ampTry c

/-- BOOST_OVP: the clamp holds both gates low. -/
def Hw.boostOvp (h : Hw) (g : Nat) : Hw :=
  let h := if h.boostMay g then h.p (Reg.BOOST_STAT_state g) 3 else h
  (h.s1 (Reg.BOOST_STAT_ovp g)).raiseU (0xE4 + g)

/-- BOOST_OVP_RELEASE. -/
def Hw.boostOvpEnd (h : Hw) (g : Nat) : Hw :=
  if h.g (Reg.BOOST_STAT_state g) = 3 then (h.p (Reg.BOOST_STAT_state g) 1).boostUpdate g else h

/-- BOOST_TRACK. -/
def Hw.boostTrack (h : Hw) (g : Nat) : Hw := (h.s1 (Reg.BOOST_STAT_track g)).raiseU (0xE8 + g)

/-- BOOST_THERM_WARN: the rail model clamps D by fold from the next tick on. -/
def Hw.thermWarn (h : Hw) (g : Nat) : Hw := (h.s1 (Reg.BOOST_STAT_therm_warn g)).raiseU (0xEC + g)

/-- BOOST_THERM_TRIP: the group's channels stop, cause 4; no trip is counted. -/
def Hw.thermTrip (h : Hw) (g : Nat) : Hw :=
  let h := (h.s1 (Reg.BOOST_STAT_therm_trip g)).raiseU (0xF0 + g)
  (h.groupChans g).foldl (fun h c =>
    if (h.ampSt c).step = .off then h
    else
      let a := h.ampSt c
      ((h.setAmp c { a with therm := true }).p (Reg.AMP_STAT_cause c) 4).ampStop c) h

/-- BOOST_THERM_CLEAR: 5 °C below warn. -/
def Hw.thermClear (h : Hw) (g : Nat) : Hw :=
  let h := (h.s0 (Reg.BOOST_STAT_therm_warn g)).s0 (Reg.BOOST_STAT_therm_trip g)
  (h.groupChans g).foldl (fun h c => if (h.ampSt c).therm then h.ampTry c else h) h

/-! ### The DAC input (R422, R424, R429, R430) -/

/-- The fades of a start and of a stop at sample positions of their own, on an H32 sample: a stop during the fade-in goes
on from where that stands (R429, R430, R549) (DEDUCED, log entry 62). -/
def AmpSt.faded (a : AmpSt) (fs : Nat) (y : Int) : Int :=
  let up := match a.rise with
    | some k => scale24 y (fadeIn (a.fadeLen fs) k)
    | none => y
  match a.step with
  | .running | .fadeIn => up
  | .fadeOut => scale24 up (fadeOut (muteF fs) a.fade)
  | _ => 0

/-- A channel's sample reaches the DAC: mute and the fades act on the H32 sample, then L24 with saturation (R422, R549). -/
def Hw.ampSample (h : Hw) (c : Nat) (x : Int) : Hw :=
  let a := h.ampSt c
  let (ys, m) := a.mute.apply h.fs [x]
  let z := a.faded h.fs (nthI ys 0)
  let word := fromH32 2 z
  let h := if word != asr (z + 16) 5 then (h.s1 (Reg.AMP_STAT_dac_clip c)).raise 0xE1 (Config.faultCode 0xE1 % 256) c else h
  h.setAmp c { a with
    mute := m
    dac := if h.sill.safe then 0 else word
    rise := a.rise.map (· + 1)
    fade := if a.step = .fadeOut then a.fade + 1 else a.fade }

/-- Mute acts at the DAC input through the sideband, whatever the flit link does (R14): once the fade's F sample periods
have passed the DAC holds zero, though no sample arrived (DEDUCED, log entry 62). -/
def Hw.muteDue (h : Hw) : Hw :=
  let s := h.sill
  let far := fun (a : AmpSt) => decide (a.muteAt + ceilDiv (muteF h.fs * 1000000000) h.fs ≤ h.t64)
  { h with sill := { s with amps := s.amps.map (fun (e : Nat × AmpSt) =>
      (e.1, if e.2.mute.muting && far e.2 then
        { e.2 with dac := 0, mute := { e.2.mute with pos := max e.2.mute.pos (muteF h.fs) } } else e.2)) } }

/-- Mute comes into force or ends, at every kitty and every DAC input (R240). -/
def Hw.muteAll (h : Hw) : Hw :=
  let h := h.muteKitties
  let on := h.sinksOff
  (List.range 16).foldl (fun h c => 
    let a := h.ampSt c
    h.setAmp c { a with
      mute := a.mute.set on
      muteAt := if on && !a.mute.muting then h.t64 else a.muteAt }) h

/-- The tick after mute ended, at every kitty and DAC input. -/
def Hw.muteTick (h : Hw) : Hw :=
  let s := h.sill
  { h with
    kout := h.kout.map (fun (e : Nat × OutKitty) => (e.1, { e.2 with mute := e.2.mute.tick }))
    sill := { s with amps := s.amps.map (fun (e : Nat × AmpSt) => (e.1, { e.2 with mute := e.2.mute.tick })) } }

/-- HOST_MUTE: a write of HOST_MUTE.mute. -/
def Hw.hostMute (h : Hw) (w : Nat) : Hw := (h.p Reg.HOST_MUTE_mute (bitsOf w 0 1)).muteAll

/-- MUTE_N_EDGE. -/
def Hw.muteN (h : Hw) (level : Bool) : Hw :=
  let p := h.pins
  ({ h with pins := { p with muteN := level } } : Hw).muteAll

/-! ### The bridge (R12, R13) -/

/-- The flit travels from the sill die to the engine die. -/
def flitFromSill : Flit → Bool
  | .senseAmp _ _ _ | .senseBoost _ _ _ => true
  | _ => false

/-- The engine declares the bridge down. -/
def Hw.bridgeFail (h : Hw) : Hw := (h.s0 Reg.SYS_STATE_bridge_up).raiseU 0x40

/-- BRIDGE_DOWN: three attempts on one flit have failed, or the sill die is in reset (R12, R487). -/
def Hw.bridgeDown (h : Hw) : Hw :=
  let s := h.sill
  if h.b Reg.SYS_STATE_bridge_up && (s.held || decide (3 ≤ s.retries) || decide (3 ≤ s.retriesIn)) then h.bridgeFail else h

/-- An attempt on a flit fails: it is retried, and the third failure in succession declares the bridge down (R12). -/
def Hw.flitFail (h : Hw) (f : Flit) : Hw :=
  let s := h.sill
  let h : Hw := { h with sill := { s with
    retries := if flitFromSill f then s.retries else s.retries + 1
    retriesIn := if flitFromSill f then s.retriesIn + 1 else s.retriesIn
    cleanFrom := none } }
  (h.raiseU 0x41).bridgeDown

/-- FLIT_RECEIVE: a flit whose CRC fails is retried; a good one delivers what it carries. A flit to the sill die keeps it
out of sill safe state; a sill die in reset takes none (R13, R487). The bridge runs from the first valid flit on: bridge_up
(DEDUCED, log entry 63). -/
def Hw.flitReceive (h : Hw) (crcOk : Bool) (f : Flit) : Hw :=
  let s := h.sill
  if s.held && flitFromSill f then h
  else if !crcOk || s.held then h.flitFail f
  else
    let h : Hw := { h with sill := { s with
      retries := if flitFromSill f then s.retries else 0
      retriesIn := if flitFromSill f then 0 else s.retriesIn
      lastFlit := if flitFromSill f then s.lastFlit else h.t64
      cleanFrom := some (s.cleanFrom.getD h.t64) } }
    let h := h.s1 Reg.SYS_STATE_bridge_up
    match f with
    | .keepAlive | .register => h
    | .sample c x => h.ampSample c.val (wordToInt x)
    | .boostTarget g vc =>
      let s := h.sill
      ({ h with sill := { s with target := s.target.put g.val vc } } : Hw).boostUpdate g.val
    | .senseAmp c ipk dc => (h.p (Reg.AMP_MEAS_i_pk c.val) ipk).p (Reg.AMP_MEAS_dc c.val) dc.toNat
    | .senseBoost g rail vin => ((h.p (Reg.BOOST_VMEAS_rail g.val) rail).p (Reg.BOOST_VMEAS_vin g.val) vin).boostUpdate g.val

/-- KEEP_ALIVE_FLIT: sent 1 µs after the last at the latest, whether or not the bridge answers (R13). -/
def Hw.keepAlive (h : Hw) : Hw :=
  let h := h.advanceTo (h.sill.lastKeep + 1000)
  let s := h.sill
  ({ h with sill := { s with lastKeep := h.t64 } } : Hw).send (.flit 0 [])

/-- All gate outputs low and the DACs at zero; trip counts and latches stay (R13, R431). -/
def Hw.sillSafe (h : Hw) : Hw :=
  let s := h.sill
  let h : Hw := { h with sill := { s with safe := true, cleanFrom := none } }
  let h := (List.range 16).foldl (fun h c => h.ampOff c (if h.ampState c ≥ 5 then h.ampState c else 0)) h
  (List.range 4).foldl Hw.boostUpdate h

/-- SILL_SAFE_STATE: 8 µs without a valid flit. -/
def Hw.sillSafeState (h : Hw) : Hw := (h.advanceTo (h.sill.lastFlit + 8000)).sillSafe

/-- SILL_SAFE_EXIT: once the bridge has run for 1 ms without errors, the sill die leaves sill safe state and the dealer
restarts the channels (R13, R431). -/
def Hw.sillSafeExit (h : Hw) : Hw :=
  let s := h.sill
  match s.cleanFrom with
  | some t =>
    if !s.safe || s.held || !h.b Reg.SYS_STATE_bridge_up then h
    else
      let h := h.advanceTo (t + 1000000)
      ({ h with sill := { h.sill with safe := false } } : Hw).ampTryAll
  | none => h

/-- A block released to an amplifier sink leaves over the bridge, one sample per period (R422). -/
def Hw.ampRelease (h : Hw) (kid : Nat) : Hw :=
  match h.outK kid with
  | none => h
  | some k =>
    match k.cfg.sink with
    | .amp c0 => k.sent.zipIdx.foldl (fun h e => h.send (.flit (16 + c0.val + e.2) (e.1.flatMap (fun x => leBytes 4 (lowBits 32 x))))) h
    | _ => h

end Sys2Proof.Machine
end

