-- ==== Sys2Proof/Machine/TwinOps.lean ====
section
/-! DEFINITION. Twin operation (R441–R459): pins and selection, beats and comparison, resynchronisation,
takeover and switch. -/

namespace Sys2Proof.Machine

def Hw.position (h : Hw) : Nat := h.g Reg.TWIN_STAT_position

def twActive : Nat := 1
def twStandby : Nat := 2

def Hw.seat (h : Hw) : Nat := h.g Reg.TWIN_STAT_seat

def Hw.peerClaims (h : Hw) : Bool := h.pins.peerAct && h.pins.peerHealth

def Hw.claims (h : Hw) : Bool := h.pins.twinAct && h.pins.health

/-- The block period in ns. -/
def Hw.blockNs (h : Hw) : Nat := ceilDiv (h.bs * 1000000000) h.fs

/-- The selector passes this engine (R443, R444). -/
def Hw.selects (h : Hw) : Bool :=
  let claim := fun s => if s = h.seat then h.claims else h.peerClaims
  let health := fun s => if s = h.seat then h.pins.health else h.pins.peerHealth
  if claim 0 then h.seat = 0
  else if claim 1 then h.seat = 1
  else if health 0 then h.seat = 0
  else if health 1 then h.seat = 1
  else false

/-- Evaluate selection: an engine that is no longer selected drives its amplifier and boost gates low at once; one
that becomes selected while its deal runs and AMP_MASTER_EN.en is 1 begins the gate hold (R444, R452). -/
def Hw.reselect (h : Hw) : Hw :=
  if !h.twinEn then h.s0 Reg.TWIN_STAT_selected
  else
    let was := h.b Reg.TWIN_STAT_selected
    let now := h.selects
    let h := (h.p Reg.TWIN_STAT_selected (b2n now)).p Reg.TWIN_STAT_peer_claim (b2n h.peerClaims)
    let w := h.twin
    if was = now then h
    else if now then
      if h.deal.running && h.b Reg.AMP_MASTER_EN_en then
        let h : Hw := { h with twin := { w with holdEnd := some (h.t64 + h.blockNs) } }
        (List.range 4).foldl Hw.boostUpdate h
      else h
    else
      let h : Hw := { h with twin := { w with holdEnd := none } }
      let h := (List.range 16).foldl (fun h c => h.ampOff c (if h.ampState c ≥ 5 then h.ampState c else 0)) h
      (List.range 4).foldl Hw.boostUpdate h

/-- Change position: pins, registers, the role epoch and its record (R453, R454, R457). -/
def Hw.setPosition (h : Hw) (pos : Nat) (act : Bool) : Hw :=
  let p := h.pins
  let h : Hw := { h with pins := { p with twinAct := act } }
  let h := (h.p Reg.TWIN_STAT_position pos).p Reg.GNOGO_ROLE_twin pos
  let t := h.table
  (({ h with table := { t with epoch := (t.epoch + 1) % 4294967296 } } : Hw).traceRole).s1 Reg.HOST_IRQ_STAT_role

/-- A new manager knows the engines of its table by the lists they flood; their serials stay open (R364, R458; DESIGN CHOICE, log
entry 64). -/
def Hw.adoptTable (h : Hw) : Hw :=
  let t := h.table
  let ids := (t.topo.map (·.1)).filter (fun e => e / 32 = h.ownId / 32 && e != h.ownId)
  if h.isManager && t.members.isEmpty then h.setMembers (ids.map (fun e => { engine := e, serial := [] })) else h

/-- The two engines of a manager pair exchange engine IDs, and each floods TOPO (R458). -/
def Hw.exchangeIds (h : Hw) (toActive : Bool) : Hw :=
  let own := h.ownId
  let peer := h.g (Reg.GNOGO_LINK_STAT_peer 4)
  if h.b (Reg.GNOGO_LINK_STAT_peer_valid 4) && (if toActive then peer % 32 = 0 else own % 32 = 0) then
    let h := (h.p Reg.GNOGO_ROLE_engine_id peer).p (Reg.GNOGO_LINK_STAT_peer 4) own
    (((h.p Reg.GNOGO_ROLE_role (if toActive then 2 else 1)).adoptTable).makeRoutes).topoSend
  else h

/-- A message to the twin peer on link 4 (R447). -/
def Hw.twinSend (h : Hw) (mtype : Nat) (body : List Byte) : Hw :=
  let h := h.nextCtr
  (h.send (.ctrl (h.g (Reg.GNOGO_LINK_STAT_peer 4)) mtype body)).linkQueue 4 0 2
    (h.ctrlBody (h.g (Reg.GNOGO_LINK_STAT_peer 4)) 7 mtype body)

/-- The standby takes over (R453). -/
def Hw.takeover (h : Hw) : Hw :=
  let h := h.setPosition twActive true
  let h := h.exchangeIds true
  let h := ((h.s1 Reg.TWIN_STAT_takeover).add (Reg.TWIN_CNT_count 4) 1).raiseU 0xFA
  let w := h.twin
  ({ h with twin := { w with yielded := false, sendB := false, startB := none } } : Hw).reselect

/-- Take over when the conditions of R453 hold: no beat for 2 block periods or a yield, and no claiming peer. -/
def Hw.tryTakeover (h : Hw) : Hw :=
  if h.twinEn && h.position = twStandby && (!h.b Reg.TWIN_STAT_beat_ok || h.twin.yielded) && !h.peerClaims then h.takeover
  else h

/-- Both claim: the engine in seat 1 drops TWIN_ACT (R454). -/
def Hw.contend (h : Hw) : Hw :=
  if h.twinEn && h.claims && h.peerClaims && h.seat = 1 then
    ((h.setPosition twStandby false).s1 Reg.TWIN_STAT_contend).raiseU 0xFB
  else h

/-- TWIN_PEER_PIN. -/
def Hw.peerPin (h : Hw) (act health : Bool) : Hw :=
  let p := h.pins
  let h : Hw := { h with pins := { p with peerAct := act, peerHealth := health } }
  let h := h.p Reg.TWIN_STAT_peer_claim (b2n (act && health))
  h.contend.reselect.tryTakeover

/-- The HEALTH conditions of R442 but for the release deadline, which HEALTH_FALL and a release stand for. -/
def Hw.fit (h : Hw) : Bool :=
  (h.sysState = 2 || h.sysState = 3) && h.b Reg.SYS_STATE_bridge_up && h.flt.severe.isEmpty

/-- HEALTH falls. -/
def Hw.healthFall (h : Hw) : Hw :=
  let p := h.pins
  ({ h with pins := { p with health := false } } : Hw).reselect

/-- HEALTH_FALL: a condition of R442 fails; where no other has, none of the engine's kitties has completed a release
within the last block period plus 10 µs. -/
def Hw.healthLost (h : Hw) : Hw :=
  if !h.fit then h.healthFall else (h.advanceTo (h.twin.lastRelease + h.blockNs + 10000)).healthFall

/-- HEALTH follows its conditions; a completed release lets it rise. -/
def Hw.healthCheck (h : Hw) (released : Bool) : Hw :=
  let w := h.twin
  let h : Hw := if released then { h with twin := { w with lastRelease := h.t64 } } else h
  if !h.fit then (if h.pins.health then h.healthFall else h)
  else if released && !h.pins.health then
    let p := h.pins
    (({ h with pins := { p with health := true } } : Hw).contend).reselect
  else h

/-- TWIN_CLAIM: 10 ms in seat 0, 50 ms in seat 1 after the deal runs, unless the peer claims by then. -/
def Hw.twinClaim (h : Hw) : Hw :=
  if h.twinEn && h.position != twActive && h.deal.running && h.pins.health && !h.peerClaims then
    let h := h.advanceTo (h.deal.since + (if h.seat = 0 then 10000000 else 50000000))
    ((h.setPosition twActive true).exchangeIds true).reselect
  else h

/-- TWIN_GATE_HOLD_END: the enabled channels start with the times of R452. -/
def Hw.gateHoldEnd (h : Hw) : Hw :=
  match h.twin.holdEnd with
  | none => h
  | some t =>
    let h := h.advanceTo t
    let w := h.twin
    let h : Hw := { h with twin := { w with holdEnd := none } }
    let h := h.ampTryAll
    (List.range 16).foldl (fun h c =>
      let a := h.ampSt c
      if a.step = .prepared then h.setAmp c { a with quick := true } else h) h

/-! ### Comparison (R448–R451) -/

/-- The hashed output kitties in ascending number. -/
def Hw.hashed (h : Hw) : List Nat := (h.kout.filter (fun (e : Nat × OutKitty) => e.2.cfg.hashed)).map (·.1)

/-- Tasks whose modules reach an output kitty. -/
def Hw.reaches (h : Hw) (kid : Nat) : List TaskCfg := h.deal.tasks.filter (fun t => t.outKitties.contains kid)

/-- The resynchronisation of modules begins: an excuse window on every kitty that they reach, of at most 50 ms, and the
standby's requests for their state (R450). -/
def Hw.resyncModules (h : Hw) (mods : List TaskCfg) (kits : List Nat) : Hw :=
  let w := h.twin
  let exc := (kits ++ mods.flatMap (·.outKitties)).dedup.foldl (fun (e : Tab Nat) k => e.put k (h.t64 + 50000000)) w.excuse
  let h : Hw := { h with twin := { w with excuse := exc } }
  if h.position = twStandby then
    ((mods.map (·.recId)).dedup).foldl (fun h i => h.twinSend 0x65 (beBytes 4 i ++ beBytes 4 0 ++ beBytes 4 0)) h
  else h

/-- A compare event on a kitty at a tick (R449–R451). -/
def Hw.compareEvent (h : Hw) (kid tick : Nat) : Hw :=
  let w := h.twin
  let ev := (w.events.filter (fun t => h.t64 ≤ t + 60000000000)) ++ [h.t64]
  let mods := h.reaches kid
  let h : Hw := { h with twin := { w with events := ev } }
  let h := ((h.p Reg.TWIN_MIS_kitty kid).p Reg.TWIN_MIS_T64_LO_t64 (tick % 2 ^ 32)).p Reg.TWIN_MIS_T64_HI_t64 (tick / 2 ^ 32)
  let h := ((h.s0 Reg.TWIN_STAT_synced).s1 Reg.TWIN_STAT_mismatch).raiseU 0xF8
  let h := h.resyncModules mods [kid]
  if ev.length ≥ 3 then
    let w := h.twin
    let cores := (mods.map (fun m => m.core.val)).dedup
    let mask := (cores.map (fun n => 2 ^ n + 2 ^ (16 + n))).sum + 2 ^ 10
    let sb := h.position = twStandby
    let h := ({ h with twin := { w with events := [], diverged := if sb then mask else 0 } } : Hw).raiseU 0xF9
    if sb then h.s0 Reg.TWIN_CTRL_in_service else h
  else h

/-- Compare one kitty's block (R449). -/
def Hw.compare1 (h : Hw) (tick : Nat) (own : TwinHash) (hash : Word) (flag : Bool) : Hw :=
  let w := h.twin
  let inWindow := match w.excuse.find? own.kitty with
    | some t => h.t64 ≤ t
    | none => false
  if own.excused || flag || inWindow then h.add (Reg.TWIN_CNT_count 2) 1
  else
    let h := h.add (Reg.TWIN_CNT_count 0) 1
    if own.hash = hash.toNat then { h with twin := { w with runs := w.runs.del own.kitty } }
    else
      let h := h.add (Reg.TWIN_CNT_count 1) 1
      let run := w.runs.get 0 own.kitty + 1
      if run ≥ h.g Reg.TWIN_CFG_mis_n_m1 + 1 then
        ({ h with twin := { w with runs := w.runs.del own.kitty } } : Hw).compareEvent own.kitty tick
      else { h with twin := { w with runs := w.runs.put own.kitty run } }

/-- The own epochs for which the peer's beat has not come within 2 block periods of the last release are counted as
missing and not compared (R449) (DEDUCED, log entry 64). -/
def Hw.twinMissing (h : Hw) : Hw :=
  let w := h.twin
  let late := fun (tick : Nat) => match w.ownAt.find? tick with
    | some t => decide (t + 2 * h.blockNs < h.t64)
    | none => false
  let gone := w.own.filter (fun e => late e.1)
  let h : Hw := { h with twin := { w with
    own := w.own.filter (fun e => !late e.1)
    ownAt := w.ownAt.filter (fun e => !late e.1) } }
  gone.foldl (fun h e => h.add (Reg.TWIN_CNT_count 3) e.2.length) h

/-- Compare the two engines' blocks of a tick when both are known. -/
def Hw.compareTick (h : Hw) (tick : Nat) : Hw :=
  let h := h.twinMissing
  let w := h.twin
  match w.beats.find? tick, w.own.find? tick with
  | some b, some own =>
    if own.length != h.hashed.length then h
    else
      let h : Hw := { h with twin := { w with beats := w.beats.del tick, own := w.own.del tick, ownAt := w.ownAt.del tick } }
      own.zipIdx.foldl (fun h e => h.compare1 tick e.1 (b.hashes.getD e.2 0) (b.concealed.getD e.2 false)) h
  | _, _ => h

/-- The standby is in service (R445). -/
def Hw.inService (h : Hw) : Bool :=
  h.position = twStandby && h.pins.health && h.b Reg.TWIN_CTRL_in_service && (match h.twin.peer with
    | some b => b.deal = h.deal.number && b.digest = h.deal.digest
    | none => false)

/-- TWIN_BEAT's body (R447). -/
def Hw.beatBody (h : Hw) (tick : Nat) (hs : List TwinHash) : List Byte :=
  beBytes 8 tick ++ beBytes 4 h.deal.number
    ++ beBytes 4 (b2n (h.position = twActive) + 2 * b2n h.inService + 4 * b2n (h.b Reg.TWIN_STAT_selected) + 8 * b2n (h.b Reg.TWIN_STAT_synced))
    ++ beBytes 8 (if h.position = twStandby then h.twin.startB.getD 0 else 0) ++ beBytes 2 hs.length ++ beBytes 2 0 ++ hs.flatMap (fun x => beBytes 4 x.hash)
    ++ ((List.range ((hs.length + 31) / 32)).flatMap (fun w => beBytes 4 ((List.range 32).foldl (fun v j =>
        v + b2n (match hs[32 * w + j]? with
          | some x => x.excused
          | none => false) * 2 ^ j) 0)))

/-- A hashed kitty has released the block of N(P) n: hash it, and when the epoch's last one is done, send the beat and
compare (R448). -/
def Hw.hashRelease (h : Hw) (kid : Nat) : Hw :=
  match h.outK kid with
  | none => h
  | some k =>
    match k.lastN with
    | none => h
    | some n =>
      if !h.twinEn || !k.cfg.hashed then h
      else
        let w := h.twin
        let slot := List.find? (fun (e : Nat × OutSlot) => e.2.n = n) k.slots
        let lead := match slot with
          | some e => n - e.2.epoch
          | none => w.lead
        let tick := h.instant (n - lead)
        let fmt := match k.cfg.sink with
          | .amp _ => 4
          | _ => k.cfg.fmt
        let x : TwinHash := ⟨kid, crc32c (interleave fmt k.cfg.chans h.bs k.sent), k.sentConcealed || k.mute.muting⟩
        let own := (w.own.get [] tick).filter (fun y => y.kitty != kid)
        let all := (own ++ [x]).mergeSort (fun a b => a.kitty ≤ b.kitty)
        let h : Hw := { h with twin := { w with own := w.own.put tick all, lead := lead } }
        if all.length = h.hashed.length then
          let w := h.twin
          let h : Hw := { h with twin := { w with ownAt := w.ownAt.put tick h.t64 } }
          (h.twinSend 0x60 (h.beatBody tick all)).compareTick tick
        else h

/-- 2 block periods have passed without a beat. -/
def Hw.beatLost (h : Hw) : Hw :=
  let w := h.twin
  let h := ({ h with twin := { w with sendB := false } } : Hw).s0 Reg.TWIN_STAT_beat_ok
  h.twinMissing.tryTakeover

/-- TWIN_BEAT. One stamped later than the last beat's 2 block periods meets an engine that has acted on its absence; in the
deadline's own cycle it is on time (R7, R453). -/
def Hw.twinBeat (h : Hw) (c : Ctrl) (b : Beat) : Hw :=
  let (h, ok) := h.ctrlAccept c 0x60 (beBytes 8 b.tick)
  if !ok || !h.twinEn then h
  else
    let h := if h.b Reg.TWIN_STAT_beat_ok && h.twin.lastBeat + 2 * h.blockNs < h.t64 then h.beatLost else h
    let w := h.twin
    let h := ({ h with twin := { w with
      lastBeat := h.t64
      lastServed := if b.inService then h.t64 else w.lastServed
      peer := some b
      startB := if h.position = twActive && b.startB != 0 then some b.startB else w.startB } } : Hw).s1 Reg.TWIN_STAT_beat_ok
    if b.deal != h.deal.number then h.add (Reg.TWIN_CNT_count 3) b.hashes.length
    else
      let w := h.twin
      ({ h with twin := { w with beats := w.beats.put b.tick b } } : Hw).compareTick b.tick

/-- TWIN_BEAT_TIMEOUT: 2 block periods without a beat. -/
def Hw.twinBeatTimeout (h : Hw) : Hw :=
  if !h.twinEn then h
  else
    (h.advanceTo (h.twin.lastBeat + 2 * h.blockNs)).beatLost

/-- At a block tick: solo (R446), port B, and state received for this tick (R450). A standby that comes into service names
the next tick as the one at which it starts on port B; one that leaves it goes on until its active is solo, 2 block periods and
a tick later, or no beat comes (DEDUCED, log entry 64). `n` is the tick's sample index. -/
def Hw.twinTick (h : Hw) (n : Nat) : Hw :=
  if !h.twinEn then h
  else
    let w := h.twin
    let h := if h.position = twActive then
        if h.t64 ≥ w.lastServed + 2 * h.blockNs then h.s1 Reg.TWIN_STAT_solo
        else match w.startB with
          | some t => if t ≤ h.t64 then h.s0 Reg.TWIN_STAT_solo else h
          | none => h
      else h.s0 Reg.TWIN_STAT_solo
    let w := h.twin
    let serves := h.inService && h.b Reg.TWIN_STAT_beat_ok
    let servedAt := if serves then h.t64 else w.servedAt
    let keeps := serves || (h.b Reg.TWIN_STAT_beat_ok && decide (h.t64 ≤ servedAt + 3 * h.blockNs))
    let h : Hw := if h.position = twActive then h
      else { h with twin := { w with
        servedAt := servedAt
        sendB := keeps && (match w.startB with
          | some t => decide (t ≤ h.t64)
          | none => false)
        startB := if serves then some (w.startB.getD (h.instant (n + h.bs))) else if keeps then w.startB else none } }
    let w := h.twin
    if w.sync.isEmpty then h
    else
      let m := h.mods
      let gen := w.sync.foldl (fun (g : Tab Nat) e =>
        e.2.2.zipIdx.foldl (fun (g : Tab Nat) b => g.put (e.1 * 2 ^ 32 + e.2.1 + b.2) b.1.toNat) g) m.gen
      let recs := (w.sync.map (·.1)).dedup
      let kits := (h.deal.tasks.filter (fun t => recs.contains t.recId)).flatMap (·.outKitties)
      let exc := kits.foldl (fun (e : Tab Nat) k => e.put k (h.t64 + h.blockNs)) w.excuse
      let h : Hw := { h with mods := { m with gen := gen }, twin := { w with sync := [], excuse := exc, syncLast := false } }
      if w.syncLast then
        let h := (h.s1 Reg.TWIN_STAT_synced).add (Reg.TWIN_CNT_count 5) 1
        if w.rejoin then
          let w := h.twin
          ({ h with twin := { w with rejoin := false } } : Hw).s1 Reg.TWIN_CTRL_in_service
        else h
      else h

/-! ### The other twin messages -/

/-- TWIN_TAKEOVER. -/
def Hw.twinTakeover (h : Hw) : Hw := h.tryTakeover

def twinHealthBytes (x : TwinHealth) : List Byte :=
  beBytes 4 x.sysState.toNat ++ beBytes 1 x.cls ++ beBytes 2 x.fenced.toNat ++ beBytes 1 x.testSeat ++ beBytes 4 x.lastTest.toNat
    ++ beBytes 2 x.tj.toNat ++ beBytes 2 0

/-- TWIN_HEALTH. A core that the peer reports fenced has had its modules re-dealt there (R450; DEDUCED, log entry 64). -/
def Hw.twinHealthRx (h : Hw) (c : Ctrl) (x : TwinHealth) : Hw :=
  let (h, ok) := h.ctrlAccept c 0x61 (twinHealthBytes x)
  if !ok then h
  else
    let w := h.twin
    let old := match w.health with
      | some y => y.fenced.toNat
      | none => 0
    let new := h.deal.tasks.filter (fun t => x.fenced.toNat.testBit t.core.val && !old.testBit t.core.val)
    let h : Hw := { h with twin := { w with health := some x } }
    if new.isEmpty then h else h.resyncModules new []

/-- TWIN_YIELD. -/
def Hw.twinYield (h : Hw) (c : Ctrl) (tick cause : Nat) : Hw :=
  let (h, ok) := h.ctrlAccept c 0x62 (beBytes 8 tick ++ beBytes 2 cause)
  if !ok then h
  else
    let w := h.twin
    ({ h with twin := { w with yielded := true } } : Hw).tryTakeover

/-- TWIN_SWITCH_REQ: the standby in service acknowledges the switch tick. -/
def Hw.switchReq (h : Hw) (c : Ctrl) (s : Nat) : Hw :=
  let (h, ok) := h.ctrlAccept c 0x63 (beBytes 8 s)
  if !ok || h.position != twStandby then h
  else
    let w := h.twin
    ({ h with twin := { w with switchAt := some s, acked := true } } : Hw).twinSend 0x64 (beBytes 8 s)

/-- TWIN_SWITCH_ACK. -/
def Hw.switchAck (h : Hw) (c : Ctrl) (s : Nat) : Hw :=
  let (h, ok) := h.ctrlAccept c 0x64 (beBytes 8 s)
  if !ok || h.position != twActive || h.twin.switchAt != some s then h
  else
    let w := h.twin
    { h with twin := { w with acked := true } }

/-- TWIN_SWITCH_AT_TICK: the old active drops TWIN_ACT; the new active raises it 1 µs later; the
network ports exchange from then on. -/
def Hw.switchAtTick (h : Hw) : Hw :=
  match h.twin.switchAt with
  | none => h
  | some s =>
    let h := h.advanceTo s
    let w := h.twin
    let h : Hw := { h with twin := { w with switchAt := none, acked := false } }
    if !w.acked then h
    else
    let w := h.twin
    let h : Hw := { h with twin := { w with
      startB := some s
      sendB := decide (h.position = twActive)
      lastServed := if h.position = twActive then w.lastServed else s } }
    if h.position = twActive then ((h.setPosition twStandby false).exchangeIds false).reselect
    else if h.position = twStandby then ((h.advanceTo (s + 1000)).setPosition twActive true |>.exchangeIds true).reselect
    else h

/-- TWIN_SYNC_REQ: the active sends the module's state, whose layout is the module's own: its bytes are free
(UNVERIFIED, log entry 51). -/
def Hw.syncReq (h : Hw) (c : Ctrl) (recId off len : Nat) : Hw :=
  let (h, ok) := h.ctrlAccept c 0x65 (beBytes 4 recId ++ beBytes 4 off ++ beBytes 4 len)
  if !ok || h.position != twActive then h
  else
    let (v, h) := h.draw
    h.twinSend 0x66 (beBytes 4 recId ++ beBytes 4 off ++ beBytes 4 len ++ beBytes len v)

/-- TWIN_SYNC_DATA: applied at the following tick. -/
def Hw.syncData (h : Hw) (c : Ctrl) (recId off len : Nat) (data : List Byte) (last : Bool) : Hw :=
  let (h, ok) := h.ctrlAccept c 0x66 (beBytes 4 recId ++ beBytes 4 off ++ beBytes 4 len ++ data)
  if !ok || h.position != twStandby then h
  else
    let w := h.twin
    { h with twin := { w with sync := w.sync ++ [(recId, off, data)], syncLast := w.syncLast || last } }

/-- A write of TWIN_CTRL: twin service begins as standby; without it the engine is standalone (R445, R459). -/
def Hw.twinCtrl (h : Hw) (w : Nat) : Hw :=
  let was := h.twinEn
  let h := (h.p Reg.TWIN_CTRL_en (bitsOf w 0 1)).p Reg.TWIN_CTRL_in_service (bitsOf w 1 1)
  if bitOf w 0 = was then h
  else
    let p := h.pins
    let h : Hw := { h with pins := { p with twinAct := false } }
    let pos := if bitOf w 0 then twStandby else 0
    let h := (h.p Reg.TWIN_STAT_position pos).p Reg.GNOGO_ROLE_twin pos
    h.reselect

end Sys2Proof.Machine
end

