-- ==== Sys2Proof/Machine/ResetOps.lean ====
section
/-! DEFINITION. Resets, boot and firmware images (R486–R493, R498–R505, R510), the adaptive voltage of the bent
rails and their frequency changes (R91, R488–R490). -/

namespace Sys2Proof.Machine

/-! ### Resets (R492) -/

/-- The register fields that an engine reset keeps: the reset causes and, with `flt`, the FAULT block's sticky bits,
FIRST record, history, counters and ring position (R279, R473). -/
def keptReg (flt : Bool) (key : Nat) : Bool :=
  let a := key / 32
  inRange a 0x40000008 0x4000000B
    || flt && (inRange a 0x400D0080 0x400D009F || inRange a 0x400D00C0 0x400D00DF || inRange a 0x400D1000 0x400D17FF
      || [Reg.FAULT_STAT_wr_idx, Reg.FAULT_STAT_seq, Reg.FAULT_LOST_count, Reg.FAULT_ECC_CE_count,
          Reg.FAULT_ECC_UE_count, Reg.FAULT_RECOV_count].any (fun f => RFkey f = key))

/-- The levels of the input pins; the outputs go low (R493). -/
def Pins.inputs (p : Pins) : Pins := { p with twinAct := false, health := false }

/-- An engine reset for the given causes (R492). `all` also clears the trace ring and the FAULT records, as scope
0x01 of SYS_RESET does. A BIST that runs is aborted (R521) (DEDUCED, log entry 37). -/
def Hw.engineReset (h : Hw) (causes : List RF) (all : Bool := false) : Hw :=
  let k : Hw :=
    { pins := h.pins.inputs
      regs := h.regs.filter (fun (e : Nat × Nat) => keptReg (!all) e.1)
      mem := h.mem
      flash := h.flash
      otp := h.otp
      tap := h.tap
      ring := if all then {} else { h.ring with gathered := [], awaited := [], askedBy := none, postCount := 1024 }
      sent := h.sent
      fresh := h.fresh }
  let k := if h.g Reg.BIST_STAT_state = 1 then k.p Reg.BIST_STAT_state 3 else k
  causes.foldl Hw.s1 k

/-- POWER_ON and POWER_FAIL: nothing is kept but the flash, OTP and the levels that drive the pins. -/
def Hw.powerReset (h : Hw) : Hw :=
  { pins := h.pins.inputs
    flash := h.flash
    otp := h.otp
    sent := h.sent
    fresh := h.fresh }

/-- The sill die's registers, amplifier, boost and reference blocks at 0x4010_0000–0x401F_FFFF, at reset, in sill safe
state, held in reset (R487). -/
def Hw.sillReset (h : Hw) : Hw :=
  { h with
    regs := h.regs.filter (fun (e : Nat × Nat) => !inRange (e.1 / 32) 0x40100000 0x401FFFFF)
    sill := { held := true }
    clk := {} }

/-! ### Firmware images (R501) -/

/-- The owner key hash is programmed (R507). -/
def Hw.ownerSet (h : Hw) : Bool := (rdOtp h 0x30 32).any (fun b => b != 0)

/-- A header field. -/
def imgField (im : Nat → Byte) (o n : Nat) : Nat := leNat ((List.range n).map (fun i => im (o + i)))

def imgBytes (im : Nat → Byte) (o n : Nat) : List Byte := (List.range n).map (fun i => im (o + i))

/-- The payload's declared length. -/
def imgLen (im : Nat → Byte) : Nat := imgField im 20 4 + imgField im 24 4 + imgField im 28 4

/-- A declared length is valid. -/
def lenOk (n : Nat) : Bool := n ≤ 524288 && n % 16 == 0

/-- The checks of R501 in order: the code of SEC_STAT.boot_err, 0 when the image is valid. -/
def Hw.checkImage (h : Hw) (recovery : Bool) (im : Nat → Byte) : Nat :=
  let ty := imgField im 6 1
  if imgField im 0 4 != 0x4B474657 || imgField im 4 2 != 1 || !(ty = 1 || (ty = 2 && recovery))
      || imgField im 7 1 > 1 || imgField im 8 4 > 64
      || !lenOk (imgField im 20 4) || !lenOk (imgField im 24 4) || !lenOk (imgField im 28 4) then 1
  else if Config.sha256 (imgBytes im 64 64) != rdOtp h 0x10 32 then 2
  else if !Config.ecdsaOk (imgBytes im 64 64) (Config.sha256 (imgBytes im 0 128)) (imgBytes im 128 64) then 3
  else if h.ownerSet && (imgField im 7 1 != 1 || Config.sha256 (imgBytes im 192 64) != rdOtp h 0x30 32
      || !Config.ecdsaOk (imgBytes im 192 64) (Config.sha256 (imgBytes im 0 256)) (imgBytes im 256 64)) then 4
  else if imgField im 8 4 < h.rollback then 5
  else if Config.sha256 (imgBytes im 320 (imgLen im)) != imgBytes im 32 32 then 6
  else 0

/-- What boot keeps of a valid image: type, fw_version, rollback. -/
def imgInfo (im : Nat → Byte) : Nat × Nat × Nat := (imgField im 6 1, imgField im 16 4, imgField im 8 4)

/-- The payload goes into dealer instruction, dealer data and peg memory, in that order (R499 step 5, R501). -/
def Hw.payloadIn (h : Hw) (im : Nat → Byte) : Hw :=
  let di := imgField im 20 4
  let dd := imgField im 24 4
  ((h.wrBytes 0x30000000 (imgBytes im 320 di)).wrBytes 0x30080000 (imgBytes im (320 + di) dd)).wrBytes
    0x30100000 (imgBytes im (320 + di + dd) (imgField im 28 4))

/-- A valid image is accepted: its payload lies in dealer and peg memory. -/
def Hw.imageIn (h : Hw) (im : Nat → Byte) : Hw :=
  let h := h.payloadIn im
  { h with boot := { h.boot with image := some (imgInfo im), running := imgBytes im 0 (320 + imgLen im) } }

/-! ### Flash slots (R502) -/

def flashSlot (b : Bool) : Nat := if b then 0x400000 else 0

def Hw.flash8 (h : Hw) (a : Nat) : Byte := h.flash.get 0xFF a

/-- The image of a slot. -/
def Hw.slotImage (h : Hw) (b : Bool) : Nat → Byte := fun i => h.flash8 (flashSlot b + 0x1000 + i)

/-- boot_seq of a slot whose record is valid. -/
def Hw.slotSeq (h : Hw) (b : Bool) : Option Nat :=
  let im := fun i => h.flash8 (flashSlot b + i)
  let s := imgField im 4 4
  if imgField im 0 4 = 0x4B47534C && imgField im 8 4 = 0xFFFFFFFF - s then some s else none

/-- Slot B ranks above slot A. -/
def Hw.slotBFirst (h : Hw) : Bool :=
  match h.slotSeq false, h.slotSeq true with
  | none, some _ => true
  | some a, some b => decide (a < b)
  | _, _ => false

/-- The boot ROM chooses a slot; with no valid image it records the cause found in the slot that ranks first and enters
host load (R500) (DEDUCED, log entry 37). -/
def Hw.bootFlash (h : Hw) : Hw :=
  let first := h.slotBFirst
  let e1 := h.checkImage false (h.slotImage first)
  let e2 := h.checkImage false (h.slotImage !first)
  let take := fun (b : Bool) =>
    (h.p Reg.SEC_STAT_slot (b2n b)).imageIn (h.slotImage b)
  if e1 = 0 then take first else if e2 = 0 then take !first else h.p Reg.SEC_STAT_boot_err e1

/-! ### Boot -/

/-- RESET_RELEASE: straps are sampled and boot begins; the device key is regenerated or not (R506). -/
def Hw.resetRelease (h : Hw) (st : Straps) (pufOk : Bool) : Hw :=
  let h : Hw := { h with
    pins := { h.pins with resetN := true, bootMode := st.bootMode.val, pmbAvs := st.pmbAvs, twinSeat := st.twinSeat }
    boot := { held := false } }
  let h := (h.p Reg.SYS_STATE_boot_mode st.bootMode.val).p Reg.TWIN_STAT_seat (b2n st.twinSeat)
  let h := ((h.p Reg.SEC_STAT_puf_fail (b2n !pufOk)).p Reg.SEC_STAT_identity (b2n (pufOk && rdOtp h 0x500 2 != [0, 0]))).p
    Reg.SEC_STAT_owner (b2n h.ownerSet)
  let h := h.p Reg.SEC_ROLLBACK_value h.rollback
  if st.bootMode.val = 0 then h.bootFlash else h

/-- A byte of the image received so far; a later chunk replaces an earlier one. -/
def chunkByte (cs : List (Nat × List Byte)) (i : Nat) : Option Byte :=
  cs.foldl (fun r (c : Nat × List Byte) => if c.1 ≤ i && i < c.1 + c.2.length then c.2[i - c.1]? else r) none

/-- Bytes 0 to n − 1 have arrived. -/
def haveTo (cs : List (Nat × List Byte)) (n : Nat) : Nat → Nat → Bool
  | 0, at' => decide (n ≤ at')
  | k + 1, at' =>
    if n ≤ at' then true
    else match cs.find? (fun c => c.1 ≤ at' && at' < c.1 + c.2.length) with
      | some c => haveTo cs n k (c.1 + c.2.length)
      | none => false

def chunksHold (cs : List (Nat × List Byte)) (n : Nat) : Bool := haveTo cs n cs.length 0

/-- A chunk of an image has arrived; once every declared byte has, the image is checked (R503, R510). After a failure a
new image is awaited. -/
def Hw.imageChunk (h : Hw) (off : Nat) (bytes : List Byte) : Hw :=
  let cs := h.boot.chunks ++ [(off, bytes)]
  let im := fun i => (chunkByte cs i).getD 0
  let put := fun (cs : List (Nat × List Byte)) (h : Hw) => { h with boot := { h.boot with chunks := cs } }
  if !chunksHold cs 320 || (lenOk (imgField im 20 4) && lenOk (imgField im 24 4) && lenOk (imgField im 28 4)
      && !chunksHold cs (320 + imgLen im)) then put cs h
  else
    let e := h.checkImage (h.g Reg.SYS_STATE_boot_mode = 3) im
    let h := (put [] h).p Reg.SEC_STAT_boot_err e
    if e = 0 then h.imageIn im else h

/-- The engine is in boot, out of reset, without an accepted image. -/
def Hw.loading (h : Hw) : Bool := !h.boot.held && h.boot.image.isNone && !h.b Reg.MBX_STATUS_ready

def cmdBuf : Nat := hostBase + 0x1000
def respBuf : Nat := hostBase + 0x1400
def bulkBuf : Nat := hostBase + 0x10000

/-- BOOT_CHUNK: command buffer word 2 has become 0x4C4F_4144 (R503). -/
def Hw.bootChunk (h : Hw) : Hw :=
  if !h.loading || h.g Reg.SYS_STATE_boot_mode = 2 || h.rd32 (cmdBuf + 8) != 0x4C4F4144 then h
  else
    let off := (h.rd32 cmdBuf).toNat
    let bytes := h.rdBytes bulkBuf (min (h.rd32 (cmdBuf + 4)).toNat 65536)
    (h.wr32 (cmdBuf + 8) 0).imageChunk off bytes

/-- IMAGE_DATA: a part of the manager's image (R510). -/
def Hw.imageData (h : Hw) (off : Nat) (bytes : List Byte) : Hw :=
  if h.loading && h.g Reg.SYS_STATE_boot_mode = 2 then h.imageChunk off bytes else h

/-- GNOGO_LOAD_RETRY: 1 s after the last attempt the engine asks again, once it is enrolled, or waits for a new
exchange on links 0–4 (R510). -/
def Hw.gnogoLoadRetry (h : Hw) : Hw :=
  if !h.loading || h.g Reg.SYS_STATE_boot_mode != 2 then h
  else
    let h := h.advanceTo (h.boot.retryAt + 1000000000)
    let h : Hw := { h with boot := { h.boot with retryAt := h.t64, chunks := [] } }
    if h.b Reg.GNOGO_ROLE_enrolled then h.ctrl h.managerId 0x34 []
    else { h with table := { h.table with enrols := [] } }

/-- Burn the rollback thermometer up to n bits, in ascending order (R505). -/
def Hw.burnRollback (h : Hw) (n : Nat) : Hw :=
  if n ≤ h.rollback then h
  else
    let v := leNat (rdOtp h 0x50 8)
    let v' := (List.range 64).foldl (fun (w : Nat) i =>
      if popBytes (leBytes 8 w) < n && !bitOf w i then w + 2 ^ i else w) v
    let otp := (List.range 8).foldl (fun (t : Tab Byte) i => t.set 0 (0x50 + i) (BitVec.ofNat 8 (v' / 256 ^ i))) h.otp
    let h : Hw := { h with otp := otp }
    h.p Reg.SEC_ROLLBACK_value h.rollback

/-- A byte of dealer or peg memory. -/
def ofFirmware (a : Nat) : Bool := inRange a 0x30000000 0x3017FFFF

/-- BOOT_READY: every memory but the trace ring, and the memory that holds the running firmware, is initialised, the doors
open, SYS_STATE becomes ready (R499 steps 8 and 9) (DEDUCED, log entry 37). -/
def Hw.bootReady (h : Hw) : Hw :=
  match h.boot.image with
  | none => h
  | some (_, fw, rb) =>
    if h.boot.held || h.b Reg.MBX_STATUS_ready then h
    else
      let h := h.keepMem ofFirmware
      let h := (((h.s1 Reg.MBX_STATUS_ready).p Reg.SYS_STATE_state 1).p Reg.HOST_FW_version fw)
      h.burnRollback rb

/-! ### Frequency changes (R91) -/

/-- A core of the bent has its pipeline clock stopped (R86, R491). -/
def Hw.bentAsleep (h : Hw) (b : Nat) : Bool :=
  h.g (Reg.TRUSS_BENT_STAT_awake b) = 0
    && (List.range 5).all (fun j => (h.core (b * 5 + j)).entry.isNone)

/-- BENT_FREQ_CHANGE_REQ: a reserved code discards the whole write (R90, R273). No sample has shown margin at a higher
requested frequency yet, so avs_ok falls until one does (R489). -/
def Hw.bentFreqReq (h : Hw) (b code master : Nat) : Hw :=
  if 8 < code then h.valueErr (0x4022A010 + b * 0x10) master
  else
    let raise := decide (h.g (Reg.TRUSS_BENT_STAT_freq_act b) < code)
    let h := (h.p (Reg.TRUSS_BENT_OP_freq_code b) code).s1 (Reg.TRUSS_BENT_OP_change_req b)
    let h := if raise then h.s0 (Reg.TRUSS_BENT_STAT_avs_ok b) else h
    let r := h.rail b
    h.setRail b { r with raising := raise }

/-- BENT_PLL_RETUNE: the bent clock stops, for at most 5 µs, with all five cores asleep; a raise waits for the margin
and is refused while the loop cannot raise the rail (R490). The next tick is at least 6 µs away (R91). Crossbar accesses of the
bent wait (R17). -/
def Hw.bentRetune (h : Hw) (b : Nat) : Hw :=
  let r := h.rail b
  if h.b (Reg.TRUSS_BENT_OP_change_req b) && h.bentAsleep b && r.retune.isNone
      && (!r.raising || (h.b (Reg.TRUSS_BENT_STAT_avs_ok b) && !r.stuck))
      && (!h.epoch.live || decide (h.t64 + 6000 ≤ h.instant (h.epoch.t + h.bs)))
  then h.setRail b { r with retune := some h.t64 } else h

/-! ### The adaptive loop (R489, R490) -/

/-- Command a rail; a transaction that fails leaves it, and the third failure stops lowering and frequency raises. -/
def Hw.railTo (h : Hw) (b mv : Nat) (fault : Bool) : Hw :=
  let r := h.rail b
  if fault then h.setRail b { r with fails := r.fails + 1, stuck := r.stuck || decide (3 ≤ r.fails + 1) }
  else (h.setRail b { r with vdd := mv, fails := 0, high := 0 }).p (Reg.TRUSS_BENT_STAT_vdd b) mv

/-- AVS_SAMPLE: one sample of the replica timing monitors, 50 µs after the last (DEDUCED, log entry 38). -/
def Hw.avsSample (h : Hw) (b : Nat) (low high fault : Bool) : Hw :=
  let r := h.rail b
  let h := match r.sampled with
    | some t => h.advanceTo (t + 50000)
    | none => h
  let top := decide (250 ≤ r.vdd)
  let r := { r with
    sampled := some h.t64
    high := if high && !low then r.high + 1 else 0
    noMargin := if low && top then some (r.noMargin.getD h.t64) else none }
  let h := ((h.setRail b r).p (Reg.TRUSS_BENT_STAT_avs_ok b) (b2n !low)).p (Reg.TRUSS_BENT_STAT_vdd b) r.vdd
  if low then (if top then h else h.railTo b (min 250 (r.vdd + 5)) fault)
  else if 40 ≤ r.high && !r.stuck && 50 < r.vdd then h.railTo b (max 50 (r.vdd - 5)) fault
  else h

/-- AVS_VOUT_CHECK: once per second READ_VOUT is compared with the command; a fault in STATUS_WORD stops lowering. The
manual gives no action on a difference (DEDUCED, log entry 38). -/
def Hw.avsVout (h : Hw) (b : Nat) (fault : Bool) : Hw :=
  let r := h.rail b
  if fault then h.setRail b { r with stuck := true } else h

/-- BENT_AVS: 1 ms at 0.75 V without margin (source 0x0A + bent). -/
def Hw.bentAvs (h : Hw) (b : Nat) : Hw :=
  let r := h.rail b
  match r.noMargin with
  | none => h
  | some t =>
    let h := h.advanceTo (t + 1000000)
    (h.setRail b { r with noMargin := some h.t64 }).raiseU (0x0A + b)

end Sys2Proof.Machine
end

