-- ==== Sys2Proof/Machine/MbxOps.lean ====
section
/-! DEFINITION. The mailbox unit: the three doors, acceptance and refusal, responses, completion and timeout
(R242–R258, R512). -/

namespace Sys2Proof.Machine

/-! ### Status codes (R256) -/

def sOk : Nat := 0
def sBusy : Nat := 1
def sNotReady : Nat := 2
def sAuthFail : Nat := 3
def sBadHeader : Nat := 4
def sStale : Nat := 5
def sTimeout : Nat := 6
def sUnknownOp : Nat := 0x10
def sBadTlv : Nat := 0x11
def sParamUnknown : Nat := 0x12
def sParamRange : Nat := 0x13
def sLocked : Nat := 0x14
def sNotManager : Nat := 0x15
def sPlanRefused : Nat := 0x20
def sCommitPartial : Nat := 0x21
def sDeferred : Nat := 0x22
def sFwRejected : Nat := 0x30
def sChallengeFail : Nat := 0x31

/-! ### Commands and TLVs (R247, R251, R257) -/

/-- The doors that allow an opcode: 1 host, 2 network, 4 table; 0 for an opcode that is not defined (R257, R507,
R512). -/
def opDoors (op : Nat) : Nat :=
  match op with
  | 0x0101 | 0x0102 | 0x0201 | 0x0205 | 0x0206 | 0x0301 | 0x0302 | 0x0303 | 0x0305 | 0x0401 | 0x0402 | 0x0403 | 0x0404
  | 0x0501 | 0x0503 | 0x0601 | 0x0602 | 0x0801 | 0x0901 | 0x0902 | 0x0903 | 0x0905 | 0x0906 | 0x0B02 => 7
  | 0x0103 | 0x0202 | 0x0203 | 0x0204 | 0x0304 | 0x0502 | 0x0701 | 0x0702 | 0x0802 | 0x0904 | 0x0A01 | 0x0B01 => 3
  | 0x0B03 | 0x0B04 | 0x0C01 | 0x0C02 | 0x0B05 | 0x0B06 => 1
  | _ => 0

def doorNo : Door → Nat
  | .host => 0
  | .network => 1
  | .table => 2

/-- The maximum duration of a command in ns; a full BIST_RUN is known by its MODE TLV (R247, R518). -/
def opLimit (op : Nat) (full : Bool) : Nat :=
  match op with
  | 0x0202 | 0x0203 => 250000000
  | 0x0A01 => if full then 1800000000 else 120000000
  | 0x0B01 => 20000000000
  | 0x0904 => 400000000
  | _ => 2000000

/-- One TLV (R251). -/
def tlv (type : Nat) (v : List Byte) : List Byte :=
  leBytes 2 type ++ leBytes 2 v.length ++ padB ((v.length + 3) / 4 * 4) v

/-- The TLVs of a body: type, length and value; none where one runs past the end. -/
def tlvs : Nat → List Byte → Option (List (Nat × List Byte))
  | _, [] => some []
  | 0, _ => none
  | f + 1, b =>
    let n := leNat ((b.drop 2).take 2)
    let pad := (n + 3) / 4 * 4
    if b.length < 4 + pad then none
    else (tlvs f (b.drop (4 + pad))).map (fun t => (leNat (b.take 2), (b.drop 4).take n) :: t)

/-- A TLV of R251 that a door may carry: the common types have their lengths, and bulk data lie within the bulk buffer
(R252). -/
def tlvOk (door : Nat) (t : Nat × List Byte) : Bool :=
  let n := t.2.length
  match t.1 with
  | 1 => door = 0 && n = 8 && decide (leNat (t.2.take 4) + leNat (t.2.drop 4) ≤ 65536)
  | 2 => door != 0 && n ≤ 8188
  | 3 | 7 => n = 8
  | 4 => 4 ≤ n
  | 5 => n = 12
  | 6 => 12 ≤ n && n ≤ 44
  | k => 0x100 ≤ k

def bodyOk (door : Nat) (body : List Byte) : Bool :=
  match tlvs body.length body with
  | some ts => ts.all (tlvOk door)
  | none => false

/-- The MODE TLV of BIST_RUN selects a full test. -/
def fullBist (body : List Byte) : Bool :=
  match tlvs body.length body with
  | some ts => ts.any (fun t => t.1 = 0x100 && leNat (t.2.take 1) = 1)
  | none => false

/-! ### Responses (R250) -/

def respHdr (op seq status len epoch tagLen door rflags accepted now : Nat) : List Byte :=
  leBytes 2 op ++ leBytes 2 seq ++ leBytes 2 status ++ leBytes 2 len ++ leBytes 4 epoch ++ leBytes 1 tagLen ++ leBytes 1 door
    ++ leBytes 1 rflags ++ [0] ++ leBytes 8 accepted ++ leBytes 8 now

/-- Write a response where its door takes it. -/
def Hw.respond (h : Hw) (r : MbxRun) (status accepted : Nat) (body : List Byte) : Hw :=
  if r.door = 0 then
    let big := decide (992 < body.length)
    let part := if big then tlv 1 (leBytes 4 0 ++ leBytes 4 (min body.length 65536)) else body
    let h := if big then h.wrBytes bulkBuf (body.take 65536) else h
    let h := h.wrBytes (respBuf + 32) part
    let h := h.wrBytes respBuf (respHdr r.opcode r.seq status part.length h.roleEpoch 0 0 (b2n big) accepted h.t64)
    ((h.p Reg.MBX_STATUS_resp_seq r.seq).s1 Reg.MBX_STATUS_resp_valid).s1 Reg.HOST_IRQ_STAT_mbx_done
  else
    let b := body.take 8192
    let msg := respHdr r.opcode r.seq status b.length h.roleEpoch 16 r.door 0 accepted h.t64 ++ b
    if r.door = 1 then
      let ctr := h.mbx.respCtr.get 0 r.keyId
      let m := h.mbx
      let h : Hw := { h with mbx := { m with respCtr := m.respCtr.put r.keyId (ctr + 1) } }
      h.send (.net r.port 7 (leBytes 4 r.ip ++ leBytes 2 r.udp ++ leBytes 4 r.keyId ++ leBytes 8 (2 ^ 63 + ctr) ++ msg))
    else h.ctrl r.src 2 msg

/-- COMMAND_COMPLETE: the response is written and busy clears (R246). -/
def Hw.finish (h : Hw) (status : Nat) (body : List Byte) : Hw :=
  match h.mbx.run with
  | none => h
  | some r =>
    let h := h.trace 3 (leBytes 2 r.opcode ++ leBytes 2 r.seq ++ leBytes 2 status)
    let h := h.respond r status r.accepted body
    let m := h.mbx
    ({ h with mbx := { m with run := none } } : Hw).s0 Reg.MBX_STATUS_busy

/-- The dealer core has the outcome of the running command. -/
def Hw.result (h : Hw) (status : Nat) (body : List Byte) : Hw :=
  let m := h.mbx
  { h with mbx := { m with run := m.run.map (fun r => { r with result := some (status, body) }) } }

/-- The running command is `op` and waits for its outcome. -/
def Hw.serving (h : Hw) (op : Nat) : Bool :=
  match h.mbx.run with
  | some r => r.opcode = op && r.result.isNone
  | none => false

/-- MBX_TIMEOUT: acceptance plus the maximum duration is reached first (R247). -/
def Hw.mbxTimeout (h : Hw) : Hw :=
  match h.mbx.run with
  | none => h
  | some r =>
    let h := (h.advanceTo (r.accepted + r.limit)).finish sTimeout []
    (h.s1 Reg.HOST_IRQ_STAT_mbx_timeout).raiseU 0x38

/-- COMMAND_COMPLETE; a reset that SYS_RESET ordered follows its response (R257). A completion stamped later than the
deadline meets a command that has timed out, and is discarded (R7, R247). -/
def Hw.commandComplete (h : Hw) : Hw :=
  match h.mbx.run with
  | some r =>
    if r.accepted + r.limit < h.t64 then h.mbxTimeout
    else match r.result with
    | some (st, body) =>
      let h := h.finish st body
      match h.mbx.resetScope with
      | some sc => h.engineReset [Reg.SYS_RST_CAUSE_command] (sc = 1)
      | none => h
    | none => h
  | none => h

/-! ### Doors (R242–R245, R253–R255) -/

/-- The outcome that a command has at its acceptance: its opcode is not defined or not allowed at its door, or its body's
TLVs are wrong (R251, R257). -/
def MbxRun.atOnce (r : MbxRun) : Option (Nat × List Byte) :=
  if !bitOf (opDoors r.opcode) r.door then some (sUnknownOp, [])
  else if !bodyOk r.door r.body then some (sBadTlv, []) else none

/-- A command is accepted: busy, its acceptance T64 and its trace record. An opcode the door does not allow, and a body
whose TLVs are wrong, have their outcome at once. -/
def Hw.accept (h : Hw) (r : MbxRun) : Hw :=
  let ring := h.ring
  let h := (h.s1 Reg.MBX_STATUS_busy).p Reg.MBX_STATUS_door r.door
  let h := if r.door = 0 then h.s0 Reg.MBX_STATUS_resp_valid else h
  let h := h.inc (Reg.MBX_DOOR_ACC_count r.door)
  let h := h.trace 2 (leBytes 2 r.opcode ++ leBytes 2 r.seq ++ leBytes 1 r.door ++ leBytes 4 h.roleEpoch)
  let m := h.mbx
  { h with mbx := { m with
    run := some { r with
      accepted := h.t64
      limit := opLimit r.opcode (fullBist r.body)
      result := r.atOnce
      ringBefore := some ring }
    resetScope := none } }

/-- The order in which attempts that reach an idle mailbox in one PERIPH cycle are served: host, table, network (R248). -/
def doorRank (door : Nat) : Nat :=
  match door with
  | 0 => 0
  | 2 => 1
  | _ => 2

/-- The acceptance of a command is taken back: the mailbox is idle as before it, and the attempt is refused under R244. The trace
ring loses the acceptance record where no later record follows it (DEDUCED, log entry 31). -/
def Hw.takeBack (h : Hw) (r : MbxRun) : Hw :=
  let h := (h.s0 Reg.MBX_STATUS_busy).p (Reg.MBX_DOOR_ACC_count r.door) (h.g (Reg.MBX_DOOR_ACC_count r.door) + (2 ^ 32 - 1))
  let ring := match r.ringBefore with
    | some g => if h.ring.rseq = (g.rseq + 1) % 4294967296 then g else h.ring
    | none => h.ring
  let m := h.mbx
  (({ h with ring := ring, mbx := { m with run := none } } : Hw).inc (Reg.MBX_DOOR_REJ_busy r.door)).respond r sBusy 0 []

/-- An attempt of a door reaches the mailbox: a command of a door that is served after it, accepted in this cycle and not yet
begun by the dealer core, gives way to it (R248; DEDUCED, log entry 31). -/
def Hw.arriveAt (h : Hw) (door : Nat) : Hw :=
  match h.mbx.run with
  | some r => if r.accepted = h.t64 && r.result == r.atOnce && decide (doorRank door < doorRank r.door) then h.takeBack r else h
  | none => h

/-- The header is well formed for its door (R249, R253). -/
def cmdOk (door : Nat) (c : Cmd) : Bool :=
  c.rsvOk && c.flags.toNat < 4 && c.body.length % 4 = 0
    && (if door = 0 then c.tagLen = 0 && c.body.length ≤ 1008
        else c.tagLen = 16 && c.body.length ≤ 8192 && c.flags.getLsbD 1)

/-- The role epoch check of R253. -/
def Hw.epochOk (h : Hw) (c : Cmd) : Bool := !c.flags.getLsbD 1 || c.epoch.toNat = h.roleEpoch

/-- Orders 4 and 5 of R243, then acceptance. -/
def Hw.offer (h : Hw) (r : MbxRun) (c : Cmd) : Hw :=
  if !cmdOk r.door c then h.respond r sBadHeader 0 []
  else if !h.epochOk c then h.respond r sStale 0 []
  else h.accept r

/-- MBX_STATUS.rejected is set; its first setting is an interrupt (R238). -/
def Hw.setRejected (h : Hw) : Hw :=
  (if h.b Reg.MBX_STATUS_rejected then h else h.s1 Reg.HOST_IRQ_STAT_reject).s1 Reg.MBX_STATUS_rejected

/-- A host-door write transaction is discarded (R244). -/
def Hw.hostReject (h : Hw) : Hw :=
  ((h.inc Reg.MBX_STATUS_reject_cnt).inc (Reg.MBX_DOOR_REJ_busy 0)).setRejected

/-- The command in the command buffer. -/
def Hw.hostCmd (h : Hw) : Cmd :=
  let len := h.rdN (cmdBuf + 6) 2
  { opcode := BitVec.ofNat 16 (h.rdN cmdBuf 2)
    flags := BitVec.ofNat 16 (h.rdN (cmdBuf + 2) 2)
    seq := BitVec.ofNat 16 (h.rdN (cmdBuf + 4) 2)
    epoch := h.rd32 (cmdBuf + 8)
    tagLen := h.rdN (cmdBuf + 12) 1
    rsvOk := h.rdN (cmdBuf + 13) 3 = 0 && len ≤ 1008
    body := h.rdBytes (cmdBuf + 16) (min len 1008) }

/-- MBX_DOORBELL: ring at the host door (R243–R245, R248) (DEDUCED, log entry 31). -/
def Hw.doorbell (h : Hw) : Hw :=
  let h := if h.b Reg.MBX_STATUS_rejected then h else h.arriveAt 0
  if !h.b Reg.MBX_STATUS_ready then h.setRejected
  else if h.b Reg.MBX_STATUS_busy || h.b Reg.MBX_STATUS_rejected then h.hostReject
  else
    let c := h.hostCmd
    h.offer { door := 0, opcode := c.opcode.toNat, seq := c.seq.toNat, accepted := 0, limit := 0, body := c.body } c

/-! ### The network door (R254, R512) -/

/-- The key of a session, or installed by NET_KEY_SET. -/
def Hw.netKey (h : Hw) (keyId : Nat) : Option KeyRec :=
  List.find? (fun k => k.keyId = keyId) (h.mbx.sessions ++ h.mbx.netKeys)

/-- NET_CMD_RECEIVE (R243, R254). Without identity the network door is unavailable (R506). -/
def Hw.netCmd (h : Hw) (port : Port) (ip udp keyId counter : Nat) (tagOk : Bool) (c : Cmd) : Hw :=
  let r : MbxRun := { door := 1, opcode := c.opcode.toNat, seq := c.seq.toNat, accepted := 0, limit := 0, port := port,
                      ip := ip, udp := udp, keyId := keyId, body := c.body }
  if h.b Reg.MBX_STATUS_ready && !h.b Reg.SEC_STAT_identity then h
  else if !h.b Reg.MBX_STATUS_ready then h.respond r sNotReady 0 []
  else if h.b Reg.MBX_STATUS_busy then (h.inc (Reg.MBX_DOOR_REJ_busy 1)).respond r sBusy 0 []
  else if (h.netKey keyId).isNone then h.inc (Reg.MBX_DOOR_REJ_auth 1)
  else if !tagOk || counter ≥ 2 ^ 63 || (match h.mbx.counters.find? keyId with
      | some n => decide (counter ≤ n)
      | none => false) then
    (h.inc (Reg.MBX_DOOR_REJ_auth 1)).respond r sAuthFail 0 []
  else
    let m := h.mbx
    let h : Hw := { h with mbx := { m with counters := m.counters.put keyId counter } }
    h.offer r c

/-- "KG960 net", the info string of R512. -/
def netInfo : List Byte := [0x4B, 0x47, 0x39, 0x36, 0x30, 0x20, 0x6E, 0x65, 0x74]

/-- NET_SESSION_OPEN: the controller's certificate must be signed by the owner key; the engine answers with its own
exchange and holds the session's keys (R508, R512). Without identity the network door is closed (R506). -/
def Hw.sessionOpen (h : Hw) (port : Port) (ip udp : Nat) (m : EnrolMsg) : Hw :=
  if !h.b Reg.MBX_STATUS_ready || !h.b Reg.SEC_STAT_identity || !h.ownerSet
      || !Config.ecdsaOk (rdOtp h 0x30 32) (Config.sha256 m.cert) m.sig then h
  else
    let (eph, h) := h.draw
    let (nn, h) := h.draw
    let nonce := randBytes nn 16
    let pub := Config.ecdhPub eph
    let pair := Config.hkdf (Config.ecdh eph m.pub) (m.nonce ++ nonce) netInfo
    let id := 0x30000000 + (h.mbx.sessions.length + 1) % 4096 * 65536 + h.ownId % 65536
    let reply := enrolBytes { cert := h.certificate, pub := pub, nonce := nonce, sig := [] }
    let x := h.mbx
    let h : Hw := { h with mbx := { x with sessions := x.sessions ++ [⟨id, pair.take 16, h.t64⟩] } }
    h.send (.net port 8 (leBytes 4 ip ++ leBytes 2 udp ++ reply ++ Config.ecdsaSign (Config.sha256 (enrolBytes m))))

/-! ### The table door (R255, R368) -/

/-- PROED_CMD: from the manager's seat alone. -/
def Hw.proedCmd (h : Hw) (c : Ctrl) (cmd : Cmd) : Hw :=
  let r : MbxRun := { door := 2, opcode := cmd.opcode.toNat, seq := cmd.seq.toNat, accepted := 0, limit := 0, src := c.src,
                      body := cmd.body }
  if c.dst != h.ownId then
    (h.ctrlAccept c 1 (leBytes 2 cmd.opcode.toNat ++ leBytes 2 cmd.flags.toNat ++ leBytes 2 cmd.seq.toNat
      ++ leBytes 2 cmd.body.length ++ leBytes 4 cmd.epoch.toNat ++ leBytes 1 cmd.tagLen ++ [0, 0, 0] ++ cmd.body)).1
  else
    let (h, ok) := h.linkRx c.link true 0
    if !ok then h
    else if h.barredRx c.link.link.val then h.linkCount c.link.link.val 7
    else if !h.roleMatch c then h.staleAnswer c 1
    else
    let h := h.arriveAt 2
    if !h.b Reg.MBX_STATUS_ready then h.respond r sNotReady 0 []
    else if h.b Reg.MBX_STATUS_busy then (h.inc (Reg.MBX_DOOR_REJ_busy 2)).respond r sBusy 0 []
    else
      let (h, ok) := h.ctrlAuth c
      if !ok then (h.inc (Reg.MBX_DOOR_REJ_auth 2)).respond r sAuthFail 0 []
      else if c.src != h.managerId then h.inc (Reg.MBX_DOOR_REJ_auth 2)
      else h.offer r cmd

end Sys2Proof.Machine
end

