-- ==== Sys2Proof/Machine/Bus.lean ====
section
/-! DEFINITION. The register bus (R263–R281): the words that reads return, and what a software write does to
every register: access types, reserved codes, live and active copies, and the command each write gives. -/

namespace Sys2Proof.Machine

/-! ### Writes by access type (R5) -/

/-- A field takes its part of a word written to its register. -/
def Hw.fieldWrite (h : Hw) (w : Nat) (f : RF × Access) : Hw :=
  let v := bitsOf w f.1.lo f.1.w
  match f.2 with
  | .rw | .rwh | .rws | .cnt => h.p f.1 v
  | .w1c => h.p f.1 (h.g f.1 - Nat.land (h.g f.1) v)
  | .w1s => h.p f.1 (Nat.lor (h.g f.1) v)
  | .ro | .rsv => h

/-- A word is written to a register that has no behaviour of its own. -/
def Hw.fieldsWrite (h : Hw) (a w : Nat) : Hw := (fieldsAt a).foldl (fun h f => h.fieldWrite w f) h

/-- The write changes a reserved field that is to be written back as read or as 0 (R272). -/
def Hw.rsvBad (h : Hw) (a w : Nat) : Bool :=
  (fieldsAt a).any (fun f => f.2 == .rsv && bitsOf w f.1.lo f.1.w != h.g f.1)

/-- The value of a field within a word. -/
def RF.of (f : RF) (w : Nat) : Nat := bitsOf w f.lo f.w

/-! ### The blocks -/

/-- Lock the debug window (R277). -/
def Hw.debugLock (h : Hw) : Hw :=
  let m := h.mbx
  ({ h with mbx := { m with unlockEnd := 0 } } : Hw).s0 Reg.SYS_DEBUG_unlocked

def Hw.sysWrite (h : Hw) (a w : Nat) : Hw :=
  if a = 0x40000020 then (if bitOf w 1 then h.debugLock else h) else h.fieldsWrite a w

/-- The regions of R274 outside the window region, as first and last address. -/
def regions : List (Nat × Nat) :=
  [(0, 0x1FFFF), (0x10000000, 0x11FFFFFF), (0x20000000, 0x201FFFFF), (0x20200000, 0x203FFFFF)]
    ++ (List.range 10).map (fun n => (0x21000000 + n * 0x100000, 0x210AFFFF + n * 0x100000))
    ++ [(0x30000000, 0x300FFFFF), (0x30100000, 0x3017FFFF), (0x38000000, 0x383FFFFF)]
    ++ (List.range 20).map (fun n => (0x40000000 + n * 0x10000, 0x4000FFFF + n * 0x10000))
    ++ (List.range 3).map (fun n => (0x40200000 + n * 0x10000, 0x4020FFFF + n * 0x10000))
    ++ [(0xF0000000, 0xF00FFFFF)]

/-- Window w with a size and mode meets R293. -/
def Hw.winOk (h : Hw) (w size : Nat) (remote : Bool) : Bool :=
  let len := 2 ^ size
  let base := h.g (Reg.XBAR_WIN_BASE_base w) * 65536
  let tgt := h.g (Reg.XBAR_WIN_TGT_tgt w)
  let clash := (List.range 16).any (fun v => v != w && h.b (Reg.XBAR_WIN_CTRL_en v)
    && decide (base < (h.winSpan v).1 + (h.winSpan v).2) && decide ((h.winSpan v).1 < base + len))
  base % len == 0 && decide (0x60000000 ≤ base) && decide (base + len ≤ 0x80000000) && tgt % len == 0 && !clash
    && (if remote then decide (tgt + len ≤ 0x2000000)
        else regions.any (fun r => decide (r.1 ≤ tgt) && decide (tgt + len - 1 ≤ r.2)))

/-- XBAR_WIN_CTRL (R293, R294). -/
def Hw.winCtrl (h : Hw) (i w master : Nat) : Hw :=
  let size := bitsOf w 2 5
  let remote := bitOf w 1
  let a := 0x40010800 + 16 * i
  if size < 16 || 27 < size then h.valueErr a master
  else
    let live := h.b (Reg.XBAR_WIN_CTRL_en i)
    let moved := size != h.g (Reg.XBAR_WIN_CTRL_size i) || remote != h.b (Reg.XBAR_WIN_CTRL_remote i)
    let h := (h.p (Reg.XBAR_WIN_CTRL_engine i) (bitsOf w 7 9)).p (Reg.XBAR_WIN_CTRL_tmo i) (bitsOf w 16 8)
    let h := if live then (if moved then h.s1 Reg.XBAR_STATUS_win_live else h)
             else (h.p (Reg.XBAR_WIN_CTRL_size i) size).p (Reg.XBAR_WIN_CTRL_remote i) (b2n remote)
    if !bitOf w 0 then h.s0 (Reg.XBAR_WIN_CTRL_en i)
    else if live then h
    else if h.winOk i size remote then h.s1 (Reg.XBAR_WIN_CTRL_en i)
    else h.s1 Reg.XBAR_STATUS_win_bad

def Hw.xbarWrite (h : Hw) (a w master : Nat) : Hw :=
  if inRange a 0x40010800 0x400108FF then
    let i := (a - 0x40010800) / 16
    match a % 16 with
    | 0 => h.winCtrl i w master
    | 4 | 8 => if h.b (Reg.XBAR_WIN_CTRL_en i) then h.s1 Reg.XBAR_STATUS_win_live else h.fieldsWrite a w
    | _ =>
      let h := h.p (Reg.XBAR_WIN_STAT_err i) (bitsOf w 20 10)
      if bitOf w 31 then h.p (Reg.XBAR_WIN_STAT_max_cyc i) 0 else h
  else h.fieldsWrite a w

/-- WIN_STAT_CLEAR. -/
def Hw.winStatClear (h : Hw) (i : Nat) : Hw := h.p (Reg.XBAR_WIN_STAT_max_cyc i) 0

def Hw.dmaWrite (h : Hw) (a w master : Nat) : Hw :=
  if inRange a 0x40020100 0x400202FF then
    let c := (a - 0x40020100) / 32
    match a % 32 with
    | 0x00 => h.dmaCfgWrite c master w
    | 0x04 => if h.dmaState c != dIdle then h.s1 (Reg.DMA_CH_STAT_live_wr c) else h.fieldsWrite a w
    | 0x08 => if bitOf w 0 then (h.s1 (Reg.DMA_CH_DOORBELL_ring c)).dmaDoorbell c else h
    | _ => h.fieldsWrite a w
  else h.fieldsWrite a w

/-- An event timer's register: timer 0 is the block tick, read only (R342). -/
def Hw.timerWrite (h : Hw) (i off a w : Nat) : Hw :=
  if i = 0 then h
  else
    match off with
    | 0x00 => h.timerArm i w
    | 0x04 | 0x08 | 0x0C =>
      if h.b (Reg.TIME_TMR_STAT_armed i) then h.s1 (Reg.TIME_TMR_STAT_live_wr i) else h.fieldsWrite a w
    | _ => h.fieldsWrite a w

/-- A capture input's register: edge is its enable (R343, R285). -/
def Hw.captWrite (h : Hw) (j off a w : Nat) : Hw :=
  match off with
  | 0x00 =>
    let was := h.b (Reg.TIME_CAP_CTRL_edge j)
    let h := h.fieldsWrite a w
    h.fnSet 0x02 j was (h.b (Reg.TIME_CAP_CTRL_edge j))
  | 0x10 =>
    let h := if bitOf w 3 then h.s0 (Reg.TIME_CAP_STAT_ovf j) else h
    if bitOf w 4 then h.capturePop j else h
  | _ => h.fieldsWrite a w

def Hw.timeWrite (h : Hw) (a w master : Nat) : Hw :=
  if inRange a 0x40030100 0x400304FF then h.timerWrite ((a - 0x40030100) / 32) (a % 32) a w
  else if inRange a 0x40030800 0x400309FF then h.captWrite ((a - 0x40030800) / 32) (a % 32) a w
  else
    match a with
    | 0x40030000 => (h.timeCtrlWrite w).clkSync
    | 0x40030018 => (h.servoMeasure w).clkSync
    | 0x40030020 =>
      let v := bitsOf w 16 4
      if v ≤ 1 || 9 ≤ v then h.fieldsWrite a w else h.valueErr a master
    | 0x40030024 => if inRange (bitsOf w 0 30) 1000 1000000000 then h.fieldsWrite a w else h.valueErr a master
    | 0x40030028 => if inRange (bitsOf w 0 18) 1000 200000 then (h.fieldsWrite a w).steer else h.valueErr a master
    | _ => h.fieldsWrite a w

/-- MAC_CTRL (R345): speed and fec stay while the port is enabled; while it is, no test rate and no loopback of its lane
applies (`Hw.laneRate`, R347, R353), though LANE_CTRL keeps both fields (R380). -/
def Hw.macCtrl (h : Hw) (n w : Nat) : Hw :=
  let live := h.b (Reg.MAC_CTRL_en n)
  let moved := bitsOf w 1 1 != h.g (Reg.MAC_CTRL_speed n) || bitsOf w 2 1 != h.g (Reg.MAC_CTRL_fec n)
  let h := if live then (if moved then h.s1 (Reg.MAC_STAT_live_wr n) else h)
           else (h.p (Reg.MAC_CTRL_speed n) (bitsOf w 1 1)).p (Reg.MAC_CTRL_fec n) (bitsOf w 2 1)
  let h := ((h.p (Reg.MAC_CTRL_jumbo n) (bitsOf w 3 1)).p (Reg.MAC_CTRL_untag_ok n) (bitsOf w 4 1)).p
    (Reg.MAC_CTRL_slot_en n) (bitsOf w 5 1)
  h.p (Reg.MAC_CTRL_en n) (bitsOf w 0 1)

def Hw.macWrite (h : Hw) (n a w master : Nat) : Hw :=
  let o := a % 0x10000
  let live := h.b (Reg.MAC_CTRL_slot_en n)
  if o = 0 then h.macCtrl n w
  else if o = 0x84 then
    if !inRange (bitsOf w 0 30) 1000 1000000000 then h.valueErr a master
    else if live then h.s1 (Reg.MAC_STAT_live_wr n) else h.fieldsWrite a w
  else if o = 0x88 || o = 0x8C then (if live then h.s1 (Reg.MAC_STAT_live_wr n) else h.fieldsWrite a w)
  else if inRange o 0x100 0x1FF then h.s1 (Reg.MAC_STAT_act_wr n)
  else if inRange o 0x200 0x2FF then
    if h.b (Reg.MAC_SLOT_SWAP_swap_req n) then h.s1 (Reg.MAC_STAT_shd_wr n) else h.fieldsWrite a w
  else h.fieldsWrite a w

/-- The lane's function is enabled (R347). -/
def Hw.laneFnOn (h : Hw) (n : Nat) : Bool :=
  if n < 2 then h.b (Reg.MAC_CTRL_en n)
  else match laneLink n with
    | some k => h.b (Reg.GNOGO_LINK_CTRL_en k)
    | none => false

/-- LANE_CTRL (R347, R351–R354): a test rate or a loopback while the function is enabled, and L1 on lanes 0 and 1, are
discarded with live_wr; the other fields stand. -/
def Hw.laneCtrl (h : Hw) (n w master : Nat) : Hw :=
  let s := bitsOf w 0 2
  let rate := bitsOf w 9 4
  let lpbk := bitsOf w 3 2
  if s = 3 || 8 < rate then h.valueErr (0x40060000 + 0x40 * n) master
  else
    let on := h.laneFnOn n
    let h := (h.p (Reg.LANE_CTRL_auto_wake n) (bitsOf w 2 1)).p (Reg.LANE_CTRL_prbs_gen n) (bitsOf w 5 2)
    let h := h.p (Reg.LANE_CTRL_prbs_chk n) (bitsOf w 7 2)
    let h := if on && rate != 0 then h.s1 (Reg.LANE_STAT_live_wr n) else h.p (Reg.LANE_CTRL_rate n) rate
    let h := if on && lpbk != 0 then h.s1 (Reg.LANE_STAT_live_wr n) else h.p (Reg.LANE_CTRL_lpbk n) lpbk
    h.laneStateReq n s master

def Hw.laneWrite (h : Hw) (a w master : Nat) : Hw :=
  let n := (a - 0x40060000) / 0x40
  match a % 0x40 with
  | 0 => h.laneCtrl n w master
  | 4 =>
    let h := h.fieldsWrite a w
    if h.b (Reg.LANE_EQ_auto n) then h else h.p (Reg.LANE_STAT_ctle_act n) (h.g (Reg.LANE_EQ_ctle n))
  | _ => h.fieldsWrite a w

def Hw.gnogoWrite (h : Hw) (a w : Nat) : Hw :=
  if a < 0x40070100 then h.fieldsWrite a w
  else
    let k := (a - 0x40070100) / 0x40
    match a % 0x40 with
    | 0 => h.linkEnable k w
    | 0x0C =>
      if k < 5 then h
      else if h.b (Reg.GNOGO_LINK_CTRL_en k) then h.s1 (Reg.GNOGO_LINK_STAT_live_wr k) else h.fieldsWrite a w
    | _ => h.fieldsWrite a w

/-- A crosspoint or send, or an entry of the active schedule, enabled or not, references an endpoint (R139). -/
def Hw.endpointUsed (h : Hw) (dst : Bool) (e : Nat) : Bool :=
  let sends := ((h.tblUsed (h.tbl 1) 16 (sPlaces * 512)).map (fun p => h.xrec (h.sdAddr p))).filter XRec.live
  if dst then
    h.xpLive.any (fun x => x.2.dst == e)
      || (List.range 256).any (fun i =>
        let s := h.sched i
        s.kind == 1 && s.count != 0 && inRange e s.first (s.first + s.count - 1))
  else h.xpLive.any (fun x => x.2.src == e) || sends.any (fun x => x.src == e)

def Hw.joinWrite (h : Hw) (a w : Nat) : Hw :=
  if inRange a 0x40080020 0x4008003F then
    if h.b Reg.JOIN_CTRL_run then h.s1 Reg.JOIN_STATUS_live_wr else h.fieldsWrite a w
  else if a = 0x40080050 then
    let h := h.fieldsWrite a w
    if bitOf w 12 then h.changePush else h
  else if a = 0x40080000 then
    let h := h.fieldsWrite a w
    if h.b Reg.JOIN_CTRL_snap_en then h else h.snapRestart
  else if inRange a 0x40082000 0x400827FF then h.s1 Reg.JOIN_STATUS_act_wr
  else if inRange a 0x40082800 0x40082FFF then
    if h.b Reg.JOIN_SCHED_SWAP_swap_req then h.s1 Reg.JOIN_STATUS_shd_wr else h.fieldsWrite a w
  else if inRange a 0x40084000 0x40087FFF then
    if h.endpointUsed false ((a - 0x40084000) / 4) then h.s1 Reg.JOIN_STATUS_live_wr else h.fieldsWrite a w
  else if inRange a 0x40088000 0x4008BFFF then
    if h.endpointUsed true ((a - 0x40088000) / 4) then h.s1 Reg.JOIN_STATUS_live_wr else h.fieldsWrite a w
  else h.fieldsWrite a w

def Hw.sapWrite (h : Hw) (a w master : Nat) : Hw :=
  if a < 0x40098000 then
    let n := (a - 0x40090000) / 0x400
    let o := a % 0x400
    if o = 0 then h.sapCtrl n w master
    else if inRange o 0x100 0x1FF then h.s1 (Reg.SAP_STAT_act_wr n)
    else if inRange o 0x200 0x2FF then
      if h.b (Reg.SAP_SLOT_SWAP_swap_req n) then h.s1 (Reg.SAP_STAT_shd_wr n) else h.fieldsWrite a w
    else h.fieldsWrite a w
  else if a < 0x40099000 then
    let g := (a - 0x40098000) / 16
    if a % 16 = 0 then
      let h := (h.p (Reg.SAP_GRP_CTRL_src g) (bitsOf w 0 1)).p (Reg.SAP_GRP_CTRL_tmr g) (bitsOf w 1 5)
      if bitOf w 6 then h.groupArm g else h
    else h.fieldsWrite a w
  else if a = 0x40099000 then
    if 4 < bitsOf w 7 3 then h.valueErr a master else h.fieldsWrite a w
  else
    let p := h.ports
    let h := h.fieldsWrite a w
    if a = 0x40099008 then { h with ports := { p with vcxoDriven := true } } else h

def Hw.aesWrite (h : Hw) (a w : Nat) : Hw :=
  let i := a / 0x100 % 8
  let o := a % 0x100
  if a < 0x400A1000 then
    if o = 0 then
      let was := h.b (Reg.AES_RX_CTRL_en i)
      let h := h.fieldsWrite a w
      let h := if was && !bitOf w 0 then h.aesRxOff i else h
      h.fnSet 0x08 i was (bitOf w 0)
    else h.fieldsWrite a w
  else if o = 0 then
    let was := h.b (Reg.AES_TX_CTRL_en i)
    let h := (h.fieldsWrite a w).fnSet 0x09 i was (bitOf w 0)
    if was && !bitOf w 0 then (match h.txGroup i with
      | some g => h.groupCheck g
      | none => h) else h
  else if inRange o 0x20 0x4F then h.s1 (Reg.AES_TX_STAT_act_wr i)
  else if inRange o 0x50 0x7F then
    if h.b (Reg.AES_TX_CS_SWAP_swap_req i) then h.s1 (Reg.AES_TX_STAT_shd_wr i) else h.fieldsWrite a w
  else h.fieldsWrite a w

def Hw.asrcWrite (h : Hw) (a w : Nat) : Hw :=
  if a % 16 = 0 then h.asrcCtrl ((a - 0x400B0000) / 16) w else h.fieldsWrite a w

def Hw.pinmuxWrite (h : Hw) (a w master : Nat) : Hw :=
  if a < 0x400C2000 then h.pinWrite ((a - 0x400C0000) / 4) w master
  else if a = 0x400C3008 then h.gpioOe (bitsOf w 0 16)
  else h.fieldsWrite a w

def Hw.faultWrite (h : Hw) (a w master : Nat) : Hw :=
  let ok :=
    if a = 0x400D0008 then inRange (bitsOf w 0 16) 100 60000
    else if a = 0x400D0010 then bitsOf w 1 8 != 0
    else if inRange a 0x400D0020 0x400D003F then inRange (bitsOf w 0 10) 1 1000
    else if inRange a 0x400D0400 0x400D07FF then bitsOf w 0 2 != 3
    else true
  if ok then h.fieldsWrite a w else h.valueErr a master

def Hw.mbxWrite (h : Hw) (a w : Nat) : Hw :=
  match a with
  | 0x400F0014 => if bitOf w 0 then h.doorbell else h
  | 0x400F0030 => h.hostMute w
  | 0x400F0034 => h.ampMaster w
  | _ => h.fieldsWrite a w

def Hw.twinWrite (h : Hw) (a w master : Nat) : Hw :=
  match a with
  | 0x400E0000 => h.twinCtrl w
  | 0x400E0008 => if inRange (bitsOf w 4 10) 10 1000 then h.fieldsWrite a w else h.valueErr a master
  | _ => h.fieldsWrite a w

/-- CLK_REF_CFG (R421) (DEDUCED, log entry 33). -/
def Hw.refCfg (h : Hw) (r a w master : Nat) : Hw :=
  if bitsOf w 3 4 = 15 || (inRange r 2 5 && bitsOf w 1 2 = 3) then h.valueErr a master
  else
    let h := ((h.p (Reg.CLK_REF_CFG_kind r) (bitsOf w 1 2)).p (Reg.CLK_REF_CFG_qual r) (bitsOf w 3 4)).p
      (Reg.CLK_REF_CFG_prio r) (bitsOf w 7 8)
    let h := (h.p (Reg.CLK_REF_CFG_port_aes r) (bitsOf w 15 1)).p (Reg.CLK_REF_CFG_unit r) (bitsOf w 16 5)
    h.refEnable r (bitOf w 0)

def Hw.clkWrite (h : Hw) (a w master : Nat) : Hw :=
  let byte := fun i => bitsOf w (8 * i) 8 != 0
  if inRange a 0x40100100 0x401001EF then
    let r := (a - 0x40100100) / 16
    match a % 16 with
    | 0 => h.refCfg r a w master
    | 4 => if bitsOf w 0 12 ≤ 3600 then h.fieldsWrite a w else h.valueErr a master
    | _ => h.fieldsWrite a w
  else
    match a with
    | 0x40100000 => h.clkCtrl w master
    | 0x40100008 => if byte 0 && byte 1 && byte 2 && byte 3 then h.fieldsWrite a w else h.valueErr a master
    | 0x4010000C => if byte 0 && byte 1 then h.fieldsWrite a w else h.valueErr a master
    | 0x40100014 => (h.fieldsWrite a w).steer
    | _ => h.fieldsWrite a w

/-- The stated ranges of an amplifier channel's register (R439, R425). -/
def ampRangeOk (off w : Nat) : Bool :=
  match off with
  | 0x04 => inRange (bitsOf w 15 7) 10 100
  | 0x08 => inRange (bitsOf w 0 10) 300 600 && inRange (bitsOf w 10 10) 150 600 && inRange (bitsOf w 20 10) 150 600
  | 0x10 => inRange (bitsOf w 0 10) 10 500 && inRange (bitsOf w 10 8) 1 255
  | _ => true

def Hw.ampWrite (h : Hw) (a w master : Nat) : Hw :=
  if inRange a 0x40110100 0x401104FF then
    let c := (a - 0x40110100) / 0x40
    let o := a % 0x40
    if !ampRangeOk o w then h.valueErr a master
    else if o = 0 then h.ampCtrl c w
    else if (o = 0x08 || o = 0x0C) && h.ampState c != 0 then h.s1 (Reg.AMP_STAT_live_wr c)
    else h.fieldsWrite a w
  else if inRange a 0x40110040 0x4011007F then
    if inRange (bitsOf w 0 15) 100 30000 && inRange (bitsOf w 15 5) 5 20 then h.fieldsWrite a w else h.valueErr a master
  else h.fieldsWrite a w

def Hw.boostWrite (h : Hw) (a w master : Nat) : Hw :=
  let g := (a - 0x40120000) / 0x40
  let live := h.b (Reg.BOOST_CTRL_en g)
  match a % 0x40 with
  | 0x00 =>
    let la := bitsOf w 1 2
    if la = 3 || !inRange (bitsOf w 3 9) 100 500 then h.valueErr a master
    else
      let h := if live && la != h.g (Reg.BOOST_CTRL_la_extra g) then h.s1 (Reg.BOOST_STAT_live_wr g)
               else h.p (Reg.BOOST_CTRL_la_extra g) la
      ((h.p (Reg.BOOST_CTRL_fsw g) (bitsOf w 3 9)).p (Reg.BOOST_CTRL_en g) (bitsOf w 0 1)).boostUpdate g
  | 0x04 =>
    let lo := bitsOf w 0 15
    let hi := bitsOf w 16 15
    if !(inRange lo 5120 19200 && inRange hi 5120 19200 && decide (lo ≤ hi)
        && decide (hi + 640 ≤ h.g (Reg.BOOST_OVP_ovp g))) then h.valueErr a master
    else if live then h.s1 (Reg.BOOST_STAT_live_wr g) else h.fieldsWrite a w
  | 0x08 => if bitsOf w 0 12 != 0 && bitsOf w 12 12 != 0 then h.fieldsWrite a w else h.valueErr a master
  | 0x0C =>
    let v := bitsOf w 0 15
    if v ≤ 20480 && h.g (Reg.BOOST_RAIL_v_max g) + 640 ≤ v && bitsOf w 15 8 != 0 then h.fieldsWrite a w
    else h.valueErr a master
  | 0x10 => if live then h.s1 (Reg.BOOST_STAT_live_wr g) else (h.fieldsWrite a w).boostUpdate g
  | 0x14 => if bitsOf w 0 8 < bitsOf w 8 8 then h.fieldsWrite a w else h.valueErr a master
  | _ => h.fieldsWrite a w

def Hw.monWrite (h : Hw) (a w master : Nat) : Hw :=
  if a = 0x40130008 && !inRange (bitsOf w 0 16) 1000 60000 then h.valueErr a master else h.fieldsWrite a w

/-- BIST_CTRL and BIST_PMASK (R526); the start itself is taken in Machine/Settle.lean. -/
def Hw.bistWrite (h : Hw) (a w master : Nat) : Hw :=
  if (a = 0x40200000 || a = 0x40200008) && h.g Reg.BIST_STAT_state = 1 then h.valueErr a master
  else h.fieldsWrite a w

/-! ### Truss core control (R84, R97, R100) -/

/-- TRUSS_HALT_REQ: honoured at the next bundle boundary of a running task, only while the debug window is unlocked (R100);
writing 0 lets a halted core go on (DEDUCED, log entry 47). -/
def Hw.haltReq (h : Hw) (n : Nat) (halt : Bool) : Hw :=
  let h := h.p (Reg.TRUSS_CTRL_halt_req n) (b2n halt)
  if halt then h.haltDue n
  else if (h.core n).halted then
    let h := h.modCore n (fun c => { c with halted := false })
    if (h.core n).entry.isSome then h.setRun n 2 else Hw.startNext 33 (h.setRun n 1) n
  else h

/-- TRUSS_STEP: one bundle on a halted core. -/
def Hw.trussStep (h : Hw) (n : Nat) : Hw :=
  if (h.core n).halted && (h.core n).entry.isSome then (h.bundle n).s0 (Reg.TRUSS_CTRL_step n) else h.s0 (Reg.TRUSS_CTRL_step n)

def Hw.trussWrite (h : Hw) (a w master : Nat) : Hw :=
  if a < 0x4022A000 then
    let n := (a - 0x40220000) / 0x1000
    let o := a % 0x1000
    if o = 0 then
      let h := h.p (Reg.TRUSS_CTRL_run_en n) (bitsOf w 0 1)
      if bitOf w 2 then
        let was := h.b (Reg.TRUSS_CTRL_halt_req n)
        let h := (h.s1 (Reg.TRUSS_CTRL_step n)).trussStep n
        if bitOf w 1 || was then h.haltReq n (bitOf w 1) else h
      else h.haltReq n (bitOf w 1)
    else if inRange o 0x400 0x5FF then h.s1 (Reg.TRUSS_STATUS_act_wr n)
    else if inRange o 0x800 0x9FF then
      if h.b (Reg.TRUSS_TL_SWAP_swap_req n) then h.s1 (Reg.TRUSS_STATUS_shd_wr n) else h.fieldsWrite a w
    else h.fieldsWrite a w
  else if a = 0x4022A010 || a = 0x4022A020 then
    let b := (a - 0x4022A010) / 16
    if 8 < bitsOf w 0 4 then h.valueErr a master
    else if bitOf w 4 then h.bentFreqReq b (bitsOf w 0 4) master
    else h.p (Reg.TRUSS_BENT_OP_freq_code b) (bitsOf w 0 4)
  else h.fieldsWrite a w

/-- A 32-bit write of a register whose reserved fields are respected: what each block does with it. -/
def Hw.regRule (h : Hw) (a w master : Nat) : Hw :=
  if (regAt a).isNone then h
  else
    match a / 0x10000 with
    | 0x4000 => h.sysWrite a w
    | 0x4001 => h.xbarWrite a w master
    | 0x4002 => h.dmaWrite a w master
    | 0x4003 => h.timeWrite a w master
    | 0x4004 => h.macWrite 0 a w master
    | 0x4005 => h.macWrite 1 a w master
    | 0x4006 => h.laneWrite a w master
    | 0x4007 => h.gnogoWrite a w
    | 0x4008 => h.joinWrite a w
    | 0x4009 => h.sapWrite a w master
    | 0x400A => h.aesWrite a w
    | 0x400B => h.asrcWrite a w
    | 0x400C => h.pinmuxWrite a w master
    | 0x400D => h.faultWrite a w master
    | 0x400E => h.twinWrite a w master
    | 0x400F => h.mbxWrite a w
    | 0x4010 => h.clkWrite a w master
    | 0x4011 => h.ampWrite a w master
    | 0x4012 => h.boostWrite a w master
    | 0x4013 => h.monWrite a w master
    | 0x4020 => h.bistWrite a w master
    | 0x4022 => h.trussWrite a w master
    | _ => h.fieldsWrite a w

/-- The dealer's writes at a switch: amplifier and boost values are written under R260 as they stand, the others over
the register bus by the dealer core. -/
def Hw.dealWrites (h : Hw) (ws : List (Nat × Word)) : Hw :=
  ws.foldl (fun h e =>
    if inRange e.1 0x40110000 0x4012FFFF then h.rawWrite e.1 e.2.toNat else h.regRule e.1 e.2.toNat 0x0A) h

end Sys2Proof.Machine
end

