-- ==== Sys2Proof/Machine/Plan.lean ====
section
/-! DEFINITION. The Aedza plan (R196–R200): its file, its records, its modules' costs, and the first step of the placer
(R202). -/

namespace Sys2Proof.Machine

/-! ### Refusals (R218) -/

def rFormat : Nat := 1
def rRecordBad : Nat := 2
def rDupId : Nat := 3
def rDangling : Nat := 4
def rModule : Nat := 5
def rRate : Nat := 6
def rCycle : Nat := 7
def rSpec : Nat := 8
def rEngine : Nat := 9
def rConstraint : Nat := 0x0A
def rRouter : Nat := 0x0B
def rStream : Nat := 0x0C
def rCompute : Nat := 0x0D
def rSync : Nat := 0x0E
def rSpare : Nat := 0x0F
def rTwin : Nat := 0x10
def rCoreMem : Nat := 0x11
def rDeckMem : Nat := 0x12
def rShaping : Nat := 0x13
def rEarly : Nat := 0x14
def rAlign : Nat := 0x15
def rPin : Nat := 0x16
def rShared : Nat := 0x17
def rWindows : Nat := 0x18
def rPending : Nat := 0x19

/-- A refusal: its reason, the records it names, and what was needed and available where the reason has a unit (R218). -/
structure Refused where
  reason : Nat
  recs : List Nat := []
  detail : Option (Nat × Nat) := none
deriving DecidableEq, Repr

/-- The refusal body: reason, the records named, and the detail. -/
def refusal (reason : Nat) (recs : List Nat) (detail : Nat) : List Byte :=
  let r := recs.take 8
  leBytes 2 reason ++ leBytes 2 r.length ++ r.flatMap (leBytes 4) ++ leBytes 8 detail

/-! ### The plan file (R196–R199) -/

structure PlanRec where
  type : Nat
  id : Nat
  bytes : List Byte
deriving DecidableEq, Repr

def PlanRec.n (r : PlanRec) (o n : Nat) : Nat := leNat ((r.bytes.drop o).take n)

/-- The records of a plan's body; none where a record is cut short or does not start on a 4-byte boundary. -/
def planRecs : Nat → List Byte → Option (List PlanRec)
  | _, [] => some []
  | 0, _ => none
  | f + 1, b =>
    let len := leNat ((b.drop 2).take 2)
    if len < 8 || len % 4 != 0 || b.length < len then none
    else (planRecs f (b.drop len)).map (fun t => ⟨leNat (b.take 2), leNat ((b.drop 4).take 4), b.take len⟩ :: t)

def insRec (r : PlanRec) : List PlanRec → List PlanRec
  | [] => [r]
  | x :: t => if r.id < x.id then r :: x :: t else x :: insRec r t

/-- The records of a plan in ascending rec_id order (R197). -/
def recordsOf (b : List Byte) : List PlanRec := ((planRecs b.length (b.drop 32)).getD []).foldr insRec []

/-- A record has a known type and the length of its type (R198). -/
def PlanRec.lenOk (r : PlanRec) : Bool :=
  let l := r.bytes.length
  match r.type with
  | 1 | 2 | 3 | 8 => l = 24
  | 4 | 7 | 9 => l = 16
  | 5 | 6 => l = 28
  | 10 => l = (20 + r.n 18 2 + 3) / 4 * 4
  | 11 => l = 76 + r.n 72 4 && r.n 72 4 % 8 = 0 && r.n 72 4 ≤ 65536
  | _ => false

/-- Values of a record that R198, R199 and R206 bound, and its reserved fields (RECORD_BAD), for a block size. -/
def PlanRec.valuesOk (bs : Nat) (r : PlanRec) : Bool :=
  match r.type with
  | 1 => (r.n 14 1 ≤ 50 || r.n 14 1 = 255) && ((10 ≤ r.n 15 1 && r.n 15 1 ≤ 100) || r.n 15 1 = 255)
      && ((4 ≤ r.n 16 1 && r.n 16 1 ≤ 8) || r.n 16 1 = 255) && r.n 17 7 = 0
  | 2 => 1 ≤ r.n 8 1 && r.n 8 1 ≤ 6 && 1 ≤ r.n 16 2 && r.n 16 2 ≤ 256
  | 3 => 1 ≤ r.n 8 2 && r.n 17 1 ≤ 100 && r.n 18 2 < 4 && r.n 20 4 = 0
  | 4 => r.n 11 1 = 0
  | 5 => 1 ≤ r.n 8 1 && r.n 8 1 ≤ 7 && 1 ≤ r.n 16 2 && r.n 16 2 ≤ 256 && r.n 22 2 = 0
  | 6 => 1 ≤ r.n 20 2 && r.n 20 2 ≤ 256 && r.n 22 2 = 0
  | 7 => r.n 8 4 % bs = 0 && r.n 12 4 = 0
  | 8 => 1 ≤ r.n 8 2 && r.n 8 2 ≤ 6 && r.n 10 2 = 0
  | 9 => r.n 10 2 < 1444
  | _ => true

/-- The records that a record refers to, with the types that each may have (DANGLING). A constraint names engines by their
ENGINE records (DEDUCED, log entry 68). -/
def PlanRec.refs (r : PlanRec) : List (Nat × List Nat) :=
  match r.type with
  | 2 => if r.n 20 4 = 0 then [] else [(r.n 20 4, [7])]
  | 6 => [(r.n 8 4, [2, 3, 4]), (r.n 12 4, [3, 4, 5])]
  | 8 =>
    match r.n 8 2 with
    | 1 | 2 => [(r.n 12 4, [2, 3, 4, 5]), (r.n 16 4, [2, 3, 4, 5])]
    | 3 => [(r.n 12 4, [3]), (r.n 16 4, [3])]
    | 4 => [(r.n 12 4, [1]), (r.n 16 4, [1])]
    | 5 => [(r.n 12 4, [3])]
    | _ => [(r.n 12 4, [1])]
  | 10 => [(r.n 8 4, [1, 2, 3, 4, 5, 6, 7, 8, 9, 10, 11])]
  | _ => []

/-- The plan staging area as one file, where it has arrived whole. -/
def Hw.planFile (h : Hw) : List Byte :=
  let n := leNat ((List.range 4).map (fun i => (chunkByte h.deal.plan (8 + i)).getD 0))
  if chunksHold h.deal.plan n then (List.range n).map (fun i => (chunkByte h.deal.plan i).getD 0) else []

/-! ### Modules and their costs (R200) -/

/-- The costs that R200 lists at 96 kHz with 8-sample blocks: div, per_group, warm_kind and the cycles. -/
def listedCost (mtype : Nat) : Option (Nat × Nat × List Nat) :=
  let fir := fun (a b c : Nat) => some (16, 1, a :: (List.range 15).map (fun i => if (i + 1) % 4 = 2 then b else c))
  match mtype with
  | 0x10 => some (1, 2, [773])
  | 0x11 => some (1, 2, [460])
  | 0x20 => some (1, 1, [48])
  | 0x21 => some (1, 1, [300])
  | 0x30 => fir 5552 2412 1400
  | 0x31 => fir 9220 3080 1400
  | 0x32 => fir 10780 4700 2776
  | 0x40 => some (1, 0, [96])
  | 0x41 => some (1, 0, [180])
  | _ => none

/-- The CODE record of a custom module; a version of 0 takes any. -/
def codeOf (rs : List PlanRec) (mtype mver : Nat) : Option PlanRec :=
  rs.find? (fun r => r.type = 11 && r.n 8 2 = mtype && (mver = 0 || r.n 10 2 = mver))

/-- A cost declaration: of a CODE record of the plan, or of the library, where R200's figures stand in it; empty for no such
module. -/
def costBytes (rs : List PlanRec) (rate blk mtype mver : Nat) : List Byte :=
  match codeOf rs mtype mver with
  | some r => sliceB r.bytes 12 60
  | none =>
    if 0x8000 ≤ mtype then []
    else
      let b := Config.moduleCost mtype mver rate blk
      match listedCost mtype with
      | some (div, warm, cyc) =>
        let b := padB 60 b
        if rate = 3 && blk = 1 then
          leBytes 1 div ++ leBytes 1 32 ++ sliceB b 2 1 ++ leBytes 1 warm ++ sliceB b 4 24 ++ padB 32 (cyc.flatMap (leBytes 2))
        else b
      | none => if b.isEmpty then [] else padB 60 b

/-- The fields of a cost declaration that the placer reads. -/
structure Cost where
  div : Nat
  perGroup : Nat
  lsWords : Nat
  ckpt : Nat
  latency : Nat
  x : Nat
  y : Nat
  bent : Nat
  shaping : Nat
  cyc : List Nat
deriving DecidableEq, Repr

def costOfBytes (b : List Byte) : Cost :=
  let f := fun (o n : Nat) => leNat (sliceB b o n)
  let div := min (max (f 0 1) 1) 16
  { div := div, perGroup := min (max (f 1 1) 1) 32, lsWords := f 4 2, ckpt := f 6 2, latency := f 8 2, x := f 12 4, y := f 16 4,
    bent := f 20 4, shaping := f 24 4, cyc := (List.range div).map (fun i => f (28 + 2 * i) 2) }

/-- The bundles of a CODE record are legal (R81). -/
def codeLegal (r : PlanRec) : Bool :=
  (List.range (r.n 72 4 / 8)).all (fun i => (decBundle (leNat (sliceB r.bytes (76 + 8 * i) 8))).isSome)

/-- A module's type is known: a library module with a cost, or custom code whose bundles are legal (MODULE_UNKNOWN). -/
def moduleKnown (rs : List PlanRec) (rate blk : Nat) (r : PlanRec) : Bool :=
  let mt := r.n 8 2
  match codeOf rs mt (r.n 10 2) with
  | some c => 0x8000 ≤ mt && codeLegal c
  | none => mt < 0x8000 && !(costBytes rs rate blk mt (r.n 10 2)).isEmpty

/-! ### Limiter settings (R157, R432) -/

/-- Offset and length of each field of a limiter record (R157). -/
def limField (k : Nat) : Option (Nat × Nat) :=
  [(0, 2), (2, 2), (4, 1), (5, 1), (6, 1), (8, 4), (12, 2), (14, 2), (16, 4), (20, 2)][k - 1]?

/-- The ranges of a limiter record (R157). -/
def limBytesOk (b : List Byte) : Bool :=
  let f := fun o n => leNat (sliceB b o n)
  f 0 2 < 4096 && f 2 2 < 4096 && f 5 1 < 64 && f 6 1 ≤ 64 && 1 ≤ f 8 4 && f 8 4 < 2 ^ 31 && 1 ≤ f 12 2 && f 12 2 ≤ 2000
    && f 14 2 ≤ 500 && (!bitOf (f 5 1) 2 || (1 ≤ f 16 4 && f 16 4 < 2 ^ 31))

/-- Bytes with a field replaced. -/
def setField (b : List Byte) (off len v : Nat) : List Byte := b.take off ++ leBytes len v ++ b.drop (off + len)

/-- A limiter record whose every field is in range. -/
def limSample : List Byte :=
  leBytes 8 0 ++ leBytes 4 1 ++ leBytes 2 1 ++ leBytes 2 0 ++ leBytes 4 1 ++ leBytes 12 0

/-- The limiter settings that a plan makes: sink, channel index, offset and length of the field, length and value given. -/
def limSettings (rs : List PlanRec) : List (Nat × Nat × (Nat × Nat) × Nat × Nat) :=
  (rs.filter (fun p => p.type = 10 && p.n 15 1 = 6)).filterMap (fun p =>
    (limField (Config.paramNo 6 (p.n 13 2) (p.n 12 1))).map (fun f => (p.n 8 4, p.n 16 2, f, p.n 18 2, p.n 20 (p.n 18 2))))

/-- The limiter record that a plan gives a channel of a sink. -/
def limPlanned (rs : List PlanRec) (sink i : Nat) : List Byte :=
  ((limSettings rs).filter (fun e => e.1 = sink && e.2.1 = i)).foldl (fun b e => setField b e.2.2.1.1 e.2.2.1.2 e.2.2.2.2) limSample

/-- K of a boost group in samples: the plan's la_extra, or the register's (R432, R433). -/
def Hw.planLook (h : Hw) (rs : List PlanRec) (bs g : Nat) : Nat :=
  let set := rs.find? (fun p => p.type = 10 && p.n 15 1 = 0x32 && p.n 13 2 = g && Config.paramNo 0x32 g (p.n 12 1) = 1)
  (1 + (set.map (fun p => p.n 20 (p.n 18 2))).getD (h.g (Reg.BOOST_CTRL_la_extra g))) * bs

/-- SINK records for which a plan sets a limiter value out of range, or another boost group than the amplifier channel's, or a
look-ahead below K on a rail-coupled limiter, or a sink lead other than that of the group's first amplifier sink (R157, R432,
R433). Of other engines the boost groups are not known here (log entry 68). -/
def Hw.limiterBad (h : Hw) (bs : Nat) (rs : List PlanRec) : List Nat :=
  let amps := rs.filter (fun r => r.type = 5 && r.n 8 1 = 7 && r.n 10 2 = h.ownId)
  let group := fun (r : PlanRec) (i : Nat) => h.g (Reg.AMP_CFG_group (min (r.n 14 2 + i) 15))
  ((limSettings rs).filter (fun e => e.2.2.2.1 != e.2.2.1.2 || !limBytesOk (setField limSample e.2.2.1.1 e.2.2.1.2 e.2.2.2.2))).map
      (·.1)
    ++ (amps.filter (fun r => (List.range (r.n 16 2)).any (fun i =>
        let b := limPlanned rs r.id i
        let ctl := leNat (sliceB b 5 1)
        (limSettings rs).any (fun e => e.1 = r.id && e.2.1 = i && e.2.2.1.1 = 5) &&
          (ctl / 8 % 4 != group r i || (bitOf ctl 2 && leNat (sliceB b 6 1) < h.planLook rs bs (group r i)))))).map (·.id)
    ++ (amps.filter (fun r => (amps.find? (fun s => group s 0 = group r 0)).any (fun s =>
        s.n 24 4 != r.n 24 4 || s.n 20 2 != r.n 20 2))).map (·.id)

/-! ### Step 1 (R202) -/

/-- Step 1 of the placer: FORMAT, RECORD_BAD, DUP_ID, DANGLING, MODULE_UNKNOWN, RATE, in that order and by rising rec_id, the
refusal with the records named (R196–R202). `rate` is the rate and block size that the plan must have, if any, and `bad` finds
records whose parameters are out of range. -/
def planStep1 (b : List Byte) (rate : Option (Nat × Nat)) (bad : List PlanRec → List Nat) : Option Refused :=
  let f := fun (o n : Nat) => leNat ((b.drop o).take n)
  let crc := crc32c (b.take 28 ++ [0, 0, 0, 0] ++ b.drop 32)
  if b.length < 64 || b.length > 2097152 || f 0 4 != 0x415A4431 || f 4 2 != 1 || f 8 4 != b.length || f 28 4 != crc then
    some { reason := rFormat }
  else
    match planRecs b.length (b.drop 32) with
    | none => some { reason := rRecordBad }
    | some rs =>
      let ids := rs.map (·.id)
      let low := fun (l : List PlanRec) => (l.map (·.id)).min?
      let bs := 4 * 2 ^ f 21 1
      match ((rs.filter (fun r => !r.lenOk || !r.valuesOk bs)).map (·.id) ++ bad rs).min? with
      | some i => some { reason := rRecordBad, recs := [i] }
      | none =>
        if rs.length != f 12 4 || f 6 2 != 0 || f 22 6 != 0 then some { reason := rRecordBad }
        else
          match (ids.filter (fun i => i = 0 || decide (1 < (ids.filter (· = i)).length))).min? with
          | some i => some { reason := rDupId, recs := [i] }
          | none =>
            match low (rs.filter (fun r => r.refs.any (fun e => !rs.any (fun x => x.id = e.1 && e.2.contains x.type)))) with
            | some i => some { reason := rDangling, recs := [i] }
            | none =>
              match low (rs.filter (fun r => r.type = 3 && !moduleKnown rs (f 20 1) (f 21 1) r)) with
              | some i => some { reason := rModule, recs := [i] }
              | none =>
                match rate with
                | some (r, k) => if f 20 1 != r || f 21 1 != k then some { reason := rRate } else none
                | none => if f 20 1 > 5 || f 21 1 > 3 then some { reason := rRate } else none

end Sys2Proof.Machine
end

