-- ==== Sys2Proof/Machine/Placer.lean ====
section
/-! DEFINITION. The manager's placer, steps 2 to 8 (R201–R217): the graph, the engines, latency lining, packing, memory, pins
and windows, spare and twins, with the refusals of R218 in the order of R202. The points that the spec leaves to the placer
are in log entry 68. -/

namespace Sys2Proof.Machine

/-! ### Work on a core (R87, R210, R211): shared with the local placer of an engine -/

/-- A group of a module, or a task, on a core: its cycles at the ticks after its phase tick, one for each tick of its divider,
that phase, whether it consumes a speculative stream, and its checkpoint words. -/
structure Work where
  cycles : List Nat
  phase : Nat
  spec : Bool
  ckpt : Nat
deriving DecidableEq, Repr

def Work.div (w : Work) : Nat := max w.cycles.length 1

def Work.peak (w : Work) : Nat := w.cycles.foldl max 0

/-- Scheduled execution at tick p modulo 16 (R83, R200). -/
def loadAt (ws : List Work) (p : Nat) : Nat :=
  (ws.map (fun w => w.cycles.getD ((p + w.div - w.phase % w.div) % w.div) 0)).sum

/-- The replay reserve of a core (R51, R211). -/
def replayReserve (pct : Nat) (ws : List Work) : Nat :=
  let s := ws.filter (·.spec)
  max (ceilDiv (pct * (s.map (·.peak)).sum) 100) ((s.map (·.ckpt)).foldl max 0)

/-- The load of a core: its highest phase sum with the 5-cycle wake, the crossbar yield and the replay reserve (R210, R216). -/
def schedLoad (pct : Nat) (ws : List Work) : Nat :=
  let r := replayReserve pct ws
  ((List.range 16).map (fun p => let e := loadAt ws p; e + 5 + ceilDiv e 16 + r)).foldl max 0

def corePeak (ws : List Work) : Nat := ((List.range 16).map (loadAt ws)).foldl max 0

/-- The work of a core fits its cycles per tick, and its dividers have a common multiple of at most 16 (R210). -/
def workFits (cycles pct : Nat) (ws : List Work) : Bool :=
  schedLoad pct ws ≤ cycles && (ws.map Work.div).foldl Nat.lcm 1 ≤ 16

/-- Core cycles of one block period at a frequency code (R87, R90). -/
def blockCycles (code bs fs : Nat) : Nat := (200 + 50 * code) * 1000000 * bs / fs

/-! ### What the placer sees (R201) -/

/-- The resource state, and the running deal: this engine, the engines enrolled, the fenced cores of each, hops and measured
delay between two, the line rate in Mb/s of a port, this engine's balls that have an owner outside the plans, the rate and block
codes, and the running plan with its placement. -/
structure Res where
  own : Nat
  enrolled : List Nat
  fence : Nat → Nat
  hops : Nat → Nat → Nat
  delayNs : Nat → Nat → Nat
  line : Nat → Nat → Nat
  balls : List Nat
  rate : Nat
  blk : Nat
  fs : Nat
  bs : Nat
  old : Placement
  oldRecs : List PlanRec

/-- A core of an engine is fenced. -/
def Res.fenced (x : Res) (e c : Nat) : Bool := bitOf (x.fence e) c

def ofType (rs : List PlanRec) (t : Nat) : List PlanRec := rs.filter (fun r => r.type = t)

def recOf (rs : List PlanRec) (i : Nat) : Option PlanRec := rs.find? (fun r => r.id = i)

def isType (rs : List PlanRec) (i t : Nat) : Bool := (recOf rs i).any (fun r => r.type = t)

/-- The engine that a source, module, bus or sink names, if any (R198, R205). -/
def PlanRec.engineField (r : PlanRec) : Option Nat :=
  match r.type with
  | 2 | 5 => some (r.n 10 2)
  | 3 => if r.n 12 2 = 0xFFFF then none else some (r.n 12 2)
  | 4 => if r.n 8 2 = 0xFFFF then none else some (r.n 8 2)
  | _ => none

def engineRec (rs : List PlanRec) (e : Nat) : Option PlanRec := (ofType rs 1).find? (fun r => r.n 8 2 = e)

/-- A figure of an engine's ENGINE record, or its default (R198). -/
def engineFig (rs : List PlanRec) (e off dflt : Nat) : Nat :=
  match engineRec rs e with
  | some r => if r.n off 1 = 255 then dflt else r.n off 1
  | none => dflt

def twinOf (rs : List PlanRec) (e : Nat) : Option Nat :=
  (engineRec rs e).bind (fun r => if r.n 10 2 = 0xFFFF then none else some (r.n 10 2))

/-- A twin pair counts as one engine (R205). -/
def canonEng (rs : List PlanRec) (e : Nat) : Nat := min e ((twinOf rs e).getD e)

/-- The cores that the placer may use on an engine (R198): the unfenced ones of its mask, less the highest for the test seat of
a twin pair (R217). -/
def coresOf (x : Res) (rs : List PlanRec) (e : Nat) : List Nat :=
  let mask := match engineRec rs e with
    | some r => if r.n 12 2 % 1024 = 0 then 1023 else r.n 12 2
    | none => 1023
  let unfenced := (List.range 10).filter (fun c => !x.fenced e c)
  let seat := if (twinOf rs e).isSome then unfenced.getLast? else none
  unfenced.filter (fun c => bitOf mask c && some c != seat)

def moduleCostOf (x : Res) (rs : List PlanRec) (r : PlanRec) : Cost :=
  costOfBytes (costBytes rs x.rate x.blk (r.n 8 2) (r.n 10 2))

/-! ### The graph (R203) -/

/-- An EDGE record's channels. -/
structure Arc where
  edge : Nat
  src : Nat
  dst : Nat
  srcCh : Nat
  dstCh : Nat
  count : Nat
deriving DecidableEq, Repr

def planArcs (rs : List PlanRec) : List Arc :=
  (ofType rs 6).map (fun r => ⟨r.id, r.n 8 4, r.n 12 4, r.n 16 2, r.n 18 2, r.n 20 2⟩)

/-- What can be reached from a set of records, itself included. -/
def reachSet (as : List Arc) : Nat → List Nat → List Nat
  | 0, s => s
  | f + 1, s =>
    let new := ((as.filter (fun a => s.contains a.src && !s.contains a.dst)).map (·.dst)).dedup
    if new.isEmpty then s else reachSet as f (s ++ new)

/-- What lies one or more connections after a record. -/
def after (as : List Arc) (i : Nat) : List Nat :=
  reachSet as as.length ((as.filter (fun a => a.src = i)).map (·.dst)).dedup

/-- The delays that the plan sets on the taps of a delay module, by tap, in 1/64 sample (R175). -/
def tapParams (rs : List PlanRec) (i : Nat) : List (Nat × Nat) :=
  match recOf rs i with
  | some m =>
    if m.n 8 2 != 0x20 && m.n 8 2 != 0x21 then []
    else (ofType rs 10).filterMap (fun p =>
      if p.n 8 4 = i && p.n 15 1 = 0x10 && p.n 13 2 = m.n 8 2 && Config.paramNo 0x10 (p.n 13 2) (p.n 12 1) = 1 then
        some (p.n 16 2, p.n 20 (p.n 18 2))
      else none)
  | none => []

/-- A delay module all of whose taps delay by a block or more. -/
def delaysBlock (bs : Nat) (rs : List PlanRec) (i : Nat) : Bool :=
  let t := tapParams rs i
  !t.isEmpty && t.all (fun e => bs ≤ e.2 / 64)

/-- A connection that passes through a kitty, between engines that the plan names, or a delay line of a block (R203). -/
def arcDelays (bs : Nat) (rs : List PlanRec) (a : Arc) : Bool :=
  delaysBlock bs rs a.src ||
    match (recOf rs a.src).bind PlanRec.engineField, (recOf rs a.dst).bind PlanRec.engineField with
    | some e, some f => canonEng rs e != canonEng rs f
    | _, _ => false

/-- CYCLE: the records of the cycle on which the lowest lies. -/
def checkCycle (bs : Nat) (rs : List PlanRec) : Option Refused :=
  let as := (planArcs rs).filter (fun a => !arcDelays bs rs a)
  match rs.find? (fun r => (after as r.id).contains r.id) with
  | some r => some { reason := rCycle, recs := (rs.map (·.id)).filter (fun i =>
      (after as r.id).contains i && (after as i).contains r.id) }
  | none => none

/-- The connections in which a record's work waits for another's of the same epoch: all but those that close a loop. -/
def forwardArcs (bs : Nat) (rs : List PlanRec) : List Arc :=
  let as := planArcs rs
  as.filter (fun a => !(arcDelays bs rs a && (a.dst = a.src || (after as a.dst).contains a.src)))

/-- SPEC_INVALID: the flag on a source that R42 does not admit speculatively. -/
def checkSpec (rs : List PlanRec) : Option Refused :=
  ((ofType rs 2).find? (fun r => bitOf (r.n 9 1) 0 && 3 < r.n 8 1)).map (fun r => { reason := rSpec, recs := [r.id] })

/-- ENGINE_MISSING: an engine that is not enrolled or is wholly fenced, or a twin_peer that does not name it in turn. -/
def checkEngines (x : Res) (rs : List PlanRec) : Option Refused :=
  let gone := fun (e : Nat) => !x.enrolled.contains e || (List.range 10).all (x.fenced e)
  (rs.find? (fun r => match r.type with
    | 1 => gone (r.n 8 2) || (twinOf rs (r.n 8 2)).any (fun p => twinOf rs p != some (r.n 8 2))
    | 9 => gone (r.n 8 2)
    | _ => r.engineField.any gone)).map (fun r => { reason := rEngine, recs := [r.id] })

/-! ### Records in graph order -/

/-- The records in an order in which every connection goes forward, ties by rec_id. -/
def topoOrder (as : List Arc) : Nat → List Nat → List Nat → List Nat
  | 0, done, _ => done
  | f + 1, done, todo =>
    match todo.find? (fun i => as.all (fun a => a.dst != i || done.contains a.src || !todo.contains a.src)) with
    | some i => topoOrder as f (done ++ [i]) (todo.filter (· != i))
    | none => match todo with
      | i :: rest => topoOrder as f (done ++ [i]) rest
      | [] => done

def planOrder (bs : Nat) (rs : List PlanRec) : List Nat :=
  let ids := (rs.filter (fun r => 2 ≤ r.type && r.type ≤ 5)).map (·.id)
  topoOrder (forwardArcs bs rs) ids.length [] ids

/-! ### Engines (R205) -/

/-- Groups of a module record. -/
def groupCount (c : Cost) (r : PlanRec) : Nat := ceilDiv (max (r.n 14 2) 1) c.perGroup

/-- Peak cycles of a whole module. -/
def modulePeak (x : Res) (rs : List PlanRec) (r : PlanRec) : Nat :=
  let c := moduleCostOf x rs r
  groupCount c r * c.cyc.foldl max 0

abbrev EngMap := List (Nat × Nat)

def engOf (m : EngMap) (i : Nat) : Option Nat := (m.find? (fun e => e.1 = i)).map (·.2)

def maxFreq (rs : List PlanRec) (e : Nat) : Nat := engineFig rs e 16 8

/-- Cycles per tick that the plan may use on an engine at its highest frequency, less the spare (R216). -/
def engineRoom (x : Res) (rs : List PlanRec) (e : Nat) : Nat :=
  (coresOf x rs e).length * blockCycles (maxFreq rs e) x.bs x.fs * (100 - engineFig rs e 14 15) / 100

/-- An engine still has room for a module beside those it has been given. -/
def hasRoom (x : Res) (rs : List PlanRec) (m : EngMap) (r : PlanRec) (e : Nat) : Bool :=
  r.type != 3 ||
    ((ofType rs 3).filter (fun s => engOf m s.id = some e)).foldl (fun a s => a + modulePeak x rs s) (modulePeak x rs r)
      ≤ engineRoom x rs e

/-- The constraints of a kind that name a record, with the other record of each. -/
def partners (rs : List PlanRec) (kind i : Nat) : List Nat :=
  (ofType rs 8).filterMap (fun c =>
    if c.n 8 2 != kind then none
    else if c.n 12 4 = i then some (c.n 16 4) else if c.n 16 4 = i then some (c.n 12 4) else none)

/-- The engine of a module or bus whose record names none (R205): the partner's of SAME_ENGINE; else, of those that APART
allows, the one that supplies most of its input channels, or the one with room that is fewest hops from it. -/
def chooseEngine (x : Res) (rs : List PlanRec) (as : List Arc) (m : EngMap) (r : PlanRec) : Nat :=
  let banned := (partners rs 2 r.id).filterMap (fun p => (engOf m p).map (canonEng rs))
  let ok := fun (e : Nat) => !banned.contains (canonEng rs e)
  let cand := x.enrolled.filter (fun e => canonEng rs e = e)
  let supply := fun (e : Nat) =>
    ((as.filter (fun a => a.dst = r.id && (engOf m a.src).any (fun f => canonEng rs f = e))).map (·.count)).sum
  let base := cand.foldl (fun b e => if supply b < supply e then e else b) (cand.headD x.own)
  let near := cand.foldl (fun (b : Option Nat) e =>
    if !ok e || !hasRoom x rs m r e then b
    else match b with
      | some f => if x.hops base e < x.hops base f then some e else b
      | none => some e) none
  match (partners rs 1 r.id).findSome? (engOf m) with
  | some e => e
  | none =>
    if ok base && hasRoom x rs m r base then base
    else near.getD (if ok base then base else (cand.find? ok).getD base)

/-- The engine that an unchanged record had in the running deal (R204). -/
def oldEngine (x : Res) (r : PlanRec) : Option Nat := if x.oldRecs.contains r then engOf x.old.engines r.id else none

/-- Assign every source, module, bus and sink to an engine. -/
def assignEngines (x : Res) (rs : List PlanRec) : EngMap :=
  let as := planArcs rs
  let fixed : EngMap := rs.filterMap (fun r => r.engineField.map (fun e => (r.id, e)))
  (planOrder x.bs rs).foldl (fun m i =>
    match engOf m i, recOf rs i with
    | none, some r =>
      let e := match oldEngine x r with
        | some e =>
          if x.enrolled.contains e && hasRoom x rs m r e
            && !(partners rs 2 i).any (fun p => (engOf m p).any (fun f => canonEng rs f = canonEng rs e))
            && (partners rs 1 i).all (fun p => (engOf m p).all (fun f => canonEng rs f = canonEng rs e)) then e
          else chooseEngine x rs as m r
        | none => chooseEngine x rs as m r
      m ++ [(i, e)]
    | _, _ => m) fixed

/-- CONSTRAINT: the first constraint that the assignment cannot meet (R199). -/
def checkConstraints (rs : List PlanRec) (m : EngMap) : Option Refused :=
  let can := fun (i : Nat) => (engOf m i).map (canonEng rs)
  ((ofType rs 8).find? (fun c =>
    match c.n 8 2 with
    | 1 => can (c.n 12 4) != can (c.n 16 4)
    | 2 => can (c.n 12 4) = can (c.n 16 4)
    | 3 => engOf m (c.n 12 4) != engOf m (c.n 16 4)
    | 6 => !(4 ≤ c.n 20 4 && c.n 20 4 ≤ ((recOf rs (c.n 12 4)).map (fun r => maxFreq rs (r.n 8 2))).getD 8)
    | _ => false)).map (fun c => { reason := rConstraint, recs := [c.id] })

/-! ### Capacities of the Joinery and of the ports (R140, R328, R399) -/

/-- By rate class: 44.1 and 48, 88.2 and 96, 176.4 and 192 kHz. -/
def byRate (rate a b c : Nat) : Nat := if rate < 2 then a else if rate < 4 then b else c

/-- The parameters of a class that the plan sets, as (target, index). -/
def classTargets (rs : List PlanRec) (cls : Nat) : List (Nat × Nat) :=
  ((ofType rs 10).filter (fun p => p.n 15 1 = cls)).map (fun p => (p.n 8 4, p.n 16 2)) |>.dedup

def overLimit (reason : Nat) (need avail : Nat) (recs : List Nat) : Option Refused :=
  if need ≤ avail then none else some { reason := reason, recs := recs, detail := some (need, avail) }

/-- ROUTER_CAP: a limit of R140 exceeded on an engine. -/
def checkRouter (x : Res) (rs : List PlanRec) (m : EngMap) (e : Nat) : Option Refused :=
  let here := fun (i : Nat) => engOf m i = some e
  let as := (planArcs rs).filter (fun a => here a.dst)
  let sends := as.filter (fun a => isType rs a.dst 4)
  let points := as.filter (fun a => !isType rs a.dst 4)
  let total := fun (l : List Arc) => (l.map (·.count)).sum
  let buses := (ofType rs 4).filter (fun r => here r.id)
  let lims := (ofType rs 5).filter (fun r => here r.id && bitOf (r.n 9 1) 0)
  let cls := fun (k : Nat) => (classTargets rs k).filter (fun t => here t.1)
  let hpf := cls 7
  let meters := cls 8
  (overLimit rRouter (total points) 16384 (points.map (·.edge)))
  |>.or (points.findSome? (fun a =>
      let sum := points.filter (fun b => b.dst = a.dst && b.dstCh ≤ a.dstCh && a.dstCh < b.dstCh + b.count)
      overLimit rRouter sum.length 64 (sum.map (·.edge))))
  |>.or (overLimit rRouter buses.length (byRate x.rate 512 256 128) (buses.map (·.id)))
  |>.or (buses.findSome? (fun b =>
      let s := sends.filter (fun a => a.dst = b.id)
      overLimit rRouter (total s) 1024 (s.map (·.edge))))
  |>.or (overLimit rRouter hpf.length (byRate x.rate 2048 1024 512) (hpf.map (·.1)).dedup)
  |>.or (overLimit rRouter ((lims.map (fun r => r.n 16 2)).sum) (byRate x.rate 1024 512 256) (lims.map (·.id)))
  |>.or (overLimit rRouter meters.length (byRate x.rate 4096 4096 2048) (meters.map (·.1)).dedup)

/-- Bits per second of a network stream with all its headers: one block a datagram for Brizu, and for RTP at least one packet
for each block (R328). -/
def streamBits (x : Res) (r : PlanRec) : Nat :=
  let pay := r.n 16 2 * x.bs * fmtWidth (r.n 18 1)
  (46 + (if r.n 8 1 = 3 then 32 else 12) + pay) * 8 * x.fs / x.bs

/-- STREAM_CAP for one direction of an engine: streams and channels of its network ports, their line rate, and the slots and
channels of its audio ports and amplifier (R328). -/
def checkDirection (x : Res) (rs : List PlanRec) (e type : Nat) : Option Refused :=
  let all := (ofType rs type).filter (fun r => r.n 10 2 = e)
  let net := all.filter (fun r => r.n 8 1 ≤ 3)
  let chans := fun (l : List PlanRec) => (l.map (fun r => r.n 16 2)).sum
  let ids := fun (l : List PlanRec) => l.map (·.id)
  let port := fun (p : Nat) => net.filter (fun r => p = 0 || bitOf (r.n 9 1) 1)
  let room := fun (r : PlanRec) => match r.n 8 1 with
    | 5 => if r.n 12 2 < 32 then 32 else 0
    | 6 => if r.n 12 2 < 8 then 2 else 0
    | 7 => 16
    | _ => 65536
  (overLimit rStream net.length 256 (ids net))
  |>.or (overLimit rStream (chans net) (byRate x.rate 2048 1024 512) (ids net))
  |>.or ((List.range 2).findSome? (fun p =>
      let bits := ((port p).map (streamBits x)).sum
      overLimit rStream (ceilDiv bits 1000000) (x.line e p * 9 / 10) (ids (port p))))
  |>.or (all.findSome? (fun r => overLimit rStream (r.n 14 2 + r.n 16 2) (room r) [r.id]))
  |>.or (all.findSome? (fun r =>
      if r.n 8 1 = 3 || r.n 8 1 = 4 then overLimit rStream (r.n 16 2 * x.bs * fmtWidth (r.n 18 1)) 8192 [r.id] else none))

/-! ### Latency lining (R206–R209); latencies are in ns × fs, a block period being 10⁹ × B -/

/-- Sources: the SOURCE records, and the generators that nothing feeds (R206). -/
def sourceRecs (rs : List PlanRec) : List PlanRec :=
  let as := planArcs rs
  rs.filter (fun r => r.type = 2 || (r.type = 3 && (r.n 8 2 = 0x40 || r.n 8 2 = 0x41) && !as.any (fun a => a.dst = r.id)))

/-- An align group: its sources, its target and its ALIGN record, both 0 for none. -/
structure AlignGroup where
  srcs : List Nat
  target : Nat
  align : Nat
deriving DecidableEq, Repr

/-- The groups that the records name (R206). -/
def alignGroups (rs : List PlanRec) : List AlignGroup :=
  let ss := sourceRecs rs
  let al := fun (r : PlanRec) => if r.type = 2 then r.n 20 4 else 0
  ((ss.map al).filter (· != 0)).dedup.map (fun a =>
      ⟨(ss.filter (fun r => al r = a)).map (·.id), ((recOf rs a).map (fun r => r.n 8 4)).getD 0, a⟩)
    ++ (ss.filter (fun r => al r = 0)).map (fun r => ⟨[r.id], 0, 0⟩)

/-- The groups whose paths meet at one record merge, or two of their targets differ (R207). -/
def mergeAlign (gs : List AlignGroup) (srcs : List Nat) : List AlignGroup × Option Refused :=
  let hit := gs.filter (fun g => g.srcs.any srcs.contains)
  match hit.filter (fun g => g.target != 0) with
  | t :: more =>
    match more.find? (fun g => g.target != t.target) with
    | some g => (gs, some { reason := rAlign, recs := [t.align, g.align], detail := some (t.target, g.target) })
    | none => (⟨hit.flatMap (·.srcs), t.target, t.align⟩ :: gs.filter (fun g => !hit.contains g), none)
  | [] =>
    if hit.length ≤ 1 then (gs, none)
    else (⟨hit.flatMap (·.srcs), 0, 0⟩ :: gs.filter (fun g => !hit.contains g), none)

/-- Every merging that the plan's buses and modules ask for. -/
def mergedGroups (rs : List PlanRec) : List AlignGroup × Option Refused :=
  let as := planArcs rs
  let ss := (sourceRecs rs).map (·.id)
  (rs.filter (fun r => r.type = 3 || r.type = 4)).foldl (fun (acc : List AlignGroup × Option Refused) r =>
    match acc.2 with
    | some _ => acc
    | none => mergeAlign acc.1 (ss.filter (fun s => s = r.id || (after as s).contains r.id))) (alignGroups rs, none)

/-- The worst network transit to an engine in ns: declared between the sender's engine, where another record of the plan sends
the stream, and this one; else the largest declared to it; else 10 µs (R208; DEDUCED, log entry 68). -/
def transitNs (rs : List PlanRec) (r : PlanRec) : Nat :=
  let e := r.n 10 2
  let sender := ((ofType rs 5).find? (fun s => s.n 8 1 = r.n 8 1 && s.n 12 2 = r.n 12 2 && s.n 10 2 != e)).map (fun s => s.n 10 2)
  let eng := fun (i : Nat) => (recOf rs i).map (fun q => q.n 8 2)
  let into := (ofType rs 8).filter (fun c => c.n 8 2 = 4 && eng (c.n 16 4) = some e)
  let fromIt := into.filter (fun c => sender.isSome && eng (c.n 12 4) = sender)
  let vs := (if fromIt.isEmpty then into else fromIt).map (fun c => c.n 20 4)
  if vs.isEmpty then 10000 else vs.foldl max 0

/-- From a sample's instant into the start of the first processing period: entry part, block assembly or admission (R18, R208). -/
def entryU (x : Res) (rs : List PlanRec) (r : PlanRec) : Nat :=
  let B := 1000000000 * x.bs
  if r.type != 2 then 0
  else match r.n 8 1 with
    | 4 =>
      let sender := ((ofType rs 5).find? (fun s => s.n 8 1 = 4 && s.n 12 2 = r.n 12 2 && s.n 10 2 != r.n 10 2)).map (fun s => s.n 10 2)
      (1000 + (sender.map (fun s => x.delayNs s (r.n 10 2))).getD 0) * x.fs + B
    | 5 | 6 => B + 500 * x.fs
    | _ => (transitNs rs r + 2200) * x.fs + (if bitOf (r.n 9 1) 0 then 0 else B)

/-- A delay module reads a line of another engine through a window where all its taps reach back far enough, and takes a Gnogo
stream otherwise (R190; DEDUCED, log entry 68). -/
def viaWindow (x : Res) (rs : List PlanRec) (m : EngMap) (a : Arc) : Bool :=
  let t := tapParams rs a.dst
  let ca := (engOf m a.src).map (canonEng rs)
  let cb := (engOf m a.dst).map (canonEng rs)
  ca != cb && !t.isEmpty && t.all (fun e => 2 * x.bs + (if e.2 % 64 = 0 then 0 else 7) ≤ e.2 / 64)

/-- The latency that a module adds on a connection out of it: its own, and the longest tap among the connection's channels. -/
def moduleU (x : Res) (rs : List PlanRec) (a : Arc) : Nat :=
  match recOf rs a.src with
  | some r =>
    if r.type != 3 then 0
    else
      let taps := (tapParams rs r.id).filter (fun t => a.srcCh ≤ t.1 && t.1 < a.srcCh + a.count)
      1000000000 * ((moduleCostOf x rs r).latency + (taps.map (fun t => ceilDiv t.2 64)).foldl max 0)
  | none => 0

/-- What a connection adds between the starts of the processing periods of its two ends (R18, R208). -/
def arcU (x : Res) (rs : List PlanRec) (m : EngMap) (a : Arc) : Nat :=
  let B := 1000000000 * x.bs
  let hop := match engOf m a.src, engOf m a.dst with
    | some e, some f =>
      if canonEng rs e = canonEng rs f || viaWindow x rs m a then 0 else 2 * B + (2000 + x.delayNs e f) * x.fs
    | _, _ => 0
  moduleU x rs a + hop

/-- The start of the processing period that handles a source's sample at each record that it reaches. -/
def startsU (x : Res) (rs : List PlanRec) (m : EngMap) (as : List Arc) (order : List Nat) (s : PlanRec) : List (Nat × Nat) :=
  order.foldl (fun (t : List (Nat × Nat)) i =>
    if i = s.id then t ++ [(i, entryU x rs s)]
    else
      let ins := as.filterMap (fun a => if a.dst = i then (engOf t a.src).map (fun u => u + arcU x rs m a) else none)
      if ins.isEmpty then t else t ++ [(i, ins.foldl max 0)]) []

/-- The sink lead (R25). -/
def leadU (x : Res) (r : PlanRec) : Nat :=
  let exit := match r.n 8 1 with
    | 4 => 1000 * x.fs
    | 5 | 6 => 500 * x.fs + 1000000000
    | 7 => 500 * x.fs + 2000000000
    | _ => 3800 * x.fs
  exit + r.n 24 4 * x.fs + r.n 20 2 * 1000000000

/-- A path from a source to a sink, with its latency and the sink's lead (R208). -/
structure PlanPath where
  src : Nat
  dst : Nat
  lat : Nat
  lead : Nat
deriving DecidableEq, Repr

def planPaths (x : Res) (rs : List PlanRec) (m : EngMap) : List PlanPath :=
  let as := forwardArcs x.bs rs
  let order := planOrder x.bs rs
  (sourceRecs rs).flatMap (fun s =>
    let t := startsU x rs m as order s
    (ofType rs 5).filterMap (fun k => (engOf t k.id).map (fun u => ⟨s.id, k.id, u + 1000000000 * x.bs, leadU x k⟩)))

/-- The presentation delay of a group in samples: its target, or the smallest multiple of the block size that every path
keeps (R208). -/
def groupDelta (bs : Nat) (ps : List PlanPath) (g : AlignGroup) : Nat :=
  if g.target != 0 then g.target
  else ceilDiv (((ps.filter (fun p => g.srcs.contains p.src)).map (fun p => p.lat + p.lead)).foldl max 0) (1000000000 * bs) * bs

/-- RELEASE_EARLY: the first path for which its group's target falls short. -/
def checkEarly (x : Res) (ps : List PlanPath) (gs : List AlignGroup) : Option Refused :=
  gs.findSome? (fun g =>
    if g.target = 0 then none
    else (ps.find? (fun p => g.srcs.contains p.src && 1000000000 * g.target < p.lat + p.lead)).map (fun p =>
      { reason := rEarly, recs := [g.align, p.src, p.dst],
        detail := some (ceilDiv (p.lat + p.lead) x.fs, 1000000000 * g.target / x.fs) }))

/-- Blocks that the paths of a source, or into a sink, wait in its kitty: those of a source the least that all of them have to
spare, and those of a sink what is left of its own. -/
def waitBlocks (bs : Nat) (ps : List PlanPath) (delta : Nat → Nat) (r : PlanRec) : Nat :=
  let B := 1000000000 * bs
  let slack := fun (p : PlanPath) => 1000000000 * delta p.src - p.lat - p.lead
  let srcWait := fun (s : Nat) => (((ps.filter (fun p => p.src = s)).map slack).min?.getD 0) / B
  if r.type = 2 then srcWait r.id
  else ((ps.filter (fun p => p.dst = r.id)).map (fun p => slack p / B - srcWait p.src)).foldl max 0

/-- The slots of a kitty and the blocks of its lining buffer (R209). -/
def kittySize (wait : Nat) : Nat × Nat := if 62 < wait then (64, wait - 62) else (max 4 (wait + 2), 0)

/-! ### Groups and cores (R210–R212) -/

/-- A group of a module with what it needs (R184, R200). -/
structure Group where
  recId : Nat
  idx : Nat
  work : Work
  fir : Bool
  ls : Nat
  x : Nat
  y : Nat
  bent : Nat
  code : Nat
deriving DecidableEq, Repr

def isFir (mt : Nat) : Bool := mt = 0x30 || mt = 0x31 || mt = 0x32

/-- The module consumes a speculative stream in its epoch: one reaches it on its own engine (R46, R48). -/
def isSpecModule (rs : List PlanRec) (as : List Arc) (m : EngMap) (i : Nat) : Bool :=
  let near := as.filter (fun a => (engOf m a.src).map (canonEng rs) = (engOf m a.dst).map (canonEng rs))
  (ofType rs 2).any (fun s => bitOf (s.n 9 1) 0 && (after near s.id).contains i)

/-- Core cycles that the window reads of a module add (R190). -/
def windowCycles (x : Res) (rs : List PlanRec) (as : List Arc) (m : EngMap) (code i : Nat) : Nat :=
  (((as.filter (fun a => a.dst = i && viaWindow x rs m a)).map (fun a =>
    match engOf m a.src, engOf m i with
    | some e, some f => ceilDiv (2 * x.delayNs e f * (200 + 50 * code)) 1000
    | _, _ => 0)).foldl max 0)

/-- The groups of a module (R182, R200). -/
def groupsOf (x : Res) (rs : List PlanRec) (as : List Arc) (m : EngMap) (code : Nat) (r : PlanRec) : List Group :=
  let c := moduleCostOf x rs r
  let spec := isSpecModule rs as m r.id
  let fir := isFir (r.n 8 2) && x.blk = 1
  let add := windowCycles x rs as m code r.id
  (List.range (groupCount c r)).map (fun i =>
    { recId := r.id, idx := i, work := ⟨c.cyc.map (· + add), 0, spec, c.ckpt⟩, fir := fir, ls := c.lsWords,
      x := if fir then 61952 + (if spec then 41472 else 0) else c.x, y := if fir then 0 else c.y, bent := c.bent,
      code := ((codeOf rs (r.n 8 2) (r.n 10 2)).map (fun k => k.n 72 4)).getD 0 })

/-- Groups in descending order of peak cycles, ties by rec_id. -/
def insGroup (g : Group) : List Group → List Group
  | [] => [g]
  | k :: t => if k.work.peak ≤ g.work.peak then g :: k :: t else k :: insGroup g t

abbrev Placed := List (Group × Nat)

def onCoreP (ps : Placed) (c : Nat) : List Group := (ps.filter (fun e => e.2 = c)).map (·.1)

/-- X, Y, lane store, instruction and bent memory that groups need of one core and its bent fit (R9, R184, R214): checkpoint
segments from word 0 with their snapshot areas, other words down from 511; and, with FIR groups, the slice staging. -/
def memFits (gs bentGs : List Group) : Bool :=
  let sum := fun (f : Group → Nat) (l : List Group) => (l.map f).sum
  let seg := sum (·.work.ckpt) gs
  let other := sum (·.ls) gs
  let staging := if gs.any (·.fir) then 264192 else 0
  let plain := gs.filter (fun g => !g.fir)
  seg ≤ 256 && other + (if seg = 0 then 0 else 256 + seg) ≤ 512
    && sum (·.x) plain ≤ 262144 && sum (·.y) plain ≤ 262144 && sum (fun g => g.x + g.y) gs + staging ≤ 524288
    && sum (fun g => if g.idx = 0 || gs.head? = some g then g.code else 0) gs ≤ 131072
    && sum (·.bent) bentGs ≤ 2097152

/-- The phases a group may take: every one of its divider, and for a FIR group those that spread the level 2 closes over ticks
0, 4, 8 and 12 (R185). -/
def phasesOf (g : Group) : List Nat := if g.fir then [0, 4, 8, 12] else List.range g.work.div

/-- The phase that gives the core its lowest peak, of those at which every tick fits (R210). -/
def bestPhase (cycles pct : Nat) (gs : List Group) (g : Group) : Option Nat :=
  ((phasesOf g).foldl (fun (b : Option (Nat × Nat)) p =>
    let ws := { g.work with phase := p } :: gs.map (·.work)
    if !workFits cycles pct ws then b
    else
      let k := corePeak ws
      match b with
      | some (_, q) => if k < q then some (p, k) else b
      | none => some (p, k)) none).map (·.1)

def withPhase (g : Group) (p : Nat) : Group := { g with work := { g.work with phase := p } }

/-- The first core of a list that takes a group, with its phase; failing that, whether one has the cycles. -/
def findCore (cycles pct : Nat) (ps : Placed) (cs : List Nat) (g : Group) : Option (Nat × Nat) × Bool :=
  let fits := cs.filterMap (fun c => (bestPhase cycles pct (onCoreP ps c) g).map (fun p => (c, p)))
  (fits.find? (fun e => memFits (onCoreP ps e.1 ++ [g])
      ((ps.filter (fun q => q.2 / 5 = e.1 / 5)).map (·.1) ++ [g])), !fits.isEmpty)

/-- Pack groups onto the cores of an engine: an unchanged record keeps its place where it still fits (R204), SAME_CORE modules
share a core (R199), and any other group takes the first core that fits (R210). -/
def packGroups (x : Res) (rs : List PlanRec) (e cycles pct : Nat) (cs : List Nat) : List Group → Placed → Placed × Option Refused
  | [], ps => (ps, none)
  | g :: rest, ps =>
    let mates := partners rs 3 g.recId
    let mateCore := (ps.find? (fun q => mates.contains q.1.recId)).map (·.2)
    let old := if (recOf rs g.recId).any x.oldRecs.contains then
        x.old.places.find? (fun p => p.recId = g.recId && p.group = g.idx && p.engine = e && cs.contains p.core)
      else none
    let kept := old.bind (fun p =>
      let h := withPhase g p.phase
      if workFits cycles pct (h.work :: (onCoreP ps p.core).map (·.work))
          && memFits (onCoreP ps p.core ++ [g]) ((ps.filter (fun q => q.2 / 5 = p.core / 5)).map (·.1) ++ [g])
          && (mateCore.isNone || mateCore = some p.core) then some (p.core, p.phase) else none)
    let found := findCore cycles pct ps (match mateCore with
      | some c => [c]
      | none => cs) g
    match kept.or found.1 with
    | some (c, p) => packGroups x rs e cycles pct cs rest (ps ++ [(withPhase g p, c)])
    | none =>
      (ps, some (if found.2 then { reason := rCoreMem, recs := [g.recId], detail := some (g.x + g.y, 524288) }
        else { reason := rCompute, recs := [g.recId], detail := some (g.work.peak, cycles) }))

/-! ### Levels and chains (R213) -/

/-- The modules and buses of an engine in graph order, each with its sync level: one more than that of a producer on another
core, or of one that reaches it through a bus. -/
def syncLevels (as : List Arc) (order : List Nat) (rs : List PlanRec) (ps : Placed) : List (Nat × Nat) :=
  let cores := fun (i : Nat) => ((ps.filter (fun q => q.1.recId = i)).map (·.2)).dedup
  order.foldl (fun (t : List (Nat × Nat)) i =>
    if (cores i).isEmpty && !isType rs i 4 then t
    else
      let ls := as.filterMap (fun a =>
        if a.dst != i then none
        else (engOf t a.src).map (fun l =>
          if isType rs a.src 4 then l
          else if isType rs i 4 || cores a.src != cores i || 1 < (cores i).length then l + 1 else l))
      t ++ [(i, ls.foldl max 0)]) []

/-- The time in ps from the tick at which a module's work can be complete, with the Joinery's first entries, the modules it
depends on and itself at their peaks. -/
def chainPs (as : List Arc) (order : List Nat) (ps : Placed) (code start : Nat) : List (Nat × Nat) :=
  let work := fun (i : Nat) =>
    let mine := ps.filter (fun q => q.1.recId = i)
    (((mine.map (·.2)).dedup).map (fun c => ((mine.filter (fun q => q.2 = c)).map (fun q => q.1.work.peak)).sum)).foldl max 0
  order.foldl (fun (t : List (Nat × Nat)) i =>
    let ins := as.filterMap (fun a => if a.dst = i then engOf t a.src else none)
    let w := work i
    t ++ [(i, ins.foldl max start + (if w = 0 then 0 else ceilDiv ((w + 5) * 1000000) (200 + 50 * code)))]) []

/-- SYNC_FLAGS, and the COMPUTE refusal of a chain that cannot end 4 µs before the exit deadline (R213). The Joinery does 40
multiplies in each FABRIC cycle of 1.25 ns (R140). -/
def checkChains (x : Res) (rs : List PlanRec) (as : List Arc) (order : List Nat) (ps : Placed) (code : Nat) : Option Refused :=
  let lv := (syncLevels as order rs ps).filter (fun e => isType rs e.1 3)
  let top := (lv.map (·.2)).foldl max 0
  let closing := fun (a : Arc) => isType rs a.dst 5
  let join := fun (l : List Arc) => ceilDiv ((l.map (·.count)).sum * x.bs) 40 * 1250
  let ends := chainPs as order ps code (join (as.filter (fun a => !closing a)))
  let limit := 1000000000000 * x.bs / x.fs - 4000000 - join (as.filter closing)
  let late := ends.filter (fun e => limit < e.2 && ps.any (fun q => q.1.recId = e.1))
  if 15 < top then some { reason := rSync, recs := (lv.filter (fun e => 15 < e.2)).map (·.1), detail := some (top, 15) }
  else if late.isEmpty then none
  else
    let worst := (late.map (·.2)).foldl max 0
    some { reason := rCompute, recs := late.map (·.1),
           detail := some (worst * (200 + 50 * code) / 1000000, limit * (200 + 50 * code) / 1000000) }

/-! ### Memory of the deck (R172, R184, R186, R214) -/

/-- Bytes of one slot of a kitty. -/
def slotSize (bs chans : Nat) : Nat := 32 + 4 * chans * bs

/-- Kitties of an engine from a deck address on, first-fit by rec_id, and the address after the last. -/
def placeKitties (bs : Nat) (sizes : Nat → Nat × Nat) (a0 : Nat) (l : List PlanRec) : List KittyPlan × Nat :=
  l.foldl (fun (acc : List KittyPlan × Nat) r =>
    let (d, n) := sizes r.id
    (acc.1 ++ [⟨r.id, d, n, acc.2⟩], acc.2 + (d + n) * slotSize bs (r.n 16 2))) ([], a0)

/-- Deck bytes of the Joinery's records for an engine's buses: crosspoints and sends (R140, R141). -/
def joinTableBytes (buses : Nat) : Nat := 18432 * 16 + buses * 1088 * 16

/-- SHAPING_MEM: the shaping data of an engine, its FIR taps and its paths (R172, R184, R186). -/
def checkShaping (x : Res) (rs : List PlanRec) (ms : List PlanRec) : Option Refused :=
  let firs := ms.filter (fun r => isFir (r.n 8 2))
  let paths := (firs.map (fun r => r.n 14 2)).sum
  let one := fun (r : PlanRec) =>
    let c := moduleCostOf x rs r
    if isFir (r.n 8 2) then
      r.n 14 2 * ((if bitOf (r.n 18 2) 0 then 2 else 1) * firSetBytes x.blk x.bs 4096)
        + (if r.n 8 2 = 0x31 then r.n 14 2 else groupCount c r) * firHistBytes x.blk x.bs 4096
    else groupCount c r * c.shaping
  let ids := ms.map (·.id)
  (overLimit rShaping ((ms.map one).sum) 25165824 ids)
  |>.or (overLimit rShaping (paths * 4096) 2097152 (firs.map (·.id)))
  |>.or (overLimit rShaping paths (byRate x.rate 1024 512 256) (firs.map (·.id)))

/-! ### Spare (R216) -/

/-- SPARE: the loads of an engine against its budget less the spare, and the fence headroom of every occupied core. -/
def checkSpare (x : Res) (rs : List PlanRec) (e cycles pct : Nat) (cs : List Nat) (ps : Placed) : Option Refused :=
  let load := fun (c : Nat) => schedLoad pct ((onCoreP ps c).map (·.work))
  let occ := ((ps.map (·.2)).dedup)
  let used := (occ.map load).sum
  let free := ((List.range 10).filter (fun c => !x.fenced e c)).length
  let room := free * cycles * (100 - engineFig rs e 14 15) / 100
  let tight := occ.foldl (fun b c => if load b < load c then c else b) (occ.headD 0)
  let named := fun (c : Nat) =>
    ((engineRec rs e).map (·.id)).toList ++ ((onCoreP ps c).foldr insGroup []).head?.toList.map (·.recId)
  let fails := fun (c : Nat) =>
    let rest := ps.filter (fun q => q.2 != c)
    let others := ((List.range 10).filter (fun d => d != c && !x.fenced e d && (cs.contains d || (twinOf rs e).isSome)))
    (packGroups { x with old := {} } [] e cycles pct others ((onCoreP ps c).foldr insGroup []) rest).2.isSome
  (overLimit rSpare used room (named tight))
  |>.or ((occ.find? fails).map (fun c => { reason := rSpare, recs := named c, detail := some (load c, cycles) }))

/-! ### One engine (R212) -/

/-- Steps 5, 6 and 8 for one engine at one frequency code: its placed groups, or the step and the refusal. -/
def tryEngine (x : Res) (rs : List PlanRec) (m : EngMap) (as : List Arc) (order : List Nat) (deck e code : Nat) :
    Placed × Option (Nat × Refused) :=
  let here := fun (r : PlanRec) => (engOf m r.id).map (canonEng rs) = some (canonEng rs e)
  let ms := (ofType rs 3).filter here
  let near := as.filter (fun a => (recOf rs a.src).any here && (recOf rs a.dst).any here)
  let cycles := blockCycles code x.bs x.fs
  let pct := engineFig rs e 15 20
  let cs := coresOf x rs e
  let gs := (ms.flatMap (groupsOf x rs as m code)).foldr insGroup []
  let (ps, bad) := packGroups x rs e cycles pct cs gs []
  let kits := (rs.filter (fun r => (r.type = 2 || r.type = 5) && here r)).map (·.id)
  let five := (if bad.any (fun r => r.reason = rCompute) then bad else none).or
    (if bad.isNone then checkChains x rs near order ps code else none)
  let six := (bad.or (overLimit rDeckMem deck 8388608 kits)).or (checkShaping x rs ms)
  (ps, (five.map (fun r => (5, r))).or ((six.map (fun r => (6, r))).or
    ((checkSpare x rs e cycles pct cs ps).map (fun r => (8, r)))))

/-- The first frequency code from 0x4 to the engine's highest at which every check passes, or the refusal at the highest
(R199, R212). -/
def placeEngine (x : Res) (rs : List PlanRec) (m : EngMap) (as : List Arc) (order : List Nat) (deck e : Nat) :
    Placed × Nat × Option (Nat × Refused) :=
  let fixed := (ofType rs 8).find? (fun c => c.n 8 2 = 6 && (recOf rs (c.n 12 4)).any (fun r => r.n 8 2 = e))
  let codes := match fixed with
    | some c => [c.n 20 4]
    | none => (List.range (maxFreq rs e - 3)).map (· + 4)
  codes.foldl (fun (acc : Placed × Nat × Option (Nat × Refused)) code =>
    if acc.2.2.isNone then acc
    else
      let r := tryEngine x rs m as order deck e code
      (r.1, code, r.2)) ([], 4, some (9, { reason := rCompute }))

/-! ### Pins, windows and twins (R215, R217, R218) -/

/-- RES_SHARED: two records that need one ball, function unit, port channel or amplifier channel. -/
def checkShared (rs : List PlanRec) : Option Refused :=
  let clash := fun (a b : PlanRec) =>
    a.type = b.type &&
      match a.type with
      | 9 => a.n 8 2 = b.n 8 2 && (a.n 10 2 = b.n 10 2 || (a.n 12 2 = b.n 12 2 && a.n 14 2 = b.n 14 2))
      | 2 | 5 => 5 ≤ a.n 8 1 && a.n 8 1 = b.n 8 1 && a.n 10 2 = b.n 10 2 && (a.n 8 1 = 7 || a.n 12 2 = b.n 12 2)
          && a.n 14 2 < b.n 14 2 + b.n 16 2 && b.n 14 2 < a.n 14 2 + a.n 16 2
      | _ => false
  rs.findSome? (fun a => (rs.find? (fun b => a.id < b.id && clash a b)).map (fun b =>
    { reason := rShared, recs := [a.id, b.id] }))

/-- PIN_CONFLICT: a ball of this engine with an owner outside the plan. -/
def checkPins (x : Res) (rs : List PlanRec) : Option Refused :=
  ((ofType rs 9).find? (fun r => r.n 8 2 = x.own && x.balls.contains (r.n 10 2))).map (fun r =>
    { reason := rPin, recs := [r.id] })

/-- The windows of the deal in ascending order on each engine (R214): the reading module, the engine read, the window. -/
def windowList (x : Res) (rs : List PlanRec) (m : EngMap) (as : List Arc) (e : Nat) : List (Nat × Nat × Nat) :=
  let need := ((as.filter (fun a => engOf m a.dst = some e && viaWindow x rs m a)).map (fun a =>
    (a.dst, (engOf m a.src).getD 0))).dedup
  need.zipIdx.map (fun w => (w.1.1, w.1.2, w.2))

/-- WINDOWS: more than 16 on an engine. -/
def checkWindows (x : Res) (rs : List PlanRec) (m : EngMap) (as : List Arc) (e : Nat) : Option Refused :=
  let w := windowList x rs m as e
  overLimit rWindows w.length 16 (((w.drop 16).map (·.1)).take 1)

/-- TWIN: the records give the two engines of a pair different functions on one ball. -/
def checkTwin (rs : List PlanRec) : Option Refused :=
  (ofType rs 1).findSome? (fun r =>
    (twinOf rs (r.n 8 2)).bind (fun p =>
      if (ofType rs 9).any (fun a => a.n 8 2 = r.n 8 2 && (ofType rs 9).any (fun b => b.n 8 2 = p && b.n 10 2 = a.n 10 2
          && (b.n 12 2 != a.n 12 2 || b.n 14 2 != a.n 14 2))) then
        (engineRec rs p).map (fun q => { reason := rTwin, recs := [min r.id q.id, max r.id q.id] })
      else none))

/-! ### The placer (R202) -/

/-- Steps 2 to 8: the deal's placement, or the first refusal in the order of the steps. -/
def placeDeal (x : Res) (rs : List PlanRec) : Placement × Option Refused :=
  let stop := fun (r : Refused) => (({} : Placement), some r)
  match ((checkCycle x.bs rs).or (checkSpec rs)).or (checkEngines x rs) with
  | some r => stop r
  | none =>
    let m := assignEngines x rs
    let es := x.enrolled
    match (((checkConstraints rs m).or (es.findSome? (checkRouter x rs m))).or
        (es.findSome? (fun e => checkDirection x rs e 2))).or (es.findSome? (fun e => checkDirection x rs e 5)) with
    | some r => stop r
    | none =>
      let (gs, conflict) := mergedGroups rs
      let ps := planPaths x rs m
      match conflict.or (checkEarly x ps gs) with
      | some r => stop r
      | none =>
        let as := forwardArcs x.bs rs
        let order := planOrder x.bs rs
        let deltas := gs.flatMap (fun g => g.srcs.map (fun s => (s, groupDelta x.bs ps g)))
        let delta := fun (s : Nat) => (engOf deltas s).getD 0
        let size := fun (i : Nat) => match recOf rs i with
          | some r => kittySize (waitBlocks x.bs ps delta r)
          | none => (4, 0)
        let kits := es.map (fun e => (e, placeKitties x.bs size
          (0x10000000 + joinTableBytes ((ofType rs 4).filter (fun b => engOf m b.id = some e)).length)
          (rs.filter (fun r => (r.type = 2 || r.type = 5) && r.n 10 2 = e))))
        let tall := rs.find? (fun r => (r.type = 2 || r.type = 5) && 4096 < (size r.id).2)
        let engs := kits.map (fun k => (k.1, placeEngine x rs m as order (k.2.2 - 0x10000000) k.1))
        let fails := engs.filterMap (fun e => e.2.2.2)
        let at' := fun (s : Nat) => (fails.find? (fun f => f.1 = s)).map (·.2)
        let deck : Option Refused := tall.bind (fun r =>
          let slot := slotSize x.bs (r.n 16 2)
          overLimit rDeckMem ((size r.id).2 * slot) (4096 * slot) [r.id])
        let seven := ((checkShared rs).or (es.findSome? (checkWindows x rs m as))).or (checkPins x rs)
        match ((((at' 5).or (at' 6)).or deck).or seven).or ((at' 8).or (checkTwin rs)) with
        | some r => stop r
        | none =>
          let near := fun (e : Nat) => as.filter (fun a => engOf m a.src = some e && engOf m a.dst = some e)
          let placed : Placement :=
            { engines := m
              deltas := deltas
              kitties := kits.flatMap (fun k => k.2.1)
              places := engs.flatMap (fun e => e.2.1.map (fun q => ⟨q.1.recId, q.1.idx, e.1, q.2, q.1.work.phase⟩))
              freqs := engs.map (fun e => (e.1, e.2.2.1))
              levels := engs.flatMap (fun e => (syncLevels (near e.1) order rs e.2.1).filter (fun l => isType rs l.1 3))
              windows := es.flatMap (windowList x rs m as) }
          (placed, none)

end Sys2Proof.Machine
end

