-- ==== Sys2Proof/Machine/DealOps.lean ====
section
/-! DEFINITION. Deals (R201, R219–R228, R260): the placer over the engine's state, preparing, committing and switching a
share, the manager's side of a commit, live re-deals, test-seat rotation, and the local re-deal after a fence. -/

namespace Sys2Proof.Machine

/-! ### The placer over the engine's state (R201) -/

/-- The rate and block size that a plan must have: those of the running deal. -/
def Hw.planRate (h : Hw) : Option (Nat × Nat) := if h.deal.running then some (h.deal.rate.val, h.deal.blk.val) else none

/-- Every engine of the table, itself included. -/
def Hw.tableEngines (h : Hw) : List Nat := h.ownId :: h.workers

def insNat (n : Nat) : List Nat → List Nat
  | [] => [n]
  | m :: t => if n < m then n :: m :: t else m :: insNat n t

/-- The engines next to one, by its own links or its TOPO messages (R364). -/
def Hw.neighbours (h : Hw) (e : Nat) : List Nat := ((if e = h.ownId then h.upLinks else h.table.topo.get [] e).map (·.2)).dedup

/-- Gnogo hops between two engines, 64 where there is no path. -/
def Hw.hopsTo (h : Hw) (dst : Nat) : Nat → List Nat → Nat
  | 0, _ => 64
  | f + 1, seen =>
    if seen.contains dst then 63 - f
    else
      let new := ((seen.flatMap h.neighbours).filter (fun e => !seen.contains e)).dedup
      if new.isEmpty then 64 else Hw.hopsTo h dst f (seen ++ new)

/-- The delay of a Gnogo path in ns: the measured delay of this engine's own link, or that of the others as their engines report
it, with 0.6 µs for each engine between (R363, R364; UNVERIFIED, log entry 68). -/
def Hw.pathNs (h : Hw) (a b : Nat) : Nat :=
  let peer := if a = h.ownId then b else a
  let own := if a = h.ownId || b = h.ownId then h.upLinks.find? (fun l => l.2 = peer) else none
  match own with
  | some l => ceilDiv (h.g (Reg.GNOGO_LINK_DLY_dly l.1)) 256
  | none => Config.peerDelay a b h.t64 + 600 * (h.hopsTo b 64 [a] - 1)

/-- This engine's balls that have an owner which the running plan did not give them (R215, R284). -/
def Hw.foreignBalls (h : Hw) (old : List PlanRec) : List Nat :=
  (List.range 1444).filter (fun b => h.g (Reg.PINMUX_BALL_func b) != 0
    && !(old.any (fun r => r.type = 9 && r.n 8 2 = h.ownId && r.n 10 2 = b)))

/-- What the placer sees: enrolled engines in rising order, the fenced cores of this engine, and of the others as they report
them (UNVERIFIED, log entry 68). -/
def Hw.resources (h : Hw) (rate blk : Nat) : Res :=
  let old := recordsOf h.deal.planBytes
  { own := h.ownId
    enrolled := h.tableEngines.foldr insNat []
    fence := fun e => if e = h.ownId then h.g Reg.FAULT_FENCE_core else Config.peerFence e h.t64
    hops := fun a b => h.hopsTo b 64 [a]
    delayNs := h.pathNs
    line := fun e p => if e = h.ownId && h.b (Reg.MAC_CTRL_speed p) then 10000 else 25000
    balls := h.foreignBalls old
    rate := rate
    blk := blk
    fs := rateHz rate
    bs := 4 * 2 ^ blk
    old := h.deal.placed
    oldRecs := old }

/-- A worker of a frozen table, an engine with a prepared share or a stage to come, and a manager whose commit runs
refuse plan commands (R222, R223, R257). -/
def Hw.planPending (h : Hw) : Bool :=
  h.deal.prepared.isSome || !h.deal.stagesLeft.isEmpty || h.deal.mgr.isSome || h.b Reg.SYS_STATE_frozen

/-- The placer's eight steps over a plan: its placement, or the first refusal (R202). -/
def Hw.placePlan (h : Hw) (b : List Byte) : Placement × Option Refused :=
  let f := fun (o : Nat) => leNat ((b.drop o).take 1)
  match planStep1 b h.planRate (h.limiterBad (4 * 2 ^ f 21)) with
  | some r => ({}, some r)
  | none => placeDeal (h.resources (f 20) (f 21)) (recordsOf b)

/-! ### The tick grid -/

/-- The first tick of a grid at or after a T64: its instant (R19, R20). -/
def gridTick (fs bs t : Nat) : Nat :=
  let n := if t = 0 then 0 else (t - 1) * fs / 1000000000 + 1
  ceilDiv (ceilDiv n bs * bs * 1000000000) fs

/-! ### The manager's side (R219–R223) -/

def Hw.setMgr (h : Hw) (m : Option MgrCommit) : Hw := let d := h.deal; { h with deal := { d with mgr := m } }

/-- Send a commit message to every other engine of a commit. -/
def Hw.toEngines (h : Hw) (m : MgrCommit) (mtype : Nat) (body : Nat → List Byte) : Hw :=
  (m.engines.filter (· != h.ownId)).foldl (fun h e => h.ctrl e mtype (body e)) h

/-- The plan has been placed at this T64: S, the PREPARE messages, and the commit that now waits for READY. The encoding of a
share is the firmware's (UNVERIFIED, log entry 18). -/
def Hw.commitStart (h : Hw) (b : List Byte) (placed : Placement) (earliest : Nat) : Hw :=
  let rate := leNat ((b.drop 20).take 1)
  let bs := 4 * 2 ^ leNat ((b.drop 21).take 1)
  let s := gridTick (rateHz rate) bs (max (h.t64 + 120000000) earliest)
  let m : MgrCommit := { number := h.deal.number + 1, switchAt := s, engines := h.tableEngines, plan := b, placed := placed }
  (h.toEngines m 0x10 (fun e =>
    let sh := Config.placeShare b e
    leBytes 4 m.number ++ leBytes 8 s ++ leBytes 4 (crc32c sh) ++ sh)).setMgr (some m)

/-- PLAN_COMMIT has its outcome. -/
def Hw.commitResult (h : Hw) (status : Nat) (body : List Byte) : Hw :=
  if h.serving 0x203 then h.result status body else h

/-- The commit ends without a switch. -/
def Hw.commitAbort (h : Hw) (m : MgrCommit) (status : Nat) (body : List Byte) : Hw :=
  ((h.toEngines m 0x14 (fun _ => leBytes 4 m.number)).setMgr none).commitResult status body

/-- COMMIT goes out, and the plan becomes the one committed last (R204, R220). -/
def Hw.commitSend (h : Hw) (m : MgrCommit) : Hw :=
  let d := h.deal
  (({ h with deal := { d with planBytes := m.plan, placed := m.placed } } : Hw).toEngines m 0x13
    (fun _ => leBytes 4 m.number)).setMgr (some { m with committed := true })

/-- Engine numbers of a partial commit. -/
def engineList (es : List Nat) : List Byte := es.flatMap (leBytes 2)

/-- READY: with the last of them before S − 20 ms, COMMIT is sent. -/
def Hw.ready (h : Hw) (engine : Nat) : Hw :=
  match h.deal.mgr with
  | none => h
  | some m =>
    if m.committed || !m.engines.contains engine then h
    else
      let m := { m with ready := engine :: m.ready.filter (· != engine) }
      if m.ready.length = m.engines.length && h.t64 + 20000000 < m.switchAt then h.commitSend m else h.setMgr (some m)

/-- Every engine has answered the first stage: the command has its outcome. -/
def Hw.commitCheck (h : Hw) (m : MgrCommit) : Hw :=
  let acked := (m.acks.filter (fun (a : Nat × Nat) => a.2 = 0)).length
  if acked + m.missed.length < m.engines.length then h.setMgr (some m)
  else
    let body := leBytes 4 m.number ++ (m.switchAt :: m.stages).flatMap (leBytes 8)
    let h := if m.missed.isEmpty then h.commitResult sOk (tlv 0x100 body)
      else h.commitResult sCommitPartial (tlv 0x100 (engineList m.missed))
    if m.acks.length + m.missed.length < m.engines.length * (m.stages.length + 1) then h.setMgr (some m)
    else (if m.stages.isEmpty then h else h.s1 Reg.HOST_IRQ_STAT_notice).setMgr none

/-- UNREADY: before COMMIT the manager aborts; after it the engine is one that did not switch (R219, R221). -/
def Hw.unready (h : Hw) (engine reason : Nat) : Hw :=
  match h.deal.mgr with
  | none => h
  | some m =>
    if m.committed then h.commitCheck { m with missed := engine :: m.missed.filter (· != engine) }
    else h.commitAbort m sPlanRefused (tlv 6 (refusal reason [] 0))

/-- PREPARE_DEADLINE: S − 20 ms (DESIGN CHOICE, log entry 35). -/
def Hw.prepareDeadline (h : Hw) : Hw :=
  match h.deal.mgr with
  | none => h
  | some m =>
    if m.committed then h
    else
      let h := h.advanceTo (m.switchAt - 20000000)
      if m.ready.length = m.engines.length then h.commitSend m
      else h.commitAbort m sCommitPartial (tlv 0x100 (engineList m.engines))

/-- ACK of a stage. -/
def Hw.ack (h : Hw) (engine stage : Nat) : Hw :=
  match h.deal.mgr with
  | none => h
  | some m =>
    if !m.committed then h
    else h.commitCheck { m with acks := (engine, stage) :: m.acks.filter (· != (engine, stage)) }

/-- The manager prepares a seat of the running deal for a worker that has enrolled, for it alone, with S as at a commit. -/
def Hw.prepareSeat (h : Hw) (e : Nat) : Hw :=
  let d := h.deal
  if !d.running || d.mgr.isSome || d.planBytes.isEmpty then h
  else
    let s := gridTick h.fs h.bs (h.t64 + 120000000)
    let m : MgrCommit := { number := d.number, switchAt := s, engines := [e], plan := d.planBytes, placed := d.placed }
    let sh := Config.placeShare d.planBytes e
    (h.toEngines m 0x10 (fun _ => leBytes 4 m.number ++ leBytes 8 s ++ leBytes 4 (crc32c sh) ++ sh)).setMgr (some m)

/-- ENROL_DONE at the manager, with the seat of an engine that is now a member. -/
def Hw.enrolled1 (h : Hw) (k : Nat) (tagOk : Bool) : Hw :=
  let g := h.enrolDone k tagOk
  match h.enrol? k with
  | some e => if h.isManager && e.stage = 3 && tagOk then g.prepareSeat (h.ownId / 32 * 32 + e.seat) else g
  | none => g

/-! ### An engine's side (R219–R223) -/

def Hw.toManager (h : Hw) (mtype : Nat) (body : List Byte) : Hw :=
  if h.isWorker then h.ctrl h.managerId mtype body else h

/-- UNREADY with a reason of R218: to the manager, or of the manager itself (R219). -/
def Hw.notReady (h : Hw) (number reason : Nat) : Hw :=
  let h := h.toManager 0x12 (leBytes 4 number ++ leBytes 2 reason)
  if h.isWorker then h else h.unready h.ownId reason

/-- A task as work on its core, from its entry of the active list (R83, R87). -/
def Hw.taskWork (h : Hw) (t : TaskCfg) : Work :=
  let e := h.tlEntry t.core.val t.entry.val
  { cycles := t.peak :: List.replicate (e.div - 1) 0, phase := e.phase, spec := !t.streams.isEmpty, ckpt := e.ckptLen }

/-- The replay reserve of this engine in per cent (R51, R211). -/
def Hw.replayPct (h : Hw) : Nat := engineFig (recordsOf h.deal.planBytes) h.ownId 15 20

/-- The frequency code that a bent has once a share is in force (R91, R104). -/
def Hw.shareCode (h : Hw) (s : Share) (bent : Nat) : Nat :=
  let f := Reg.TRUSS_BENT_OP_freq_code bent
  match s.atSwitch.find? (fun e => e.1 = f.addr) with
  | some e => bitsOf e.2.toNat f.lo f.w
  | none => h.g f

/-- Bytes of X and Y that FIR groups take on a core: slice staging and the working buffers, more for a speculative group (R184). -/
def firWorkBytes (ts : List TaskCfg) : Nat :=
  let gs := ts.filter (fun t => match t.module with
    | .fir _ part _ _ => part.direct
    | _ => false)
  if gs.isEmpty then 0 else 264192 + (gs.map (fun t => if t.streams.isEmpty then 61952 else 103424)).sum

/-- What an engine finds wrong with a share that it is to prepare, as a reason of R218: `g` is the engine with the share's
memory and shadow lists written, and its task lists swapped. -/
def Hw.shareRefusal (h g : Hw) (s : Share) : Option Nat :=
  let fs := rateHz s.rate.val
  let bs := 4 * 2 ^ s.blk.val
  let inRegion := fun (a n : Nat) => 0x10800000 ≤ a && a + n ≤ 0x12000000
  let inBanks := fun (a n : Nat) => 0x10000000 ≤ a && a + n ≤ 0x10800000
  let depthOk := fun (d : Nat) => 4 ≤ d && d ≤ 64
  let firs := s.tasks.flatMap (fun t => match t.module with
    | .fir ps part _ _ => if part.direct then ps else []
    | _ => [])
  let delays := s.tasks.filterMap (fun t => match t.module with
    | .delay _ maxDelay taps _ => some (t, maxDelay, taps)
    | _ => none)
  let lineBad := fun (maxDelay : Nat) (tc : TapCfg) =>
    match s.taps.find? (fun e => e.1 = tc.tap) with
    | some e =>
      let r := g.tapAt e.2
      !tc.remote && !(r.lineLen = lineAlloc maxDelay bs && inRegion r.line (4 * r.lineLen))
    | none => true
  let coreBad := fun (n : Nat) =>
    let ts := s.tasks.filter (fun t => t.core.val = n)
    !ts.isEmpty && !workFits (blockCycles (h.shareCode s (n / 5)) bs fs) h.replayPct (ts.map g.taskWork)
  if h.deal.running && (s.rate != h.deal.rate || s.blk != h.deal.blk) then some rRate
  else if !s.tasks.all (fun t => moduleOk fs t.module) then some rRecordBad
  else if s.inKitties.any (fun e => e.2.spec && !specSource e.2.src) then some rSpec
  else if (List.range 10).any coreBad then some rCompute
  else if delays.any (fun d =>
      let e := g.tlEntry d.1.core.val d.1.entry.val
      !(e.waitEn && e.waitFlag = 0)) then some rSync
  else if (List.range 10).any (fun n => 524288 < firWorkBytes (s.tasks.filter (fun t => t.core.val = n))) then some rCoreMem
  else if s.inKitties.any (fun e => !(depthOk e.2.depth && e.2.lining ≤ 4096
        && inBanks e.2.base (e.2.depth * slotSize bs e.2.chans)))
      || s.outKitties.any (fun e => !(depthOk e.2.depth && inBanks e.2.base (e.2.depth * slotSize bs e.2.chans))) then
    some rDeckMem
  else if delays.any (fun d => d.2.2.any (lineBad d.2.1))
      || firs.any (fun p => !(inRegion p.bank0 (firSetBytes s.blk.val bs p.taps)
          && p.bank1.all (fun b => inRegion b (firSetBytes s.blk.val bs p.taps))
          && inRegion p.hist (firHistBytes s.blk.val bs p.taps)))
      || 2097152 < (firs.map (·.taps)).sum || byRate s.rate.val 1024 512 256 < firs.length then some rShaping
  else none

/-- The fields of a final limiter that the dealer sets from its amplifier channel: fs_per_v = round(2^28 / vfs), vfs being in
1/128 V, and the boost group (R423, R432). -/
def ampLimit (vfs group : Nat) (b : List Byte) : List Byte :=
  let b := if vfs = 0 then b else setField b 16 4 ((2 ^ 36 + vfs) / (2 * vfs))
  setField b 5 1 (setBits (BitVec.ofNat 32 (leNat (sliceB b 5 1))) 3 2 group).toNat

/-- Every final limiter in force takes the values of its amplifier channel (R423, R432). -/
def Hw.ampLimits (h : Hw) : Hw :=
  h.deal.limiters.foldl (fun h i =>
    match h.limChannel (limRec (h.limBytes i)) with
    | some c =>
      let b := ampLimit (h.g (Reg.AMP_CFG_vfs c)) (h.g (Reg.AMP_CFG_group c)) (h.limBytes i)
      if b = h.limBytes i then h else h.wrBytes (h.limAddr i) b
    | none => h) h

/-- PREPARE: what can be written beside the running deal is written, and the engine answers
(DESIGN CHOICE, log entry 35). -/
def Hw.prepare (h : Hw) (s : Share) : Hw :=
  let g := (s.mem.foldl (fun h e => h.wrBytes e.1 e.2) h).dealWrites s.shadow
  if h.deal.prepared.isSome || !h.deal.stagesLeft.isEmpty then h.notReady s.number rPending
  else if s.tasks.any (fun t => h.bit Reg.FAULT_FENCE_core t.core.val) then
    let (v, h) := h.draw
    h.notReady s.number v
  else match h.shareRefusal ((List.range 10).foldl Hw.tlSwap g) s with
  | some r => h.notReady s.number r
  | none =>
    let h := g
    let j := h.join
    let h : Hw := { h with join := { j with staging := s.staging.foldl (fun t e => t.put e.1 e.2) j.staging } }
    let d := h.deal
    let h : Hw := { h with deal := { d with prepared := some s, committed := false } }
    let h := match d.mgr with
      | some m => if m.number = s.number then h.setMgr (some { m with stages := (s.stages.drop 1).map (fun (x : Nat × List Change) => x.1) }) else h
      | none => h
    h.toManager 0x11 (leBytes 4 s.number ++ leBytes 4 s.digest.toNat)

/-- Drop the prepared share. -/
def Hw.dropShare (h : Hw) : Hw := let d := h.deal; { h with deal := { d with prepared := none, committed := false } }

/-- The swap request for the shadow that a word belongs to, if it belongs to one. -/
def swapOf (a : Nat) : List RF :=
  if inRange a 0x40220000 0x40229FFF && inRange (a % 0x1000) 0x800 0x9FF then
    [Reg.TRUSS_TL_SWAP_swap_req ((a - 0x40220000) / 0x1000)]
  else if inRange a 0x40082800 0x40082FFF then [Reg.JOIN_SCHED_SWAP_swap_req]
  else if inRange a 0x40040200 0x400402FF then [Reg.MAC_SLOT_SWAP_swap_req 0]
  else if inRange a 0x40050200 0x400502FF then [Reg.MAC_SLOT_SWAP_swap_req 1]
  else if inRange a 0x40090000 0x40097FFF && inRange (a % 0x400) 0x200 0x2FF then
    [Reg.SAP_SLOT_SWAP_swap_req ((a - 0x40090000) / 0x400)]
  else if inRange a 0x400A1000 0x400A17FF && 0x50 ≤ a % 0x100 then [Reg.AES_TX_CS_SWAP_swap_req ((a - 0x400A1000) / 0x100)]
  else []

/-- COMMIT: the first stage's entries are pushed and the swap requests set. -/
def Hw.commit (h : Hw) (number : Nat) : Hw :=
  match h.deal.prepared with
  | none => h
  | some s =>
    if s.number != number || h.deal.committed then h
    else
      let h := match s.stages with
        | [] => h
        | st :: _ => st.2.foldl Hw.pushChange h
      let h := (s.shadow.flatMap (fun e => swapOf e.1)).foldl Hw.s1 h
      let d := h.deal
      { h with deal := { d with committed := true } }

/-- ABORT. -/
def Hw.abort (h : Hw) (number : Nat) : Hw :=
  match h.deal.prepared with
  | some s => if s.number = number && !h.deal.committed then h.dropShare else h
  | none => h

/-- PREPARE_TIMEOUT: S − 2 ms without COMMIT or ABORT (R221). -/
def Hw.prepareTimeout (h : Hw) : Hw :=
  match h.deal.prepared with
  | none => h
  | some s =>
    if h.deal.committed then h
    else
      let (v, h) := ((h.advanceTo (s.switchAt - 2000000)).dropShare).draw
      h.notReady s.number v

/-- STAGE_PUSH: one block period before the next stage's tick (R223). -/
def Hw.stagePush (h : Hw) : Hw :=
  match h.deal.stagesLeft with
  | [] => h
  | st :: _ =>
    if h.deal.stagePushed then h
    else
      let h := h.advanceTo (st.1 - ceilDiv (h.bs * 1000000000) h.fs)
      let h := st.2.foldl Hw.pushChange h
      let d := h.deal
      { h with deal := { d with stagePushed := true } }

/-! ### The switch at tick S (R220, R260) -/

/-- The lane stores of a core lose their content (R491). -/
def Hw.gateCore (h : Hw) (n : Nat) (off : Bool) : Hw :=
  if (h.core n).gated = off then h
  else
    let h := if off then h.clearMem (0x21000000 + n * 0x100000 + 0xA0000) 0x10000 else h
    h.modCore n (fun c => { c with gated := off })

/-- Cores that hold no group, and fenced cores, are power-gated (R212, R491). -/
def Hw.gateCores (h : Hw) : Hw :=
  (List.range 10).foldl (fun h n =>
    h.gateCore n (!h.deal.tasks.any (fun t => t.core.val = n) || h.bit Reg.FAULT_FENCE_core n)) h

/-- The highest unfenced core without a group is a twin engine's test seat (R217; log entry 68). -/
def Hw.findSeat (h : Hw) : Option Nat :=
  if h.g Reg.GNOGO_ROLE_twin = 0 && !h.twinEn then none
  else (List.range 10).reverse.find? (fun n =>
    !h.bit Reg.FAULT_FENCE_core n && !h.deal.tasks.any (fun t => t.core.val = n))

/-- The tasks that write an output kitty. -/
def producers (ts : List TaskCfg) (k : Nat) : List TaskCfg := ts.filter (fun t => t.outKitties.contains k)

/-- Keep the kitties whose settings stay, make the new ones, and drop the others. -/
def newIn (old : Tab InKitty) (cfgs : List (Nat × InCfg)) : Tab InKitty :=
  cfgs.foldl (fun (t : Tab InKitty) e => t.put e.1 (match old.find? e.1 with
    | some k => if k.cfg = e.2 then k else { cfg := e.2 }
    | none => { cfg := e.2 })) []

/-- An output kitty that stays sends no discontinuity unless the tasks that write it were re-dealt (R27). -/
def newOut (old : Tab OutKitty) (was now : List TaskCfg) (cfgs : List (Nat × OutCfg)) : Tab OutKitty :=
  cfgs.foldl (fun (t : Tab OutKitty) e => t.put e.1 (match old.find? e.1 with
    | some k => if k.cfg = e.2 then { k with started := k.started && producers was e.1 == producers now e.1 } else { cfg := e.2 }
    | none => { cfg := e.2 })) []

/-- The next block of each of these kitties is the first after a re-deal of its sender (R27). -/
def Hw.discont (h : Hw) (ks : List Nat) : Hw :=
  { h with kout := ks.foldl (fun t k => t.mod k (fun x => { x with started := false })) h.kout }

/-- The warm-up of a module: 50 ms where its record says nothing (R198). -/
def Hw.warmNs (h : Hw) (recId : Nat) : Nat :=
  match planRecs h.deal.planBytes.length (h.deal.planBytes.drop 32) with
  | some rs =>
    match rs.find? (fun r => r.id = recId && r.type = 3) with
    | some r => if r.n 17 1 = 0 then 50000000 else r.n 17 1 * 10000000
    | none => 50000000
  | none => 50000000

/-- Module state kept by core × 32 + entry. -/
def taskKey (t : TaskCfg) : Nat := t.core.val * 32 + t.entry.val

/-- Clear the state of a module: filter paths, delay lines, generators (R227). -/
def Hw.zeroModule (h : Hw) (t : TaskCfg) : Hw :=
  let m := h.mods
  let h : Hw := { h with mods := { m with noise := m.noise.del (taskKey t), xfer := m.xfer.del (taskKey t), gen := m.gen.del (taskKey t) } }
  match t.module with
  | .fir paths _ _ _ => paths.foldl (fun h p =>
      let m := h.mods
      ({ h with mods := { m with fir := m.fir.mod p.path (fun f =>
        { f with hist := [], histEnd := 0, outs := [], accs := [] }) } } : Hw).clearMem p.hist
          (firHistBytes h.deal.blk.val h.bs p.taps)) h
  | .delay _ _ taps _ => taps.foldl (fun h tc =>
      let r := h.tapAt (h.join.tapRec.get 0 tc.tap)
      h.clearMem r.line (4 * r.lineLen)) h
  | _ => h

def moduleKind : Module → Nat
  | .custom => 0
  | .delay _ _ _ _ => 1
  | .fir _ _ _ _ => 2
  | .noise _ _ _ _ _ => 3
  | .sweep _ _ _ _ _ _ _ => 4
  | .transfer _ _ _ _ _ => 5
  | .library _ _ _ => 6

/-- The task of an earlier deal that a task continues: that of the same record, kind and order among them (R204). -/
def continues (was now : List TaskCfg) (t : TaskCfg) : Option TaskCfg :=
  let of := fun (l : List TaskCfg) => l.filter (fun x => x.recId = t.recId && moduleKind x.module = moduleKind t.module)
  (of was)[(of now).idxOf t]?

/-- At a switch the state of a module follows its record: to a new core by a live re-deal that is part of the commit, with its
state copied, and a module that is new begins from zero state (R204, R224; DEDUCED, log entry 68). -/
def Hw.carryModules (h : Hw) (was : List TaskCfg) : Hw :=
  let now := h.deal.tasks
  let kept := now.filterMap (fun t => (continues was now t).map (fun o => (o, t)))
  let m := h.mods
  let carry := fun {α : Type} (x : Tab α) => kept.foldl (fun (y : Tab α) e => match x.find? (taskKey e.1) with
    | some v => y.put (taskKey e.2) v
    | none => y) []
  let h : Hw := { h with mods := { m with noise := carry m.noise, xfer := carry m.xfer, gen := carry m.gen } }
  let h := (now.filter (fun t => (continues was now t).isNone)).foldl Hw.zeroModule h
  let moved := ((kept.filter (fun e => e.1.core != e.2.core)).map (fun e => (e.2.recId, e.1.core.val, e.2.core.val))).dedup
  let d := h.deal
  { h with deal := { d with moves := d.moves ++ moved.map (fun e =>
      { recId := e.1, src := e.2.1, dst := e.2.2, engine := none, t0 := h.t64, warm := h.t64 + h.warmNs e.1 }) } }

/-- Channels that a switch value concerns are stopped first, and start again when they have stopped (R260). -/
def Hw.stopFor (h : Hw) (a : Nat) : Hw :=
  if inRange a 0x40110100 0x401104FF then h.ampStop ((a - 0x40110100) / 0x40)
  else if inRange a 0x40120000 0x401200FF then (h.groupChans ((a - 0x40120000) / 0x40)).foldl Hw.ampStop h
  else h

/-- The dealer requests the lanes' states from the deal: a lane whose function the deal's writes leave enabled is taken out of L2,
any other is sent there (R351; DEDUCED, log entry 41). -/
def Hw.dealLanes (h : Hw) : Hw :=
  (List.range 8).foldl (fun h n =>
    if !h.laneUsed n then h.laneStateReq n 2 0x0A
    else if h.g (Reg.LANE_CTRL_state_req n) = 2 then h.laneStateReq n 0 0x0A
    else h) h

/-- The share becomes the deal in force; the record of type 0x05 is written and the first stage acknowledged. -/
def Hw.switchDeal (h : Hw) (s : Share) : Hw :=
  let h := (s.atSwitch.filter (fun e => h.rawRead e.1 != e.2.toNat)).foldl (fun h e => h.stopFor e.1) h
  let h := ((h.dealWrites s.atSwitch).bandsDue).ampTryAll.dealLanes
  let d := h.deal
  let j := h.join
  let h : Hw := { h with
    kin := newIn h.kin s.inKitties
    kout := newOut h.kout d.tasks s.tasks s.outKitties
    join := { j with tapRec := s.taps.foldl (fun (t : Tab Nat) e => t.put e.1 e.2) [] }
    deal := { d with
      running := true
      since := if d.running then d.since else h.t64
      number := s.number
      digest := s.digest
      rate := s.rate
      blk := s.blk
      cur := some s
      prepared := none
      committed := false
      tasks := s.tasks
      buses := s.buses
      taps := s.taps.map (·.1)
      limiters := s.limiters
      filters := s.filters
      stagesLeft := s.stages.drop 1
      stageNo := 1
      stagePushed := false
      moves := []
      restarts := [] } }
  let h := if h.g Reg.SYS_STATE_state = 1 then h.p Reg.SYS_STATE_state 2 else h
  let h := ((h.carryModules d.tasks).ampLimits).gateCores
  let d := h.deal
  let h : Hw := { h with deal := { d with seat := h.findSeat, lastRot := h.t64 } }
  let h := h.trace 5 (leBytes 4 s.number ++ leBytes 8 s.switchAt)
  h.toManager 0x15 (leBytes 4 s.number ++ leBytes 1 0)

/-- A later stage's tick has come: its entries have taken effect, and it is acknowledged (R223). -/
def Hw.stageTick (h : Hw) (t : Nat) : Hw :=
  match h.deal.stagesLeft with
  | [] => h
  | st :: rest =>
    if t < st.1 then h
    else
      let d := h.deal
      ({ h with deal := { d with stagesLeft := rest, stageNo := d.stageNo + 1, stagePushed := false } } : Hw).toManager 0x15
        (leBytes 4 d.number ++ leBytes 1 d.stageNo)

/-! ### Moving work between cores -/

/-- Entry i of core n's active list goes to entry k of core m, and n's is disabled. -/
def Hw.moveEntry (h : Hw) (n i m k : Nat) : Hw :=
  let w := (List.range 4).map (fun o => h.rawRead (0x40220400 + n * 0x1000 + i * 0x10 + 4 * o))
  let h := w.zipIdx.foldl (fun h e => h.rawWrite (0x40220400 + m * 0x1000 + k * 0x10 + 4 * e.2) e.1) h
  h.s0 (Reg.TRUSS_TL_ACT0_enable n i)

/-- The lowest entry of core m that is not enabled. -/
def Hw.freeEntry (h : Hw) (m : Nat) : Option Nat :=
  (List.range 32).find? (fun k => !h.b (Reg.TRUSS_TL_ACT0_enable m k)
    && !h.deal.restarts.any (fun r => r.place = some (m, k)))

/-- Module state kept by core × 32 + entry follows its task. -/
def moveKey {α : Type} (t : Tab α) (a b : Nat) : Tab α :=
  match t.find? a with
  | some v => (t.del a).put b v
  | none => t.del b

def Hw.moveState (h : Hw) (a b : Nat) : Hw :=
  let m := h.mods
  { h with mods := { m with noise := moveKey m.noise a b, xfer := moveKey m.xfer a b, gen := moveKey m.gen a b } }

/-- Copy a core's memories to another: X, Y, instruction memory and lane stores (copied state, R224). -/
def Hw.copyCore (h : Hw) (n m : Nat) : Hw :=
  let lo := 0x21000000 + n * 0x100000
  let dst := 0x21000000 + m * 0x100000
  let h' := h.clearMem dst 0xB0000
  h.mem.foldl (fun (g : Hw) (e : Nat × Byte) =>
    if lo ≤ e.1 && e.1 < lo + 0xB0000 then g.wr8 (dst + (e.1 - lo)) e.2 else g) h'

/-- A task takes a new place. -/
def placeTask (ts : List TaskCfg) (t : TaskCfg) (m k : Nat) : List TaskCfg :=
  ts.map (fun x => if x = t then { x with core := Fin.ofNat 10 m, entry := Fin.ofNat 32 k } else x)

/-- Move one task with its entry and state to a core, to the entry given. -/
def Hw.moveTask (h : Hw) (t : TaskCfg) (m k : Nat) : Hw :=
  let n := t.core.val
  let i := t.entry.val
  let h := (h.moveEntry n i m k).moveState (n * 32 + i) (m * 32 + k)
  let d := h.deal
  { h with deal := { d with tasks := placeTask d.tasks t m k } }

/-- Move all the work of a core to an empty core, bit-identical (R217). -/
def Hw.moveCore (h : Hw) (n m : Nat) : Hw :=
  let h := (h.gateCore m false).copyCore n m
  let h := (List.range 32).foldl (fun h i => if h.b (Reg.TRUSS_TL_ACT0_enable n i) then h.moveEntry n i m i else h) h
  let h := (h.deal.tasks.filter (fun t => t.core.val = n)).foldl (fun h t =>
    let i := t.entry.val
    let h := h.moveState (n * 32 + i) (m * 32 + i)
    let d := h.deal
    { h with deal := { d with tasks := placeTask d.tasks t m i } }) h
  let c := h.core n
  let h := (h.setCore m { c with gated := false, entry := none, due := [] }).setCore n {}
  let h := (h.p (Reg.TRUSS_CTRL_run_en m) (h.g (Reg.TRUSS_CTRL_run_en n))).p (Reg.TRUSS_CTRL_run_en n) 0
  ((h.setRun n 0).setRun m 1).gateCores

/-- TEST_SEAT_ROTATE: a standby moves the next occupied core in turn onto the test seat, which the freed core becomes
(R217, R523) (DESIGN CHOICE, log entry 35). -/
def Hw.seatRotate (h : Hw) : Hw :=
  match h.deal.seat with
  | none => h
  | some m =>
    if h.position != twStandby || !h.deal.running then h
    else
      let h := h.advanceTo (h.deal.lastRot + 10000000000)
      match ((List.range 9).map (fun j => (m + 1 + j) % 10)).find? (fun n => h.deal.tasks.any (fun t => t.core.val = n)) with
      | none => h
      | some n =>
        let h := h.moveCore n m
        let d := h.deal
        { h with deal := { d with seat := some n, lastRot := h.t64 } }

/-! ### Live re-deal (R224–R226) -/

/-- The work of a core: its tasks and the restarts placed on it (R210). -/
def Hw.coreWork (h : Hw) (n : Nat) : List Work :=
  ((h.deal.tasks.filter (fun t => t.core.val = n && !h.deal.restarts.any (fun r => r.task = t)))
    ++ (h.deal.restarts.filter (fun r => r.place.any (fun p => p.1 == n))).map (·.task)).map h.taskWork

/-- More tasks fit a core at its present frequency: budget, wake, yield, replay reserve and dividers (R87, R210, R211). -/
def Hw.coreTakes (h : Hw) (n : Nat) (ts : List TaskCfg) : Bool :=
  workFits (blockCycles (h.g (Reg.TRUSS_BENT_STAT_freq_act (n / 5))) h.bs h.fs) h.replayPct (h.coreWork n ++ ts.map h.taskWork)

/-- Why a module may not move to a core of an engine (R225): NO_MOVE, or another engine without the flag; a path whose latency no
longer fits its presentation delay; or work that does not fit the core, where it is this engine's. -/
def Hw.moveRefused (h : Hw) (recId engine core : Nat) : Option Refused :=
  let rs := recordsOf h.deal.planBytes
  let x := h.resources h.deal.rate.val h.deal.blk.val
  let ts := h.deal.tasks.filter (fun t => t.recId = recId && t.core.val != core)
  let delta := fun (s : Nat) => (engOf h.deal.placed.deltas s).getD 0
  let m := h.deal.placed.engines.map (fun e => if e.1 = recId then (recId, engine) else e)
  if rs.any (fun r => r.type = 8 && r.n 8 2 = 5 && r.n 12 4 = recId)
      || (engine != h.ownId && rs.any (fun r => r.id = recId && r.type = 3 && !bitOf (r.n 18 2) 1)) then
    some { reason := rConstraint, recs := [recId] }
  else
    match (planPaths x rs m).find? (fun p => 1000000000 * delta p.src < p.lat + p.lead) with
    | some p =>
      let align := ((recOf rs p.src).map (fun r => r.n 20 4)).getD 0
      some { reason := rEarly, recs := (if align = 0 then [] else [align]) ++ [p.src, p.dst],
             detail := some (ceilDiv (p.lat + p.lead) x.fs, 1000000000 * delta p.src / x.fs) }
    | none =>
      if engine = h.ownId && !h.coreTakes core ts then
        some { reason := rCompute, recs := [recId],
               detail := some (schedLoad h.replayPct (h.coreWork core ++ ts.map h.taskWork),
                 blockCycles (h.g (Reg.TRUSS_BENT_STAT_freq_act (core / 5))) h.bs h.fs) }
      else none

/-- A core that gets work has its quick test stopped at once (R521). -/
def Hw.stopTest (h : Hw) (n : Nat) : Hw :=
  if h.g Reg.BIST_STAT_state = 1 && !h.b Reg.BIST_CTRL_mode && h.bit Reg.BIST_PMASK_mask n then
    let d := h.deal
    { h with deal := { d with stopped := n :: d.stopped } }
  else h

/-- A live re-deal begins: from the next tick both sites run. -/
def Hw.moveStart (h : Hw) (recId engine dst : Nat) : Hw :=
  let src := match h.deal.tasks.find? (fun t => t.recId = recId) with
    | some t => t.core.val
    | none => dst
  let t0 := gridTick h.fs h.bs (h.t64 + 1)
  let d := h.deal
  let mv : MoveSt := { recId := recId, src := src, dst := dst, engine := if engine = h.ownId then none else some engine,
                       t0 := t0, warm := t0 + h.warmNs recId }
  let h := if engine = h.ownId then h.stopTest dst else h
  ({ h with deal := { d with moves := d.moves ++ [mv], stopped := h.deal.stopped } } : Hw).gateCore dst false

/-- LIVE_REDEAL_WARM_END: hand-over at the next tick, by scarfs of 64 samples (R224 steps 3 and 4). -/
def Hw.moveWarmEnd (h : Hw) : Hw :=
  match h.deal.moves.find? (fun m => m.scarfEnd.isNone) with
  | none => h
  | some m =>
    let h := h.advanceTo m.warm
    let t1 := gridTick h.fs h.bs (h.t64 + 1)
    let d := h.deal
    { h with deal := { d with moves := d.moves.map (fun x =>
        if x = m then { x with scarfEnd := some (t1 + ceilDiv (64 * 1000000000) h.fs) } else x) } }

/-- The move of a module's tasks to their new core, where it has room. -/
def Hw.moveModule (h : Hw) (m : MoveSt) : Hw :=
  (h.deal.tasks.filter (fun t => t.recId = m.recId && t.core.val = m.src)).foldl (fun h t =>
    match h.freeEntry m.dst with
    | some k => (h.moveTask t m.dst k).discont t.outKitties
    | none => h) h

/-- At a tick: a live re-deal whose scarf has ended is complete, and is notified (R224 step 5, R257). -/
def Hw.movesTick (h : Hw) (t : Nat) : Hw :=
  let done := fun (m : MoveSt) => match m.scarfEnd with
    | some e => decide (e ≤ t)
    | none => false
  let ended := h.deal.moves.filter done
  if ended.isEmpty then h
  else
    let h := ended.foldl (fun h m => if m.engine.isNone && m.src != m.dst then h.moveModule m else h) h
    let d := h.deal
    (({ h with deal := { d with moves := d.moves.filter (fun m => !done m) } } : Hw).s1 Reg.HOST_IRQ_STAT_notice).gateCores

/-! ### Local re-deal after a fence (R227, R228) -/

/-- The first unfenced core, in rising order, where a task still fits (R210). A task keeps its phase (DESIGN CHOICE, log entry
35). -/
def Hw.fitCore (h : Hw) (not : Nat) (t : TaskCfg) : Option Nat :=
  (List.range 10).find? (fun n =>
    n != not && !h.bit Reg.FAULT_FENCE_core n && (h.freeEntry n).isSome && h.coreTakes n [t])

/-- Tasks by module priority, then rec_id. -/
def taskLt (a b : TaskCfg) : Bool := a.priority < b.priority || (a.priority = b.priority && a.recId < b.recId)

def insTask (t : TaskCfg) : List TaskCfg → List TaskCfg
  | [] => [t]
  | x :: r => if taskLt t x then t :: x :: r else x :: insTask t r

/-- Every module with a task on a fenced core starts again from zero state on other cores, its outputs concealed until
the second tick after the fence; groups that fit nowhere stay concealed (REDEAL_SHORT)
(DESIGN CHOICE, log entry 35). -/
def Hw.localRedeal (h : Hw) (n : Nat) : Hw :=
  let lost := (h.deal.restarts.filter (fun r => r.place.any (fun p => p.1 == n))).map (·.task)
  let hit := (h.deal.tasks.filter (fun t => t.core.val = n && !h.deal.restarts.any (fun r => r.task = t))) ++ lost
  if hit.isEmpty then h.gateCores
  else
    let recs := hit.map (·.recId)
    let d := h.deal
    let h : Hw := { h with deal := { d with restarts := d.restarts.filter (fun r => !lost.contains r.task) } }
    let h := (h.deal.tasks.filter (fun t => recs.contains t.recId)).foldl (fun h t =>
      t.outKitties.foldl (fun h k => h.loseOut k 8) (h.zeroModule t)) h
    let tick := h.epoch.n + 2
    let order := hit.foldr insTask []
    let h := order.foldl (fun h t =>
      let pl := match h.fitCore n t with
        | some m => (h.freeEntry m).map (fun k => (m, k))
        | none => none
      let h := pl.elim h (fun p => h.stopTest p.1)
      let d := h.deal
      ({ h with deal := { d with restarts := d.restarts ++ [⟨t, pl, tick⟩] } } : Hw)) h
    let short := h.deal.restarts.any (fun r => r.place.isNone && order.contains r.task)
    let h := if short then h.raiseU 0x29 else h
    let d := h.deal
    let h : Hw := { h with deal := { d with
      moves := d.moves.filter (fun m => m.src != n && m.dst != n)
      seat := if d.seat = some n || h.deal.restarts.any (fun r => match r.place with
        | some p => d.seat = some p.1
        | none => false) then none else d.seat } }
    let h := if h.twinEn then h.resyncModules (h.deal.tasks.filter (fun t => recs.contains t.recId)) [] else h
    h.gateCore n true

/-- At a tick: restarts whose tick has come run at their new place; until then the outputs stay concealed
(DESIGN CHOICE, log entry 35). -/
def Hw.restartTick (h : Hw) (tickN : Nat) : Hw :=
  let go := h.deal.restarts.filter (fun r => r.tick ≤ tickN && r.place.isSome)
  let h := go.foldl (fun h r =>
    match r.place with
    | some (m, k) =>
      let n := r.task.core.val
      let h := h.gateCore m false
      let h :=
        if h.deal.tasks.any (fun t => t.core.val = m) then
          let (v, h) := h.draw
          h.p (Reg.TRUSS_TL_ACT0_entry_pc n r.task.entry.val) v
        else
          ((h.copyCore n m).clearMem (0x21000000 + m * 0x100000) 0x80000).clearMem (0x21000000 + m * 0x100000 + 0xA0000) 0x10000
      ((h.moveTask r.task m k).discont r.task.outKitties).s1 (Reg.TRUSS_CTRL_run_en m)
    | none => h) h
  let d := h.deal
  let left := d.restarts.filter (fun r => !go.contains r)
  let h : Hw := { h with deal := { d with restarts := left } }
  left.foldl (fun h r => r.task.outKitties.foldl (fun h k => h.loseOut k 8) h) h

/-- A core is fenced while a share is prepared that uses it: before COMMIT the engine is no longer ready (R222). -/
def Hw.fenceShare (h : Hw) (n : Nat) : Hw :=
  match h.deal.prepared with
  | some s =>
    if h.deal.committed || !s.tasks.any (fun t => t.core.val = n) then h
    else
      let (v, h) := h.draw
      h.notReady s.number v
  | none => h

/-- A share in force at tick S that uses a fenced core is re-dealt at once (R222). -/
def Hw.redealFenced (h : Hw) : Hw :=
  (List.range 10).foldl (fun h n =>
    if h.bit Reg.FAULT_FENCE_core n && h.deal.tasks.any (fun t => t.core.val = n) then h.localRedeal n else h) h

/-- The deal's work at a tick, after the changes and swaps. -/
def Hw.dealTick (h : Hw) (t tickN : Nat) : Hw :=
  let h := match h.deal.prepared with
    | some s => if h.deal.committed && s.switchAt ≤ t then (h.switchDeal s).redealFenced else h
    | none => h
  ((h.stageTick t).movesTick t).restartTick tickN

end Sys2Proof.Machine
end

