-- ==== Sys2Proof/Machine/FaultOps.lean ====
section
/-! DEFINITION. The fault unit (R460–R482): classes, reactions, shadow windows, records, the fault state and the way
out of it, and scrubbing. -/

namespace Sys2Proof.Machine

/-! ### Classes and reactions (R461–R464) -/

/-- The class that hardware fixes for an event (R463, R97, R136). -/
def Hw.minClass (h : Hw) (e : FaultEvent) : Nat :=
  let s := e.source
  let c := e.code
  if s < 0x0A then
    (if c = 8 then (if (h.core s).budgetTicks.length ≥ 3 then 1 else 0) else if c = 9 || c = 0x0B then 0 else 1)
  else if s < 0x0C then 2
  else if s < 0x1D || s = 0x20 then (if c = 2 then 1 else 0)
  else if s = 0x1E || s = 0x1F then (if c = 2 then 3 else 0)
  else if s = 0x28 then (if h.join.overruns.length ≥ 3 then 2 else 0)
  else if s = 0x39 || s = 0x3A then 3
  else if s = 0x40 || s = 0x68 || s = 0xF4 then 2
  else if s = 0xF5 then (if c = 2 then 2 else 0)
  else if s = 0x29 || s = 0x38 || inRange s 0x50 0x5E || s = 0x61 || inRange s 0xC0 0xDF || inRange s 0xE4 0xE7
      || inRange s 0xF0 0xF3 || s = 0xF8 || s = 0xF9 || s = 0xFC then 1
  else 0

/-- The reaction that R463 lists for a source; BIST_FAIL fences a truss core partition. -/
def listedReaction (e : FaultEvent) : Nat :=
  let s := e.source
  if s < 0x0A || inRange s 0x10 0x19 then 1
  else if s = 0x0A || s = 0x0B || s = 0x28 || s = 0x40 || s = 0x68 || s = 0xF4 || s = 0xF5 then 6
  else if inRange s 0x1A 0x1C then 5
  else if s = 0x1E || s = 0x1F || s = 0x39 || s = 0x3A then 7
  else if inRange s 0x50 0x5C then 4
  else if inRange s 0xC0 0xCF then 2
  else if inRange s 0xE4 0xE7 || inRange s 0xF0 0xF3 then 3
  else if s = 0xFC && e.context % 256 < 10 then 1
  else 0

/-- The reactions of a non-consequential event of minimum class m recorded at class c (R462). -/
def reactionsOf (e : FaultEvent) (m c : Nat) : List Nat :=
  let r := listedReaction e
  let unit := if r = 6 || r = 7 || r = 0 then [] else [r]
  if c = m then (if m = 0 || r = 0 then [] else [r])
  else if c = 2 then 6 :: (if m = 3 then [] else unit)
  else unit

/-- The subject of a reaction: core, channel, group or link. -/
def subjectOf (e : FaultEvent) : Nat :=
  let s := e.source
  if s < 0x0A then s
  else if inRange s 0x10 0x19 then s - 0x10
  else if inRange s 0x50 0x5C then s - 0x50
  else if inRange s 0xC0 0xCF then s - 0xC0
  else if inRange s 0xE4 0xE7 then s - 0xE4
  else if inRange s 0xF0 0xF3 then s - 0xF0
  else if s = 0xFC then e.context % 256
  else 0

/-- An event lies in the consequence set of a reaction with this subject (R464). -/
def Hw.inSet (h : Hw) (r subject : Nat) (e : FaultEvent) : Bool :=
  let s := e.source
  match r with
  | 1 => s = subject || s = 0x10 + subject || s = 0x28 || s = 0x32 || s = 0x34
  | 2 =>
    let g := h.groupOf subject
    s = 0xC0 + subject || s = 0xD0 + subject || (s = 0xE1 && e.context % 16 = subject) || s = 0xE4 + g || s = 0xE8 + g
  | 3 => s = 0xE4 + subject || s = 0xE8 + subject || (inRange s 0xC0 0xCF && h.groupOf (s - 0xC0) = subject)
      || (s = 0xE1 && h.groupOf (e.context % 16) = subject)
  | 4 => s = 0x50 + subject || s = 0x60 || s = 0x5F || s = 0x35
  | 5 => s = 0x60 || s = 0xF8
  | 6 => inRange s 0xC0 0xE1 || inRange s 0xE4 0xF3 || inRange s 0xF8 0xFB || s = 0x60 || s = 0x28
  | _ => false

/-! ### The history ring (R470, R471, R483) -/

def hist32 (i : Nat) : List RF :=
  [Reg.FAULT_HIST0_t64 i, Reg.FAULT_HIST1_t64 i, Reg.FAULT_HIST2_source i, Reg.FAULT_HIST2_class i,
   Reg.FAULT_HIST2_consequential i, Reg.FAULT_HIST2_cause_valid i, Reg.FAULT_HIST2_cause i, Reg.FAULT_HIST3_code i,
   Reg.FAULT_HIST3_reaction i, Reg.FAULT_HIST3_seq i, Reg.FAULT_HIST4_context i, Reg.FAULT_HIST5_context i,
   Reg.FAULT_HIST6_repeat i, Reg.FAULT_HIST7_valid i]

def first32 : List RF :=
  [Reg.FAULT_FIRST0_t64, Reg.FAULT_FIRST1_t64, Reg.FAULT_FIRST2_source, Reg.FAULT_FIRST2_class,
   Reg.FAULT_FIRST2_consequential, Reg.FAULT_FIRST2_cause_valid, Reg.FAULT_FIRST2_cause, Reg.FAULT_FIRST3_code,
   Reg.FAULT_FIRST3_reaction, Reg.FAULT_FIRST3_seq, Reg.FAULT_FIRST4_context, Reg.FAULT_FIRST5_context,
   Reg.FAULT_FIRST6_repeat, Reg.FAULT_FIRST7_valid]

/-- Store values in a list of fields. -/
def Hw.fill (h : Hw) (fs : List RF) (vs : List Nat) : Hw := (fs.zip vs).foldl (fun h e => h.p e.1 e.2) h

def Hw.histT64 (h : Hw) (i : Nat) : Nat := h.g (Reg.FAULT_HIST0_t64 i) + h.g (Reg.FAULT_HIST1_t64 i) * 2 ^ 32

/-- The index of the newest entry of a source: the ring is read back from the write index. -/
def Hw.newestOf (h : Hw) (source : Nat) : Option Nat :=
  ((List.range 64).map (fun j => (h.g Reg.FAULT_STAT_wr_idx + 127 - j) % 64)).find? (fun i =>
    h.b (Reg.FAULT_HIST7_valid i) && h.g (Reg.FAULT_HIST2_source i) = source)

/-- An INFO event that repeats the newest entry of its source within 1 ms (R470). -/
def Hw.repeats (h : Hw) (e : FaultEvent) : Option Nat :=
  match h.newestOf e.source with
  | some i => if h.g (Reg.FAULT_HIST3_code i) = e.code && e.t64 ≤ h.histT64 i + 1000000 then some i else none
  | none => none

/-! ### Reactions (R99, R464–R468) -/

/-- Reaction 1: the core is fenced, stops at once, and its work is dealt again (R99, R222, R227). -/
def Hw.fenceCore (h : Hw) (n : Nat) : Hw :=
  let h := ((h.setBit Reg.FAULT_FENCE_core n true).s0 (Reg.TRUSS_CTRL_run_en n)).s1 (Reg.TRUSS_STATUS_fenced n)
  let h := (h.modCore n (fun c => { c with entry := none, due := [], loops := [], trapped := true })).setRun n 3
  (h.fenceShare n).localRedeal n

/-- Reaction 3: the group's channels stop, then its boost gates. -/
def Hw.stopGroup (h : Hw) (g : Nat) : Hw :=
  let h := (h.groupChans g).foldl Hw.ampStop h
  (h.setBit Reg.FAULT_FENCE_boost g true).boostUpdate g

/-- Reaction 4: the link is held DOWN for 10 ms. -/
def Hw.holdLink (h : Hw) (k : Nat) : Hw :=
  let f := h.flt
  ({ h with flt := { f with holds := f.holds.put k (h.t64 + 10000000) } } : Hw).linkDown k

/-- Reaction 5: the word is rewritten as zero, and the delay modules whose line holds it start again from zero
(DEDUCED, log entry 39). -/
def Hw.restartWord (h : Hw) (addr : Nat) : Hw :=
  let h := h.wrN (addr / 4 * 4) 4 0
  h.deal.tasks.foldl (fun h t =>
    match t.module with
    | .delay _ _ taps _ =>
      let hit := taps.any (fun tc =>
        let r := h.tapAt (h.join.tapRec.get 0 tc.tap)
        decide (r.line ≤ addr) && decide (addr < r.line + 4 * r.lineLen))
      if hit then t.outKitties.foldl (fun h k => h.loseOut k 8) (h.zeroModule t) else h
    | _ => h) h

/-- Engine safe state (R466): HEALTH falls, the amplifier channels stop, every other sink is muted. -/
def Hw.engineSafe (h : Hw) : Hw :=
  let f := h.flt
  let h : Hw := { h with flt := { f with safe := true } }
  let h := (h.p Reg.SYS_STATE_state 4).p Reg.FAULT_STAT_state 3
  ((h.healthFall.s0 Reg.AMP_MASTER_EN_en).ampStopAll).muteAll

/-- The engine leaves twin service, an active yielding to its peer with a cause, or a standby falling out, and enters engine safe
state; outside twin service it enters engine safe state alone (R455, R466, R467). -/
def Hw.engineOut (h : Hw) (cause : Nat) : Hw :=
  if !h.twinEn then h.engineSafe
  else if h.position = twActive then
    let h := (h.healthFall.setPosition twStandby false).twinSend 0x62 (beBytes 8 h.epoch.tick ++ beBytes 2 cause)
    ((h.exchangeIds false).s0 Reg.TWIN_CTRL_in_service).engineSafe
  else (h.healthFall.s0 Reg.TWIN_CTRL_in_service).engineSafe

/-- Reaction 6 for a source; in twin service an active yields and a standby leaves service (R455, R467)
(DEDUCED, log entry 39). -/
def Hw.engineLevel (h : Hw) (source : Nat) : Hw :=
  let f := h.flt
  ({ h with flt := { f with severe := if f.severe.contains source then f.severe else f.severe ++ [source] } } : Hw).engineOut source

/-- Carry out reaction r. -/
def Hw.react (h : Hw) (e : FaultEvent) (r : Nat) : Hw :=
  let x := subjectOf e
  match r with
  | 1 => h.fenceCore x
  | 2 => h.setBit Reg.FAULT_FENCE_amp x true
  | 3 => h.stopGroup x
  | 4 => h.holdLink x
  | 5 => h.restartWord (e.context % 2 ^ 32)
  | 6 => h.engineLevel e.source
  | 7 => h.engineReset ([Reg.SYS_RST_CAUSE_fatal]
      ++ if e.source = 0x39 || e.source = 0x3A then [Reg.SYS_RST_CAUSE_watchdog] else [])
  | _ => h

/-- The shadow window that a reaction opens (R469). -/
def Hw.openShadow (h : Hw) (e : FaultEvent) (idx r : Nat) : Hw :=
  if r = 0 || r = 7 then h
  else
    let f := h.flt
    { h with flt := { f with
      shadows := f.shadows ++ [⟨r, subjectOf e, idx, e.t64, e.t64 + h.g (Reg.FAULT_SHADOW_len r) * 100000⟩] } }

/-- The newest open window that an event falls within: not of its own arrival cycle, the close included (R469). -/
def Hw.shadowOf (h : Hw) (e : FaultEvent) : Option Shadow :=
  (h.flt.shadows.filter (fun w => decide (w.opened < e.t64) && decide (e.t64 ≤ w.closes)
    && h.inSet w.reaction w.subject e)).getLast?

/-! ### Recording (R462, R469–R477) -/

/-- The fault state begins, or its quiet period starts again (R477). -/
def Hw.enterFaultState (h : Hw) (t : Nat) : Hw :=
  let f := h.flt
  let h : Hw := { h with flt := { f with quietEnd := some (t + h.g Reg.FAULT_QUIET_ms * 1000000) } }
  if h.flt.safe then h.p Reg.FAULT_STAT_state 3 else (h.p Reg.FAULT_STAT_state 1).p Reg.SYS_STATE_state 3

/-- ECC errors are counted, and the address of an uncorrectable word kept (R480, R481). -/
def Hw.countEcc (h : Hw) (e : FaultEvent) : Hw :=
  if !inRange e.source 0x10 0x20 then h
  else if e.code = 2 then (h.inc Reg.FAULT_ECC_UE_count).p Reg.FAULT_ECC_ADDR_addr e.context
  else h.inc Reg.FAULT_ECC_CE_count

/-- Record one event: an INFO event that its source's mask suppresses is not recorded; every other raises the dealer core's
interrupt (R472, R475). -/
def Hw.record (h : Hw) (e : FaultEvent) : Hw :=
  let h := h.countEcc e
  let m := h.minClass e
  let c := max m (min (h.g (Reg.FAULT_CLASS_floor e.source)) 2)
  let rep := if c = 0 then h.repeats e else none
  if c = 0 && h.b (Reg.FAULT_CLASS_mask e.source) then h
  else
    let ti := h.time
    let h : Hw := { h with time := { ti with irq := if ti.irq.contains 128 then ti.irq else ti.irq ++ [128] } }
    match rep with
    | some i => h.inc (Reg.FAULT_HIST6_repeat i)
    | none =>
      let sh := h.shadowOf e
      let conseq := sh.isSome
      let cause := (sh.map (·.cause)).getD 0
      let rs := if conseq && c != 3 then [] else reactionsOf e m c
      let idx := h.g Reg.FAULT_STAT_wr_idx
      let seq := (h.g Reg.FAULT_STAT_seq + 1) % 65536
      let vs := [e.t64 % 2 ^ 32, e.t64 / 2 ^ 32, e.source, c, b2n conseq, b2n conseq, cause, e.code, rs.head?.getD 0, seq,
                 e.context % 2 ^ 32, e.context / 2 ^ 32, 0, 1]
      let h := ((h.fill (hist32 idx) vs).p Reg.FAULT_STAT_wr_idx (idx + 1)).p Reg.FAULT_STAT_seq seq
      let h := h.traceAt e.t64 4 conseq (leBytes 2 e.source ++ leBytes 1 c ++ leBytes 1 e.code
        ++ leBytes 1 (if conseq then cause else 0xFF) ++ leBytes 8 e.context)
      let h := if 2 ≤ c then h.armFreeze else h
      let h := if 1 ≤ c || e.source = 0x60 then
          h.reportEvent (if e.stream = 0xFFFFFFFF then h.ownId else e.stream / 65536) c e.stream
        else h
      let h := if c = 0 || conseq then h
        else
          let h := if h.b Reg.FAULT_FIRST7_valid then h else h.fill first32 vs
          (h.s1 Reg.HOST_IRQ_STAT_fault).enterFaultState e.t64
      rs.foldl (fun h r => (h.openShadow e idx r).react e r) h

/-- Record every waiting event in order; a reaction's own events follow. -/
def Hw.recordAll : Nat → Hw → Hw
  | 0, h => h
  | f + 1, h =>
    match h.flt.queue with
    | [] => h
    | e :: q =>
      let x := h.flt
      Hw.recordAll f (({ h with flt := { x with queue := q } } : Hw).record e)

/-- Links whose hold has ended may train again. -/
def Hw.releaseHolds (h : Hw) : Hw :=
  (h.flt.holds.filter (fun (e : Nat × Nat) => e.2 ≤ h.t64)).foldl (fun (h : Hw) (e : Nat × Nat) =>
    let f := h.flt
    ({ h with flt := { f with holds := f.holds.del e.1 } } : Hw).linkTry e.1) h

/-! ### Commands -/

/-- A source number that R463 lists. -/
def sourceListed (s : Nat) : Bool :=
  s ≤ 0x0B || inRange s 0x10 0x20 || s = 0x28 || s = 0x29 || inRange s 0x30 0x35 || inRange s 0x38 0x3A || s = 0x40
    || s = 0x41 || inRange s 0x48 0x4A || inRange s 0x50 0x61 || inRange s 0x68 0x6C || inRange s 0x70 0xE1
    || inRange s 0xE4 0xF6 || inRange s 0xF8 0xFC

/-- FAULT_EVENT: a report from a listed source. -/
def Hw.faultEvent (h : Hw) (source code context : Nat) : Hw := if sourceListed source then h.raise source code context else h

/-- SHADOW_WINDOW_CLOSE: the oldest window of reaction r ends. An event in the cycle of the close falls within it still (R7, R469):
the window is dropped once that cycle has passed. -/
def Hw.shadowClose (h : Hw) (r : Nat) : Hw :=
  match h.flt.shadows.find? (fun w => w.reaction = r) with
  | none => h
  | some w =>
    let h := h.advanceTo w.closes
    let f := h.flt
    { h with flt := { f with shadows := f.shadows.filter (fun x => h.t64 ≤ x.closes) } }

/-- The conditions of the SEVERE sources that this engine can see have cleared (R478 step 1). -/
def Hw.severeClear (h : Hw) : Bool :=
  h.flt.severe.all (fun s =>
    if s = 0x40 then h.b Reg.SYS_STATE_bridge_up
    else if s = 0x68 then h.b Reg.CLK_STAT_dpll_lock
    else if s = 0x0A || s = 0x0B then (h.rail (s - 0x0A)).noMargin.isNone
    else if s = 0xF4 then (List.range 14).all (fun k => !h.b (Reg.MON_RAIL_out k))
    else if s = 0xF5 then !h.b Reg.MON_TEMP_tj_warn
    else true)

/-- Something stays fenced or latched. -/
def Hw.anyFence (h : Hw) : Bool := h.b Reg.FAULT_FENCE_core || h.b Reg.FAULT_FENCE_boost || h.b Reg.FAULT_FENCE_amp

/-- Work returns to its committed cores by live re-deal (R478 step 4). -/
def Hw.moveBack (h : Hw) : Hw :=
  match h.deal.cur with
  | none => h
  | some s =>
    s.tasks.foldl (fun h t =>
      let away := h.deal.tasks.any (fun x => x.recId = t.recId && x.core != t.core)
      let moving := h.deal.moves.any (fun m => m.recId = t.recId)
      if away && !moving && !h.bit Reg.FAULT_FENCE_core t.core.val then h.moveStart t.recId h.ownId t.core.val else h) h

/-- Steps 3 to 5 of R478. -/
def Hw.exitFinish (h : Hw) : Hw :=
  let f := h.flt
  let h : Hw := { h with flt := { f with
    safe := false
    netStop := false
    severe := []
    quietEnd := none
    exits := h.t64 :: f.exits } }
  let h := (h.muteAll).moveBack
  let h := (h.inc Reg.FAULT_RECOV_count).p Reg.FAULT_RECOV_in_hour (min 15 h.flt.exits.length)
  let fenced := h.anyFence
  (h.p Reg.FAULT_STAT_state (if fenced then 2 else 0)).p Reg.SYS_STATE_state
    (if fenced then 3 else if h.deal.running then 2 else 1)

/-- The exit of R478: the boost groups are checked, and every fenced core runs its self-test. -/
def Hw.exitStart (h : Hw) (boostOk : Nat) : Hw :=
  let h := (List.range 4).foldl (fun h g =>
    if !h.bit Reg.FAULT_FENCE_boost g then h
    else if bitOf boostOk g && !h.b (Reg.BOOST_STAT_therm_warn g) then h.setBit Reg.FAULT_FENCE_boost g false
    else h.raiseU 0xFC) h
  let cores := (List.range 10).filter (fun n => h.bit Reg.FAULT_FENCE_core n)
  let f := h.flt
  if cores.isEmpty then h.exitFinish else { h with flt := { f with testing := cores, quietEnd := none } }

/-- QUIET_PERIOD_END (R478, R479). -/
def Hw.quietEnd (h : Hw) (clear : Bool) (boostOk : Nat) : Hw :=
  match h.flt.quietEnd with
  | none => h
  | some t =>
    let h := h.advanceTo t
    let f := h.flt
    let recent := f.exits.filter (fun x => h.t64 < x + 3600000000000)
    let h : Hw := { h with flt := { f with exits := recent } }
    let h := h.p Reg.FAULT_RECOV_in_hour (min 15 recent.length)
    if !h.b Reg.FAULT_CTRL_auto_exit then
      let f := h.flt
      { h with flt := { f with quietEnd := none } }
    else if recent.length ≥ h.g Reg.FAULT_RECOV_max then
      let f := h.flt
      ({ h with flt := { f with quietEnd := none } } : Hw).s1 Reg.FAULT_STAT_held
    else if !clear || !h.severeClear then
      let f := h.flt
      { h with flt := { f with quietEnd := some (h.t64 + h.g Reg.FAULT_QUIET_ms * 1000000) } }
    else h.exitStart boostOk

/-- RECOVERY_TEST_DONE: a core that passes is unfenced; the last result completes the exit. -/
def Hw.testDone (h : Hw) (n : Nat) (pass : Bool) : Hw :=
  if !h.flt.testing.contains n then h
  else
    let f := h.flt
    let h : Hw := { h with flt := { f with testing := f.testing.filter (· != n) } }
    let h := if pass then
        (((h.setBit Reg.FAULT_FENCE_core n false).s0 (Reg.TRUSS_STATUS_fenced n)).modCore n (fun c => { c with trapped := false })).setRun n 0
      else h.raise 0xFC (Config.faultCode 0xFC % 256) (n + 256)
    if h.flt.testing.isEmpty then h.exitFinish else h

/-- The boost groups whose measured rail and input lie within 2 V of each other, by bit (R478 step 2). -/
def Hw.boostCheck (h : Hw) : Nat :=
  ((List.range 4).map (fun g =>
    let rail := h.g (Reg.BOOST_VMEAS_rail g)
    let vin := h.g (Reg.BOOST_VMEAS_vin g)
    if rail ≤ vin + 256 && vin ≤ rail + 256 then 2 ^ g else 0)).sum

/-- A condition persists: the check repeats at the next quiet period (R478 step 1). -/
def Hw.checkAgain (h : Hw) : Hw :=
  let f := h.flt
  { h with flt := { f with quietEnd := some (h.t64 + h.g Reg.FAULT_QUIET_ms * 1000000) } }

/-- FAULT_CLEAR with its flag word (R479); commanded recovery exits at once. -/
def Hw.faultClear (h : Hw) (w : Nat) : Hw :=
  let h := if bitOf w 0 then (List.range 8).foldl (fun h k => h.s0 (Reg.FAULT_STICKY_bit k)) h else h
  let h := if bitOf w 1 then first32.foldl Hw.s0 h else h
  let h := if bitOf w 2 then (List.range 64).foldl (fun h i => (hist32 i).foldl Hw.s0 h) h else h
  let h := if bitOf w 3 then (List.range 16).foldl (fun h c =>
      if h.b (Reg.AMP_STAT_latched c) then h.ampUnlatch c else h) h
    else h
  if bitOf w 4 then
    let f := h.flt
    let h := (({ h with flt := { f with exits := [] } } : Hw).s0 Reg.FAULT_STAT_held).p Reg.FAULT_RECOV_in_hour 0
    if h.g Reg.FAULT_STAT_state = 0 then h
    else if !h.severeClear then h.checkAgain
    else h.exitStart h.boostCheck
  else h

/-- SCRUB_PERIOD_END (R481). -/
def Hw.scrubEnd (h : Hw) (complete : Bool) : Hw :=
  if h.b Reg.FAULT_SCRUB_en && !complete then h.s1 Reg.FAULT_STAT_scrub_late else h

/-- WATCHDOG_EXPIRE: the dealer's or the peg's watchdog, 100 ms unserved. -/
def Hw.watchdog (h : Hw) (peg : Bool) : Hw := h.raiseU (if peg then 0x3A else 0x39)

/-- The highest class among the sticky sources that are outstanding in the fault state, for TWIN_HEALTH (R447). -/
def Hw.highestClass (h : Hw) : Nat :=
  if !h.flt.severe.isEmpty then 2 else if h.g Reg.FAULT_STAT_state != 0 then 1 else 0

/-- TWIN_HEALTH_SEND. -/
def Hw.twinHealthSend (h : Hw) : Hw :=
  if !h.twinEn then h
  else h.twinSend 0x61 (twinHealthBytes
    { sysState := BitVec.ofNat 32 h.sysStateWord
      cls := h.highestClass
      fenced := BitVec.ofNat 16 (h.g Reg.FAULT_FENCE_core)
      testSeat := h.deal.seat.getD 0xFF
      lastTest := BitVec.ofNat 32 h.deal.lastTest
      tj := BitVec.ofInt 16 (sext 12 (h.g Reg.MON_TEMP_eng) / 16) })

end Sys2Proof.Machine
end

