-- ==== Sys2Proof/Machine/MonOps.lean ====
section
/-! DEFINITION. The monitors (R546–R548), built-in self-test (R515–R523, R526) and the test access port (R524). -/

namespace Sys2Proof.Machine

/-! ### Monitors -/

/-- The range of each rail in µV (R484, R547); an I/O bank lies in the range of 1.8 V or of 3.3 V. -/
def railOk (k mv : Nat) : Bool :=
  let tol := fun (nom : Nat) => decide (nom * 97 ≤ mv * 100) && decide (mv * 100 ≤ nom * 103)
  match k with
  | 0 | 1 => 530 ≤ mv && mv ≤ 770
  | 2 => tol 750
  | 3 => tol 800
  | 4 => tol 900
  | 5 => tol 1200
  | 12 => tol 3300
  | 13 => tol 5000
  | _ => tol 1800 || tol 3300

/-- MON_SUPPLY: a measurement of rail k that has held for 10 µs. -/
def Hw.monSupply (h : Hw) (k mv : Nat) : Hw :=
  let h := h.p (Reg.MON_RAIL_mv k) mv
  if railOk k mv then h.s0 (Reg.MON_RAIL_out k)
  else ((h.s1 (Reg.MON_RAIL_out k)).s1 (Reg.MON_RAIL_seen k)).raise 0xF4 (Config.faultCode 0xF4 % 256) k

/-- MON_TJ: the engine die's junction in 1/16 °C; a code is raised again only after a fall of 5 °C below its
threshold. -/
def Hw.monTj (h : Hw) (t : Int) : Hw :=
  let h := ((h.p Reg.MON_TEMP_eng (lowBits 12 t)).p Reg.MON_TEMP_tj_warn (b2n (1840 ≤ t))).p Reg.MON_TEMP_tj_crit
    (b2n (2000 ≤ t))
  let f := h.flt
  let warn := decide (1840 ≤ t) && !f.tjWarn
  let crit := decide (2000 ≤ t) && !f.tjCrit
  let h : Hw := { h with flt := { f with
    tjWarn := (f.tjWarn || warn) && decide (1760 < t)
    tjCrit := (f.tjCrit || crit) && decide (1920 < t) } }
  let h := if warn then h.raise 0xF5 1 (lowBits 64 t) else h
  if crit then h.raise 0xF5 2 (lowBits 64 t) else h

/-- AGEING_MEASURE: the frequency losses of the 8 monitors in ppm. -/
def Hw.ageing (h : Hw) (loss : List Nat) : Hw :=
  let lim := h.g Reg.MON_AGE_LIM_ppm
  let h := (loss.take 8).zipIdx.foldl (fun (h : Hw) (e : Nat × Nat) =>
    (h.p (Reg.MON_AGE_ppm e.2) e.1).p (Reg.MON_AGE_over e.2) (b2n (decide (lim < e.1)))) h
  if (loss.take 8).any (fun l => decide (lim < l)) then h.raiseU 0xF6 else h

/-- AGEING_MEASURE_NOW: hardware clears age_now when it is done. -/
def Hw.ageingNow (h : Hw) (loss : List Nat) : Hw := (h.ageing loss).s0 Reg.MON_CTRL_age_now

/-! ### BIST -/

/-- Every lane to L2, links and ports down (R519 step 1). -/
def Hw.lanesOff (h : Hw) : Hw :=
  (List.range 8).foldl (fun h n =>
    let h := ((((h.p (Reg.LANE_CTRL_state_req n) 2).p (Reg.LANE_STAT_state n) 2).s0 (Reg.LANE_STAT_busy n)).s0
      (Reg.LANE_STAT_cdr_lock n)).s0 (Reg.LANE_STAT_blk_lock n)
    let h := h.setLane n {}
    match laneLink n with
    | some k => h.linkDown k
    | none => (h.s0 (Reg.MAC_STAT_link n)).s0 (Reg.MAC_STAT_fec_lock n)) h

/-- A full test stops the cores and the Joinery and abandons the deal (R519). -/
def Hw.abandonDeal (h : Hw) : Hw :=
  let h := (List.range 10).foldl (fun h n => ((h.s0 (Reg.TRUSS_CTRL_run_en n)).setCore n {}).setRun n 0) h
  let h := h.s0 Reg.JOIN_CTRL_run
  let d := h.deal
  ({ h with kin := [], kout := [], epoch := {}, bufs := [], join := {}, mods := {},
            deal := { number := d.number, plan := d.plan } } : Hw).lanesOff

/-- BIST_CTRL.start (R526): refused while a run is in progress. -/
def Hw.bistStart (h : Hw) (full : Bool) (master : Nat) : Hw :=
  if h.g Reg.BIST_STAT_state = 1 then h.valueErr 0x40200000 master
  else
    let h := ((h.p Reg.BIST_CTRL_mode (b2n full)).s1 Reg.BIST_CTRL_start).p Reg.BIST_STAT_item 0
    let h := (h.s0 Reg.BIST_STAT_fail).p Reg.BIST_STAT_state 1
    let d := h.deal
    let h : Hw := { h with deal := { d with stopped := [] } }
    if full then h.abandonDeal else h

/-- The OTP reference of a partition in a mode (R517). -/
def Hw.bistRef (h : Hw) (full : Bool) (p : Nat) : Nat := leNat (rdOtp h (0x1000 + b2n full * 0x80 + p * 8) 8)

/-- The result code of an item: a quick test that a re-deal stopped is aborted, one that its unit's work forbids is skipped busy
(R520, R521), and a logic partition passes by its MISR against the reference (R517, R518). -/
def Hw.testCode (h : Hw) (full : Bool) (x : BistItem) : Nat :=
  if !full && h.deal.stopped.contains (x.index % 16) && (x.index % 16) < 10 then 4
  else if !full && !h.quickTakes x.index then 2
  else if 14 ≤ x.index || x.result.val = 2 || x.result.val = 4 then x.result.val
  else
    let r := h.bistRef full x.index
    if r = 2 ^ 64 - 1 then 3 else if x.misr.toNat = r then 0 else 1

/-- One result: its registers, and BIST_FAIL for a failure, with the PMASK bit of the item in its context. -/
def Hw.bistItem (h : Hw) (full : Bool) (x : BistItem) : Hw :=
  if x.index < 14 then
    let r := h.testCode full x
    let h := ((h.p (Reg.BIST_RES_result x.index) r).p (Reg.BIST_SIG_LO_misr x.index) x.misr.toNat).p
      (Reg.BIST_SIG_HI_misr x.index) (x.misr.toNat / 2 ^ 32)
    if r = 1 then h.s1 Reg.BIST_STAT_fail else h
  else if 16 ≤ x.index && x.index < 32 then
    let g := x.index - 16
    let r := h.testCode full x
    let h := ((h.p (Reg.BIST_MRES_result g) r).p (Reg.BIST_MRES_fails g) x.fails).p (Reg.BIST_MADDR_addr g) x.addr.toNat
    if r = 1 then h.s1 Reg.BIST_STAT_fail else h
  else h

/-- What lies in a memory group that March C- tests; a tested one is left zero (R516, R519 step 6). -/
def inGroup (g a : Nat) : Bool :=
  if g < 10 then inRange a (0x21000000 + g * 0x100000) (0x210AFFFF + g * 0x100000)
  else if g < 12 then inRange a (0x20000000 + (g - 10) * 0x200000) (0x201FFFFF + (g - 10) * 0x200000)
  else if g = 12 then inRange a 0x10000000 0x11FFFFFF
  else if g = 13 then inRange a 0x38000000 0x383FFFFF
  else if g = 15 then 0xFF000000 ≤ a
  else false

/-- A word of the DMA descriptor store, which lies in memory group 15, by its register key. -/
def inDescStore (key : Nat) : Bool := inRange (key / 32) 0x40028000 0x4002FFFF

/-- The records of a BIST_RUN response: one for each partition and memory group, as the registers hold them (R518). -/
def Hw.bistBody (h : Hw) (items : List BistItem) : List Byte :=
  (List.range 14).flatMap (fun p => leBytes 1 p ++ leBytes 1 (h.g (Reg.BIST_RES_result p)) ++ [0, 0]
    ++ leBytes 4 (h.g (Reg.BIST_SIG_LO_misr p)) ++ leBytes 4 (h.g (Reg.BIST_SIG_HI_misr p)))
  ++ (List.range 16).flatMap (fun g => leBytes 1 g ++ leBytes 1 (h.g (Reg.BIST_MRES_result g))
    ++ leBytes 2 (h.g (Reg.BIST_MRES_fails g)) ++ leBytes 2 ((items.find? (fun x => x.index = 16 + g)).elim 0 (·.firstInst))
    ++ [0, 0] ++ leBytes 4 (h.g (Reg.BIST_MADDR_addr g)))

/-- The quick test of a standby that left service starts (R451). -/
def Hw.divergeTest (h : Hw) : Hw :=
  let w := h.twin
  if w.diverged = 0 || h.g Reg.BIST_STAT_state = 1 then h
  else (({ h with twin := { w with diverged := 0, divTest := true } } : Hw).p Reg.BIST_PMASK_mask w.diverged).bistStart false 0x0A

/-- That test has ended: where it passes, the standby resynchronises its whole share and returns to service (R451). -/
def Hw.divergeDone (h : Hw) (pass : Bool) : Hw :=
  let w := h.twin
  if !w.divTest then h
  else
    let h : Hw := { h with twin := { w with divTest := false, rejoin := pass } }
    if pass then h.deal.tasks.foldl (fun h m => h.twinSend 0x65 (beBytes 4 m.recId ++ beBytes 4 0 ++ beBytes 4 0)) h else h

/-- BIST_DONE: results are compared and reported; a full test ends in ready with no deal (R517–R523)
(UNVERIFIED, log entry 30). -/
def Hw.bistDone (h : Hw) (items : List BistItem) (aborted : Bool) : Hw :=
  if h.g Reg.BIST_STAT_state != 1 then h
  else
    let full := h.b Reg.BIST_CTRL_mode
    let items := items.filter (fun x => h.bit Reg.BIST_PMASK_mask x.index)
    let codes := items.map (fun x => (x, h.testCode full x))
    let h := items.foldl (fun h x => h.bistItem full x) h
    let h := (h.p Reg.BIST_STAT_state (if aborted then 3 else 2)).s0 Reg.BIST_CTRL_start
    let h := codes.foldl (fun h e =>
      if e.2 = 1 then h.raise 0xFC (Config.faultCode 0xFC % 256) (e.1.index + 256 * e.2) else h) h
    let marched := (codes.filter (fun e => 16 ≤ e.1.index && e.2 ≤ 1 && (full || e.1.index < 26))).map (fun e => e.1.index - 16)
    let h := h.keepMem (fun x => !marched.any (fun g => inGroup g x))
    let h : Hw := { h with regs := if marched.contains 15 then h.regs.filter (fun e => !inDescStore e.1) else h.regs }
    let f := h.flt
    let h : Hw := if full && h.b Reg.MBX_STATUS_ready then
        (({ h with flt := { f with safe := false, severe := [], quietEnd := none, netStop := false } } : Hw).p
          Reg.SYS_STATE_state 1).p Reg.FAULT_STAT_state 0
      else h
    let d := h.deal
    let h : Hw := match d.rotTest, d.seat, codes.find? (fun e => some e.1.index = d.seat) with
      | true, some n, some e => { h with deal := { d with lastTest := n + 256 * e.2, rotTest := false } }
      | _, _, _ => { h with deal := { d with rotTest := false } }
    let h := h.divergeDone (!aborted && !codes.any (fun e => e.2 = 1))
    if h.serving 0xA01 then (h.s1 Reg.HOST_IRQ_STAT_notice).result sOk (tlv 0x100 (h.bistBody items)) else h

/-- BIST_RUN (R518, R519). One that selects the test seat takes it from a rotating test, which is abandoned (R521). -/
def Hw.bistRun (h : Hw) (mode mask force : Nat) : Hw :=
  if !h.serving 0xA01 then h
  else if mode > 1 || force > 1 then h.result sParamRange []
  else
    let live := h.g Reg.SYS_STATE_state = 2 || h.g Reg.SYS_STATE_state = 3
    if mode = 1 && live && force = 0 then h.result sParamRange []
    else
      let d := h.deal
      let h : Hw := if d.rotTest && d.seat.any (fun n => bitOf mask n) then
          ({ h with deal := { d with rotTest := false } } : Hw).p Reg.BIST_STAT_state 0
        else h
      if h.g Reg.BIST_STAT_state = 1 then h.bistStart (mode = 1) 0x0A
      else
        let h := h.p Reg.BIST_PMASK_mask mask
        (if mode = 1 then h.engineOut 0xFC else h).bistStart (mode = 1) 0x0A

/-- After a rotation a standby in service runs the quick test of the freed core (R523). -/
def Hw.seatTest (h : Hw) : Hw :=
  match h.deal.seat with
  | some n =>
    if h.position != twStandby || !h.b Reg.TWIN_CTRL_in_service || h.g Reg.BIST_STAT_state = 1 then h
    else
      let h := (h.p Reg.BIST_PMASK_mask (2 ^ n + 2 ^ (16 + n))).bistStart false 0x0A
      let d := h.deal
      { h with deal := { d with rotTest := true } }
  | none => h

/-! ### The test access port -/

def Hw.tapIr (h : Hw) (i : TapInstr) (out : Nat) : Hw :=
  let t := h.tap
  { h with tap := { t with ir := i, out := out } }

/-- IDCODE: eng_rev in [31:28], 0x0960 in [27:12], 0x6F1 in [11:1], 1 in [0] (R524, R528). -/
def idcodeWord : Nat := 1 * 2 ^ 28 + 0x0960 * 2 ^ 12 + 0x6F1 * 2 + 1

/-- SAMPLE/PRELOAD: cells are loaded into the boundary register. -/
def Hw.tapSample (h : Hw) (cells : List Bool) : Hw :=
  let t := h.tap
  { h with tap := { t with ir := .samplePreload, boundary := cells } }

/-- EXTEST, CLAMP and HIGHZ hold the amplifier and boost gates low. -/
def Hw.tapDrives (h : Hw) : Bool := h.tap.ir = .extest || h.tap.ir = .clamp || h.tap.ir = .highz

/-- Private instructions: BIST_CTRL, and reads of the BIST block, while SYS_STATE.state is boot or ready. -/
def Hw.tapBist (h : Hw) (write : Bool) (off value : Nat) : Hw :=
  if h.g Reg.SYS_STATE_state > 1 then h
  else if write then
    let h := h.tapIr .bist 0
    if off != 0 then h
    else if bitOf value 0 then h.bistStart (bitOf value 1) 0x3F
    else if h.g Reg.BIST_STAT_state = 1 then h.valueErr 0x40200000 0x3F
    else h.p Reg.BIST_CTRL_mode (bitsOf value 1 1)
  else h.tapIr .bist (h.rawRead (0x40200000 + off / 4 * 4))

/-- The reset instruction (R492). -/
def Hw.tapReset (h : Hw) : Hw := (h.engineReset [Reg.SYS_RST_CAUSE_jtag]).tapIr .reset 0

/-- TRST_N resets the port alone. -/
def Hw.trst (h : Hw) : Hw := { h with tap := {} }

end Sys2Proof.Machine
end

