-- ==== Sys2Proof/Machine/Settle.lean ====
section
/-! DEFINITION. The end of a command: the fault unit records the events that it raised (R460–R476); and the accesses
that reach registers and memory over the crossbar, with their outcomes (R263–R275, R292, R306, R480). -/

namespace Sys2Proof.Machine

/-! ### The end of a command -/

/-- HOST_IRQ_STAT and HOST_IRQ_EN have a bit in common (R238). -/
def Hw.hostIrq (h : Hw) : Bool :=
  [(Reg.HOST_IRQ_STAT_mbx_done, Reg.HOST_IRQ_EN_mbx_done), (Reg.HOST_IRQ_STAT_reject, Reg.HOST_IRQ_EN_reject),
   (Reg.HOST_IRQ_STAT_fault, Reg.HOST_IRQ_EN_fault), (Reg.HOST_IRQ_STAT_role, Reg.HOST_IRQ_EN_role),
   (Reg.HOST_IRQ_STAT_ref, Reg.HOST_IRQ_EN_ref), (Reg.HOST_IRQ_STAT_snap, Reg.HOST_IRQ_EN_snap),
   (Reg.HOST_IRQ_STAT_trace, Reg.HOST_IRQ_EN_trace), (Reg.HOST_IRQ_STAT_time, Reg.HOST_IRQ_EN_time),
   (Reg.HOST_IRQ_STAT_mbx_timeout, Reg.HOST_IRQ_EN_mbx_timeout),
   (Reg.HOST_IRQ_STAT_notice, Reg.HOST_IRQ_EN_notice)].any (fun e => h.b e.1 && h.b e.2)

/-- A source with FAULT_CLASS.pin has its sticky bit set (R474). -/
def Hw.faultPin (h : Hw) : Bool :=
  (List.range 8).any (fun k => h.b (Reg.FAULT_STICKY_bit k)
    && (List.range 32).any (fun j => h.bit (Reg.FAULT_STICKY_bit k) j && h.b (Reg.FAULT_CLASS_pin (32 * k + j))))

/-- A bit is set in both DMA_IRQ_STAT and DMA_IRQ_EN: the DMA interrupt of the dealer core (R317). -/
def Hw.dmaIrq (h : Hw) : Bool :=
  (List.range 16).any (fun c => (h.bit Reg.DMA_IRQ_STAT_done c && h.bit Reg.DMA_IRQ_EN_en c)
    || (h.bit Reg.DMA_IRQ_STAT_err c && h.bit Reg.DMA_IRQ_EN_en (16 + c)))

/-- The level of every output pin (R238, R240, R317, R419, R429, R474, R493, R524). The engine runs while its state is
running, degraded or engine safe state (DEDUCED, log entry 32). -/
def Hw.levels (h : Hw) : Outs :=
  let st := h.g Reg.SYS_STATE_state
  let ck := h.g Reg.CLK_STAT_state
  { hostIrqN := !h.hostIrq
    faultN := h.b Reg.MBX_STATUS_ready && st != 3 && st != 4 && !h.faultPin
    muteOutN := (st = 2 || st = 3) && !h.sinksOff
    clkLock := h.clk.shown && ck = 2
    clkHold := h.clk.shown && (ck = 1 || ck = 3 || ck = 4 || ck = 5)
    clkFree := h.clk.shown && ck = 0
    ampGates := (List.range 16).filter (fun c => (h.ampSt c).gates && !h.sill.safe && !h.tapDrives)
    boostGates := (List.range 4).filter (fun g => h.g (Reg.BOOST_STAT_state g) = 2 && !h.sill.safe && !h.tapDrives)
    dmaIrq := h.dmaIrq }

/-- The output pins take their levels, and no posted register write is left: those of the command have taken effect. -/
def Hw.drive (h : Hw) : Hw := { h with outs := h.levels, posted := [] }

/-- The end of a command: the fault unit records every waiting event with its reactions, what waits on T64 or on a report
happens, and the output pins follow (DESIGN CHOICE, log entry 13). -/
def Hw.settle (h : Hw) : Hw := (Hw.recordAll 64 (h.releaseHolds.divergeTest.retuneDue.muteDue.pollsDue)).drive

/-- The answer of a command whose effect leaves the hardware `h`: the fault unit has acted on what it raised. -/
def done (s : State) (h : Hw) : Host.Outcome State Fault Refusal := .next { s with hw := h.settle }

/-- The answer of a command that may write reserved bits: none stands for such a write (R272). -/
def doneIf (s : State) (h : Option Hw) : Host.Outcome State Fault Refusal :=
  match h with
  | some h => done s h
  | none => .fault .reservedBitsWritten

/-! ### Register words -/

/-- A 32-bit write of a register by a master; none where it changes a reserved field (R272). A write that times out never
takes effect (R269). -/
def Hw.wordWrite (h : Hw) (a w master : Nat) : Option Hw :=
  if h.stalls a then some (h.accErr kTimeout a true 2 master)
  else if h.rsvBad a w then none
  else if a = 0x40200000 && h.g Reg.BIST_STAT_state != 1 && bitOf w 0 then
    some ((h.fieldsWrite a w).bistStart (bitOf w 1) master)
  else some (h.regRule a w master)

/-- A 32-bit read of a register by a master; one that times out gives zero (R269). -/
def Hw.busRead (h : Hw) (a size master : Nat) : Hw × Nat :=
  if h.stalls a then (h.accErr kTimeout a false size master, 0) else (h, h.regRead a)

/-- Successive 32-bit reads of registers in address order. -/
def Hw.busReads (h : Hw) (a master : Nat) : Nat → Hw × List Byte
  | 0 => (h, [])
  | n + 1 =>
    let (h, w) := h.busRead a 2 master
    let (h, bs) := Hw.busReads h (a + 4) master n
    (h, leBytes 4 w ++ bs)

/-- The register writes that truss cores posted take effect in their order (R73, R267); one of them may step another core,
which posts more (DESIGN CHOICE, log entry 53). -/
def Hw.runPosted : Nat → Hw → Option Hw
  | 0, h => some h
  | f + 1, h =>
    match h.posted with
    | [] => some h
    | e :: q => (({ h with posted := q } : Hw).wordWrite e.2.1 e.2.2.toNat e.1).bind (Hw.runPosted f)

/-- A write that steps a halted core: TRUSS_CTRL.step. -/
def stepsCore (a w : Nat) : Bool := inRange a 0x40220000 0x40229FFF && a % 0x1000 = 0 && bitOf w 2

/-- A 32-bit write of a register, with the writes that a core posts which it steps. -/
def Hw.busWrite (h : Hw) (a w master : Nat) : Option Hw :=
  let o := h.wordWrite a w master
  if stepsCore a w then o.bind (Hw.runPosted 4096) else o

/-- Successive 32-bit writes in address order (R264). -/
def Hw.busWords (h : Hw) (a master : Nat) : List Nat → Option Hw
  | [] => some h
  | w :: ws => match h.busWrite a w master with
    | some h => Hw.busWords h (a + 4) master ws
    | none => none

/-- The two halves of a 64-bit write, lower address first; the record of an error that one of them leaves says so (R265,
R280). -/
def Hw.busHalves (h : Hw) (a master lo hi : Nat) : Option Hw :=
  let half := fun (h : Hw) (a w : Nat) => (h.busWrite a w master).map (fun g =>
    if !h.b Reg.SYS_ACC_ERR_INFO_valid && g.b Reg.SYS_ACC_ERR_INFO_valid then g.p Reg.SYS_ACC_ERR_INFO_size 3 else g)
  (half h a lo).bind (fun h => half h (a + 4) hi)

/-- The answer of a command that may post register writes. -/
def donePosted (s : State) (h : Hw) : Host.Outcome State Fault Refusal := doneIf s (Hw.runPosted 4096 h)

/-! ### REGISTER_WRITE (R264–R266, R273) -/

/-- A write by a master at a size: narrow and unaligned writes of a register are discarded with an error response; a
64-bit write is two; memory is written under byte enables (DEDUCED, log entry 10). -/
def Hw.masterWrite (h : Hw) (m : Nat) (size : Size) (a v : Nat) : Option Hw :=
  let n := match size with
    | .b8 => 1
    | .b16 => 2
    | .b32 => 4
    | .b64 => 8
  let code := match size with
    | .b8 => 0
    | .b16 => 1
    | .b32 => 2
    | .b64 => 3
  if a % n != 0 then some (h.accErr kUnaligned a true code m)
  else
    match h.place m false a with
    | .reg b =>
      if n < 4 then some (h.accErr kNarrow a true code m)
      else if n = 4 then h.busWrite b (v % 2 ^ 32) m
      else h.busHalves b m (v % 2 ^ 32) (v / 2 ^ 32 % 2 ^ 32)
    | .mem b => some (h.wrN b n (v % 256 ^ n))
    | .rom _ => some h
    | .gated => some (h.accErr kTimeout a true code m)
    | _ => some (h.accErr kDecode a true code m)

/-- REG_ACCESS_TIMEOUT (R269): the access ends with an error response and never takes effect. -/
def Hw.regTimeout (h : Hw) (m a : Nat) (write : Bool) : Hw := h.accErr kTimeout a write 2 m

/-! ### XBAR_PIECE_RESPONSE -/

/-- A piece has ended with an error response: no further piece of its burst is issued (R292). -/
def Hw.pieceErr (h : Hw) (t : Nat) (p : Piece) : Hw := ((h.pieceDone t p).addAttr p.master aErr).endBurst p.master

/-- A piece has completed: a read's data have arrived, and the next piece of the burst is requested. -/
def Hw.pieceOk (h : Hw) (t : Nat) (p : Piece) (data : List Byte) : Hw :=
  let h := h.pieceDone t p
  let b := h.burst p.master
  (h.setBurst p.master { b with data := b.data ++ data }).issue p.master

/-- A piece at a target whose place is known. -/
def Hw.pieceAt (h : Hw) (t : Nat) (p : Piece) (ecc : Option Bool) : Option Hw :=
  match h.place p.master p.dealer p.addr with
  | .mem a =>
    if p.write then some ((h.wrBytes a p.data).pieceOk t p [])
    else
      let h := match ecc with
        | some d => h.eccEvent a d
        | none => h
      if ecc = some true then some (h.pieceErr t p) else some (h.pieceOk t p (h.rdBytes a p.len))
  | .rom o =>
    some (h.pieceOk t p (if p.write then [] else (List.range p.len).map (fun i => Config.bootRom (o + i))))
  | .reg a =>
    if p.addr % 4 != 0 then some ((h.accErr kUnaligned p.addr p.write 2 p.master).pieceErr t p)
    else if p.write then
      let ws := (List.range (p.data.length / 4)).map (fun i => leNat ((p.data.drop (4 * i)).take 4))
      match h.busWords a p.master ws with
      | none => none
      | some h =>
        if p.data.length % 4 = 0 then some (h.pieceOk t p [])
        else some ((h.accErr kNarrow (p.addr + p.data.length / 4 * 4) true 2 p.master).pieceErr t p)
    else
      let h := match ecc with
        | some d => h.eccEvent a d
        | none => h
      if ecc = some true then some (h.pieceErr t p)
      else if h.stalls a then some ((h.accErr kTimeout a false 2 p.master).pieceErr t p)
      else
        let (h, bs) := h.busReads a p.master ((p.len + 3) / 4)
        some (h.pieceOk t p (bs.take p.len))
  | .gated => some ((h.accErr kTimeout p.addr p.write 2 p.master).pieceErr t p)
  | _ => some ((h.accErr kDecode p.addr p.write 2 p.master).pieceErr t p)

/-- XBAR_PIECE_RESPONSE: the piece in flight at a target completes. A piece whose master was reset keeps its beats with
strobes off (R307); a remote piece completes by its answer. -/
def Hw.pieceResponse (h : Hw) (t : Nat) (ecc : Option Bool) : Option Hw :=
  match (h.arb t).inFlight with
  | none => some h
  | some p =>
    if t = 0x32 then some h
    else if p.len = 0 then some (h.pieceDone t p)
    else (h.pieceAt t p ecc).map (Hw.remoteSend 4)


end Sys2Proof.Machine
end

