-- ==== Sys2Proof/Machine/HostOps.lean ====
section
/-! DEFINITION. The QSPI host port (R229–R235, R244, R276): reads and writes of the host window. -/

namespace Sys2Proof.Machine

/-- What a host address names (R235). -/
inductive HostPlace where
  | reg (a : Nat)
  | cmdBuf | respBuf | bulk
  /-- the debug window, while unlocked: an internal address -/
  | debug (a : Nat)
  | unmapped
deriving DecidableEq, Repr

def Hw.hostPlace (h : Hw) (a : Nat) : HostPlace :=
  if a < 0x1000 then .reg (0x400F0000 + a)
  else if a < 0x1400 then .cmdBuf
  else if a < 0x1800 then .respBuf
  else if inRange a 0x10000 0x1FFFF then .bulk
  else if inRange a 0x800000 0xAFFFFF && h.b Reg.SYS_DEBUG_unlocked then .debug (0x40000000 + (a - 0x800000))
  else .unmapped

/-- The end of the region in which a burst starts (R234, R235). -/
def hostEnd (start : Nat) : Nat :=
  if start < 0x1000 then 0x1000
  else if start < 0x1400 then 0x1400
  else if start < 0x1800 then 0x1800
  else if inRange start 0x10000 0x1FFFF then 0x20000
  else 0x1000000

/-- What an address of a burst names: a burst that runs past the end of its region continues into unmapped space (R234). -/
def Hw.burstPlace (h : Hw) (start a : Nat) : HostPlace := if a < hostEnd start then h.hostPlace a else .unmapped

/-- An error of a host transaction: size code 4, master 0x3E (R280). -/
def Hw.hostErr (h : Hw) (kind a : Nat) (write : Bool) : Hw :=
  let rec' := match h.hostPlace a with
    | .debug b => b
    | _ => hostBase + a
  h.accErr kind rec' write 4 0x3E

/-- The word of a place at a host address, and none where it is unmapped (R234). -/
def Hw.hostWord (h : Hw) (p : HostPlace) (a : Nat) : Option Nat :=
  match p with
  | .reg b => some (if b < 0x400F0100 then h.regRead b else 0)
  | .cmdBuf | .respBuf | .bulk => some (h.rdN (hostBase + a) 4)
  | .debug b => if isRegBlock b then some (if h.stalls b then 0 else h.regRead b) else none
  | .unmapped => none

/-- A read of the debug window that ends with the stall timeout (R230, R269). -/
def Hw.hostStalls (h : Hw) (a : Nat) : Bool :=
  match h.hostPlace a with
  | .debug b => isRegBlock b && h.stalls b
  | _ => false

/-- The words of a read burst that started at an address. -/
def Hw.hostWords (start : Nat) : Nat → Hw → Nat → List Nat → Hw × List Nat
  | 0, h, _, out => (h, out.reverse)
  | n + 1, h, a, out =>
    match h.hostWord (h.burstPlace start a) a with
    | some w => Hw.hostWords start n (if h.hostStalls a then h.hostErr kTimeout a false else h) (a + 4) (w :: out)
    | none => Hw.hostWords start n (h.hostErr kDecode a false) (a + 4) (0 :: out)

/-- The tokens of n words read without an error: one before the first word, and in the debug window one before each (R231). -/
def Hw.okTokens (h : Hw) (a n : Nat) : List Nat :=
  match h.hostPlace a with
  | .debug _ => List.replicate n 0xA5
  | _ => [0xA5]

/-- HOST_READ (R230, R231, R234, R264): the words and the tokens that the port drives. After a stall timeout it drives
0x5A and zero until the transaction ends. -/
def Hw.hostRead (h : Hw) (a n : Nat) : Hw :=
  let stop := (List.range n).find? (fun i => h.hostStalls (a + 4 * i))
  let (h, ws, tok) := if a % 4 != 0 then (h.hostErr kUnaligned a false, List.replicate n 0, [0x5A])
    else match stop with
      | some i =>
        let (g, ws) := Hw.hostWords a (i + 1) h a []
        (g, ws ++ List.replicate (n - (i + 1)) 0, List.replicate i 0xA5 ++ [0x5A])
      | none => let (g, ws) := Hw.hostWords a n h a []; (g, ws, h.okTokens a n)
  let m := h.mbx
  { h with mbx := { m with hostOut := ws, hostTokens := tok } }

/-- One word of a write burst (R232, R234, R244). A write of the command or bulk buffer while a command runs is
discarded: `rejected` says that this transaction has been counted. -/
def Hw.hostPut (h : Hw) (start a w : Nat) (rejected : Bool) : Option (Hw × Bool) :=
  match h.burstPlace start a with
  | .reg b => if 0x400F0100 ≤ b then some (h, rejected) else (h.busWrite b w 0x3E).map (·, rejected)
  | .cmdBuf | .bulk =>
    if h.b Reg.MBX_STATUS_busy then some (if rejected then h else h.hostReject, true)
    else some (h.wrN (hostBase + a) 4 w, rejected)
  | .respBuf | .unmapped => some (h.hostErr kDecode a true, rejected)
  | .debug b => if isRegBlock b then (h.busWrite b w 0x3E).map (·, rejected) else some (h.hostErr kDecode a true, rejected)

def Hw.hostPuts (h : Hw) (start a : Nat) (rejected : Bool) : List Nat → Option Hw
  | [] => some h
  | w :: ws => match h.hostPut start a w rejected with
    | some (h, r) => Hw.hostPuts h start (a + 4) r ws
    | none => none

/-- HOST_WRITE: the words in address order, and the bytes of a word left unfinished (R232). -/
def Hw.hostWrite (h : Hw) (a : Nat) (ws : List Word) (part : Nat) : Option Hw :=
  if a % 4 != 0 then some (h.hostErr kUnaligned a true)
  else match h.hostPuts a a false (ws.map BitVec.toNat) with
    | some h => some (if part = 0 then h else h.hostErr kNarrow (a + 4 * ws.length) true)
    | none => none

/-- HOST_BAD_OPCODE (R229): no address has arrived; the record's address is the window's first. -/
def Hw.hostBadOpcode (h : Hw) : Hw := h.hostErr kDecode 0 false

/-- DEBUG_LIFETIME_END (R277). -/
def Hw.debugLifetimeEnd (h : Hw) : Hw :=
  if h.b Reg.SYS_DEBUG_unlocked then (h.advanceTo h.mbx.unlockEnd).debugLock else h

end Sys2Proof.Machine
end

