-- ==== Sys2Proof/Machine/ParamOps.lean ====
section
/-! DEFINITION. Parameters (R259–R262): what a param_id names, its range, its value, and how a change of it takes
effect. -/

namespace Sys2Proof.Machine

/-- What a target and a param_id name on this engine. -/
inductive Param where
  /-- a register field, whose value is the parameter less an offset -/
  | field (f : RF) (off : Nat)
  /-- a time of R261, in µs, that a register field holds in units of so many µs (DEDUCED, log entry 46) -/
  | timed (f : RF) (us : Nat)
  | postFreeze
  /-- a hold default of R38: 0 input kitties, 1 output kitties, 2 amplifier sinks -/
  | holdDef (i : Nat)
  /-- a figure of the ENGINE record in percent: its offset and default (R198), read only -/
  | figure (off dflt : Nat)
  | inHold (kitty : Nat)
  | inGmac (kitty : Nat)
  /-- a source's presentation delay in samples, read only -/
  | inDelay (kitty : Nat)
  | outHold (kitty : Nat)
  /-- output compensation in samples, and external latency in ns (R25, R198) -/
  | outComp (kitty : Nat)
  | outExt (kitty : Nat)
  /-- the code of the PTP profile (R335) -/
  | profile
  /-- a gain of the change queue: its kind, a and b (R169) -/
  | gain (kind a b : Nat)
  /-- a field of a limiter record: offset and length (R157) -/
  | lim (i off len : Nat)
  | hpfType (i : Nat)
  | hpfCorner (i : Nat)
  /-- a byte of a meter record (R149) -/
  | meter (i off : Nat)
  | tap (tap maxDelay : Nat) (remote : Bool)
  | module (recId mtype number : Nat)
deriving DecidableEq, Repr

/-- Parameters of a boost group, an amplifier channel and a protected carrier, in the order of R259. -/
def boostParam (g k : Nat) : Option RF :=
  [Reg.BOOST_CTRL_la_extra g, Reg.BOOST_RAIL_v_min g, Reg.BOOST_RAIL_v_max g, Reg.BOOST_SLEW_up g, Reg.BOOST_SLEW_down g,
   Reg.BOOST_OVP_ovp g, Reg.BOOST_OVP_track g, Reg.BOOST_CTRL_fsw g, Reg.BOOST_SCALE_vs_div g, Reg.BOOST_SCALE_vin_div g,
   Reg.BOOST_THERM_warn g, Reg.BOOST_THERM_trip g, Reg.BOOST_THERM_fold g][k - 1]?

def ampParam (c k : Nat) : Option RF :=
  [Reg.AMP_CFG_vfs c, Reg.AMP_CFG_dead c, Reg.AMP_CFG_group c, Reg.AMP_OSC_f_idle c, Reg.AMP_OSC_f_floor c,
   Reg.AMP_OSC_f_ol c, Reg.AMP_CTRL_mode c, Reg.AMP_PROT_ilim c, Reg.AMP_PROT_dc_thr c, Reg.AMP_PROT_dc_en c,
   Reg.AMP_CTRL_retry_en c][k - 1]?

def carrierParam (i k : Nat) : Option RF :=
  [Reg.AMP_CARRIER_freq i, Reg.AMP_CARRIER_guard i, Reg.AMP_CARRIER_en i][k - 12]?

def refParam (r k : Nat) : Option RF :=
  [Reg.CLK_REF_CFG_prio r, Reg.CLK_REF_WTR_wtr r, Reg.CLK_QUAL0_soft_maj, Reg.CLK_QUAL0_hard_maj, Reg.CLK_QUAL0_soft_xo,
   Reg.CLK_QUAL0_hard_xo, Reg.CLK_QUAL1_drift, Reg.CLK_QUAL1_persist][k - 1]?

/-- The taps of a module's record, in order. -/
def Hw.tapsOf (h : Hw) (recId : Nat) : List (TapCfg × Nat) :=
  (h.deal.tasks.filter (fun t => t.recId = recId)).flatMap (fun t => match t.module with
    | .delay _ maxDelay taps _ => taps.map (·, maxDelay)
    | _ => [])

/-- The parameter of a module: its delay taps, or one that MODULE_INFO lists. -/
def Hw.moduleParam (h : Hw) (recId idx mtype num : Nat) : Option Param :=
  if !h.deal.tasks.any (fun t => t.recId = recId) then none
  else if Config.paramNo 0x10 mtype num = 1 && (mtype = 0x0020 || mtype = 0x0021) then
    ((h.tapsOf recId)[idx]?).map (fun t => .tap t.1.tap t.2 t.1.remote)
  else if Config.moduleParamLen mtype num = 0 then none else some (.module recId mtype num)

/-- The parameter that a target and a param_id name in the running deal, by class (R259). -/
def Hw.param (h : Hw) (p : ParamKey) : Option Param :=
  let cls := p.id / 2 ^ 24 % 256
  let sub := p.id / 256 % 65536
  let num := p.id % 256
  let k := Config.paramNo cls sub num
  let o := Config.targetObj h.deal.number p.recId p.index cls
  let engine := fun (f : Option RF) => if sub = 0 then f.map (Param.field · 0) else none
  if !h.deal.running || k = 0 && cls != 0x10 then none
  else match cls with
  | 0x01 => if sub != 0 then none else match k with
    | 1 | 2 | 3 => some (.holdDef (k - 1))
    | 4 => some (.field Reg.JOIN_SNAP_CFG_interval 0)
    | 5 => some .postFreeze
    | 6 => some (.figure 14 15)
    | 7 => some (.figure 15 20)
    | _ => none
  | 0x02 => if (h.inK o.1).isNone || sub = 0 || 6 < sub then none else match k with
    | 1 => some (.inHold o.1)
    | 2 => some (.inDelay o.1)
    | 3 => some (.inGmac o.1)
    | _ => none
  | 0x03 => if (h.outK o.1).isNone || sub = 0 || 7 < sub then none else match k with
    | 1 => some (.outHold o.1)
    | 2 => some (.outComp o.1)
    | 3 => some (.outExt o.1)
    | _ => none
  | 0x04 => if sub != 0 || !h.deal.buses.contains o.1 then none else match k with
    | 1 => some (.gain 7 0 o.1)
    | 2 => some (.field (Reg.JOIN_BUS_CFG_headroom o.1) 0)
    | _ => none
  | 0x05 =>
    let c : Change := { t64 := 0, kind := 1, a := o.1, b := o.2, value := 0, len := 0, law := false }
    if sub != 0 || k != 1 then none
    else if (h.findRec 0 c).isSome then some (.gain 1 o.1 o.2)
    else if (h.findRec 1 c).isSome then some (.gain 4 o.1 o.2) else none
  | 0x06 => if sub != 0 || !h.deal.limiters.contains o.1 then none else (limField k).map (fun f => .lim o.1 f.1 f.2)
  | 0x07 => if sub != 0 then none else match k with
    | 1 => if h.deal.filters.contains o.1 then some (.hpfType o.1) else none
    | 2 => if h.deal.filters.contains o.1 then some (.hpfCorner o.1) else none
    | 3 => if o.2 < 4096 then some (.field (Reg.JOIN_DST_dcb_en o.2) 0) else none
    | 4 => if o.2 < 4096 then some (.field (Reg.JOIN_DST_dcb_k o.2) 0) else none
    | _ => none
  | 0x08 => if sub != 0 || 4096 ≤ o.1 then none else match k with
    | 1 => some (.meter o.1 0)
    | 2 => some (.meter o.1 1)
    | _ => none
  | 0x10 => h.moduleParam p.recId p.index sub num
  | 0x20 => if p.index < 15 then engine (refParam p.index k) else none
  | 0x21 => if sub != 0 then none else match k with
    | 1 => some .profile
    | 2 => some (.field Reg.TIME_JUMP_THR_ns 0)
    | _ => none
  | 0x30 => if sub != 0 then none else match k with
    | 1 => some (.field Reg.TWIN_CFG_mis_n_m1 1)
    | 2 => some (.field Reg.TWIN_CFG_health_ms 0)
    | _ => none
  | 0x31 => if sub != 0 then none else match k with
    | 1 => if p.index < 8 then some (.timed (Reg.FAULT_SHADOW_len p.index) 100) else none
    | 2 => some (.timed Reg.FAULT_QUIET_ms 1000)
    | 3 => some (.field Reg.FAULT_RECOV_max 0)
    | _ => none
  | 0x32 => if sub < 4 && p.index = sub then (boostParam sub k).map (Param.field · 0) else none
  | 0x33 => if p.index < 16 then engine (ampParam p.index k)
    else if p.index < 32 && 12 ≤ k then engine (carrierParam (p.index - 16) k) else none
  | _ => none

/-! ### Ranges (R261, R157, R432, R146, R175, R260) -/

/-- The settings of a module instance after one of its parameters changed. -/
def moduleSetting (m : Module) (mtype num v : Nat) : Module :=
  let f := fun (field old : Nat) => Config.moduleSet mtype num v field old
  match m with
  | .noise o s pink level n0 => .noise o s (f 0 (b2n pink) != 0) (sext 32 (f 1 (lowBits 32 level))) n0
  | .sweep o f1 f2 k level start rep =>
    .sweep o (f 0 f1) (f 1 f2) (f 2 k) (sext 32 (f 3 (lowBits 32 level))) start (f 4 (b2n rep) != 0)
  | .transfer r ms k frames tau => .transfer r ms (f 0 k) (f 1 frames) (f 2 tau)
  | m => m

/-- A register's word with one field at a value. -/
def Hw.withField (h : Hw) (f : RF) (v : Nat) : Nat := (h.p f v).rawRead f.addr

/-- A field takes a value as its register would: a value outside the register's range, and one refused while the unit
runs, change nothing (R260). -/
def Hw.fieldOk (h : Hw) (f : RF) (v : Nat) : Bool :=
  v < 2 ^ f.w && decide ((h.regRule f.addr (h.withField f v) 0x0A).g f = v)

/-- The record that a change of a limiter or filter starts from: the one last queued for it, or the one in force. -/
def Hw.lastStaged (h : Hw) (kind i : Nat) : Option Staged :=
  ((h.join.queue.filter (fun q => q.c.kind = kind && q.c.a = i)).getLast?).map
    (fun q => h.join.staging.get .none q.c.value.toNat)

def Hw.limBase (h : Hw) (i : Nat) : List Byte :=
  match h.lastStaged 9 i with
  | some (.limiter b) => b
  | _ => h.limBytes i

def Hw.hpfBase (h : Hw) (i : Nat) : List Byte :=
  match h.lastStaged 8 i with
  | some (.hpf b) => b
  | _ => h.hpfBytes i

/-- A high-pass filter record of a type and corner, with its coefficients (R146). -/
def Hw.hpfMake (h : Hw) (base : List Byte) (type corner : Nat) : List Byte :=
  base.take 2 ++ leBytes 1 type ++ [0] ++ leBytes 2 corner ++ [0, 0]
    ++ (List.range 10).flatMap (fun j => leBytes 4 (lowBits 32 (hpfWord h.deal.rate.val type corner j)))

/-- A value is in its parameter's range (DEDUCED, log entry 34). -/
def Hw.paramOk (h : Hw) (p : Param) (v : Nat) : Bool :=
  match p with
  | .field f off => off ≤ v && h.fieldOk f (v - off)
  | .timed f us => v % us = 0 && h.fieldOk f (v / us)
  | .postFreeze => v ≤ 8189
  | .holdDef _ | .inHold _ | .outHold _ => v ≤ 255
  | .inGmac _ => v ≤ 1
  | .outComp _ => v < 2 ^ 16
  | .outExt _ => true
  | .profile => v < 256 && decide (Config.ptpProfile v < 8) && Config.ptpProfile v % 4 != 3
  | .figure _ _ | .inDelay _ => false
  | .gain _ _ _ => lowBits 32 (sext 24 v) = v
  | .lim i off len =>
    let b := h.limBase i
    let group := match h.limChannel (limRec b) with
      | some c => off != 5 || v / 8 % 4 = h.g (Reg.AMP_CFG_group c)
      | none => true
    v < 256 ^ len && limBytesOk (setField b off len v) && (off != 6 || v = leNat (sliceB (h.limBytes i) 6 1)) && group
  | .hpfType _ => v ≤ 3
  | .hpfCorner _ => 100 ≤ v && v ≤ 10000
  | .meter _ off => if off = 0 then v ≤ 4 else v < 128
  | .tap _ maxDelay remote => tapDelayOk maxDelay h.bs v remote
  | .module recId mtype num => Config.moduleParamOk mtype num v
      && (h.deal.tasks.filter (fun t => t.recId = recId)).all (fun t => moduleOk h.fs (moduleSetting t.module mtype num v))

/-- The length of a parameter's encoding (R261). -/
def Param.len (p : Param) : Nat :=
  match p with
  | .module _ mtype num => Config.moduleParamLen mtype num
  | _ => 4

/-! ### Setting (R262) -/

/-- The lowest staging slot that no queued entry names. -/
def Hw.freeSlot (h : Hw) : Nat :=
  ((List.range 256).find? (fun i => !h.join.queue.any (fun q => 8 ≤ q.c.kind && q.c.value = ((i : Nat) : Int)))).getD 0

/-- A change of a prepared record goes to a staging slot and the queue (R169). -/
def Hw.pushStaged (h : Hw) (kind a : Nat) (st : Staged) (c : CommitAt) : Hw :=
  let slot := h.freeSlot
  let j := h.join
  (({ h with join := { j with staging := j.staging.put slot st } } : Hw)).pushChange
    { t64 := c.t64, kind := kind, a := a, b := 0, value := slot, len := c.len, law := c.law }

/-- One checked change: through the change queue, or by the dealer core at tick `eff`. -/
def Hw.paramSet1 (h : Hw) (key : ParamKey) (p : Param) (value : List Byte) (c : CommitAt) (eff : Nat) : Hw :=
  let v := leNat value
  match p with
  | .gain kind a b => h.pushChange { t64 := c.t64, kind := kind, a := a, b := b, value := sext 24 v, len := c.len, law := c.law }
  | .lim i off len => h.pushStaged 9 i (.limiter (setField (h.limBase i) off len v)) c
  | .hpfType i =>
    let b := h.hpfBase i
    h.pushStaged 8 i (.hpf (h.hpfMake b v (leNat (sliceB b 4 2)))) c
  | .hpfCorner i =>
    let b := h.hpfBase i
    h.pushStaged 8 i (.hpf (h.hpfMake b (hpfType b) v)) c
  | .tap tap _ _ => h.pushStaged 0xA tap (.delay v) c
  | _ =>
    let m := h.mbx
    { h with mbx := { m with pendParams := m.pendParams ++ [(eff, key, value)] } }

/-- A live change also enters the prepared share (R222): its staged entries for the same target, the register values
of its switch, and the settings of its kitties. -/
def Hw.paramPrepared (h : Hw) (p : Param) (v : Nat) : Hw :=
  match h.deal.prepared with
  | none => h
  | some sh =>
    let j := h.join
    let slots := fun (kind a : Nat) => (sh.stages.flatMap (fun (st : Nat × List Change) => st.2)).filterMap (fun c =>
      if c.kind = kind && c.a = a then some c.value.toNat else none)
    let restage := fun (kind a : Nat) (f : Staged → Staged) =>
      ({ h with join := { j with staging := (slots kind a).foldl (fun (t : Tab Staged) i => t.mod i f) j.staging } } : Hw)
    let put := fun (x : Share) =>
      let d := h.deal
      ({ h with deal := { d with prepared := some x } } : Hw)
    let word := fun (f : RF) (ws : List (Nat × Word)) (x : Nat) =>
      ws.map (fun (e : Nat × Word) => if e.1 = f.addr then (e.1, setBits e.2 f.lo f.w x) else e)
    match p with
    | .gain kind a b =>
      put { sh with stages := sh.stages.map (fun (st : Nat × List Change) => (st.1, st.2.map (fun c =>
        if (c.kind = kind || c.kind = kind + 1) && c.kind != 8 && c.a = a && c.b = b then { c with value := sext 24 v } else c))) }
    | .timed f us => put { sh with atSwitch := word f sh.atSwitch (v / us), shadow := word f sh.shadow (v / us) }
    | .field f off => put { sh with atSwitch := word f sh.atSwitch (v - off), shadow := word f sh.shadow (v - off) }
    | .inHold k => put { sh with inKitties := sh.inKitties.map (fun (e : Nat × InCfg) =>
        if e.1 = k then (e.1, { e.2 with hold := some v }) else e) }
    | .inGmac k => put { sh with inKitties := sh.inKitties.map (fun (e : Nat × InCfg) =>
        if e.1 = k then (e.1, { e.2 with gmac := v = 1 }) else e) }
    | .outHold k => put { sh with outKitties := sh.outKitties.map (fun (e : Nat × OutCfg) =>
        if e.1 = k then (e.1, { e.2 with hold := some v }) else e) }
    | .outComp k => put { sh with outKitties := sh.outKitties.map (fun (e : Nat × OutCfg) =>
        if e.1 = k then (e.1, { e.2 with comp := v }) else e) }
    | .outExt k => put { sh with outKitties := sh.outKitties.map (fun (e : Nat × OutCfg) =>
        if e.1 = k then (e.1, { e.2 with extNs := v }) else e) }
    | .lim i off len => restage 9 i (fun st => match st with
        | .limiter b => .limiter (setField b off len v)
        | x => x)
    | .hpfType i => restage 8 i (fun st => match st with
        | .hpf b => .hpf (h.hpfMake b v (leNat (sliceB b 4 2)))
        | x => x)
    | .hpfCorner i => restage 8 i (fun st => match st with
        | .hpf b => .hpf (h.hpfMake b (hpfType b) v)
        | x => x)
    | .tap tap _ _ => restage 0xA tap (fun _ => .delay v)
    | .module recId mtype num => put { sh with tasks := sh.tasks.map (fun t =>
        if t.recId = recId then { t with module := moduleSetting t.module mtype num v } else t) }
    | _ => h

/-- The dealer core applies a change through the module's parameter block. -/
def Hw.moduleApply (h : Hw) (recId mtype num v : Nat) : Hw :=
  let d := h.deal
  let hit := d.tasks.filter (fun t => t.recId = recId)
  let tasks := d.tasks.map (fun t => if t.recId = recId then { t with module := moduleSetting t.module mtype num v } else t)
  let m := h.mods
  { h with
    deal := { d with tasks := tasks }
    mods := { m with gen := hit.foldl (fun (g : Tab Nat) t =>
      let key := t.core.val * 32 + t.entry.val
      g.put key (Config.moduleSet mtype num v 5 (g.get 0 key))) m.gen } }

/-- A change that the Joinery does not hold takes effect. -/
def Hw.paramApply (h : Hw) (key : ParamKey) (value : List Byte) : Hw :=
  let v := leNat value
  match h.param key with
  | some (.field f off) =>
    let h := h.regRule f.addr (h.withField f (v - off)) 0x0A
    if inRange f.addr 0x40110000 0x401104FF then (h.bandsDue).ampLimits else h
  | some (.timed f us) => h.regRule f.addr (h.withField f (v / us)) 0x0A
  | some .postFreeze =>
    let r := h.ring
    { h with ring := { r with postCount := v } }
  | some (.holdDef i) => let m := h.mbx; { h with mbx := { m with holdDef := m.holdDef.set i v } }
  | some .profile => let t := h.time; { h with time := { t with profile := v } }
  | some (.inHold k) => { h with kin := h.kin.mod k (fun x => { x with cfg := { x.cfg with hold := some v } }) }
  | some (.inGmac k) => { h with kin := h.kin.mod k (fun x => { x with cfg := { x.cfg with gmac := v = 1 } }) }
  | some (.outHold k) => { h with kout := h.kout.mod k (fun x => { x with cfg := { x.cfg with hold := some v } }) }
  | some (.outComp k) => { h with kout := h.kout.mod k (fun x => { x with cfg := { x.cfg with comp := v } }) }
  | some (.outExt k) => { h with kout := h.kout.mod k (fun x => { x with cfg := { x.cfg with extNs := v } }) }
  | some (.meter i off) => h.wrN (h.meterAddr i + off) 1 v
  | some (.module recId mtype num) => h.moduleApply recId mtype num v
  | _ => h

/-- The value in a change's trace record: sign-extended for a signed encoding, the first 8 bytes of a long one (R553). -/
def paramTraceValue (key : ParamKey) (value : List Byte) : Int :=
  let v := leNat (value.take 8)
  if key.id / 2 ^ 24 % 256 = 0x10 && Config.moduleParamSigned (key.id / 256 % 65536) (key.id % 256) then
    sext (8 * min value.length 8) v
  else v

/-- The changes of a tick that the dealer core applies, each with its record of type 0x01 (R262, R553). -/
def Hw.tickParams (h : Hw) (t : Nat) : Hw :=
  let m := h.mbx
  let now := m.pendParams.filter (fun p => p.1 ≤ t)
  let h : Hw := { h with mbx := { m with pendParams := m.pendParams.filter (fun p => t < p.1) } }
  now.foldl (fun h p =>
    let h := h.paramApply p.2.1 p.2.2
    let m := h.mbx
    let h : Hw := { h with mbx := { m with params := (p.2.1, p.2.2) :: m.params.filter (fun x => x.1 != p.2.1) } }
    h.traceChange t p.2.1.id (p.2.1.index % 65536) (paramTraceValue p.2.1 p.2.2)) h

/-! ### Reading (R257) -/

/-- A value that only the parameter itself holds: the one last set, or an open one (UNVERIFIED, log entry 19). -/
def Hw.keptValue (h : Hw) (key : ParamKey) (n : Nat) : Hw × List Byte :=
  match List.find? (fun (x : ParamKey × List Byte) => x.1 = key) h.mbx.params with
  | some x => (h, x.2)
  | none =>
    let (v, h) := h.draw
    (h, leBytes n v)

/-- The presentation delay that a source adds, in samples; a received P carries its own (R23). -/
def sourceDelay (s : Source) : Nat :=
  match s with
  | .brizu _ | .gnogo => 0
  | .rtp _ _ _ d | .sap _ d | .aes _ d => d

/-- A figure of this engine's ENGINE record in the plan of the running deal, or its default (R198). -/
def Hw.engineFigure (h : Hw) (off dflt : Nat) : Nat := engineFig (recordsOf h.deal.planBytes) h.ownId off dflt

/-- The value of a parameter. -/
def Hw.paramValue (h : Hw) (key : ParamKey) (p : Param) : Hw × List Byte :=
  let c : Change := { t64 := 0, kind := 0, a := 0, b := 0, value := 0, len := 0, law := false }
  let u := fun (v : Nat) => (h, leBytes 4 v)
  match p with
  | .field f off => u (h.g f + off)
  | .timed f us => u (h.g f * us)
  | .postFreeze => u h.ring.postCount
  | .holdDef i => u (h.holdDefault i)
  | .figure off dflt => u (h.engineFigure off dflt)
  | .inHold k => u ((h.inK k).elim 0 (fun x => h.holdIn x.cfg))
  | .inDelay k => u ((h.inK k).elim 0 (fun x => sourceDelay x.cfg.src))
  | .inGmac k => u ((h.inK k).elim 0 (fun x => b2n x.cfg.gmac))
  | .outHold k => u ((h.outK k).elim 0 (fun x => h.holdOut x.cfg))
  | .outComp k => u ((h.outK k).elim 0 (fun x => x.cfg.comp))
  | .outExt k => u ((h.outK k).elim 0 (fun x => x.cfg.extNs))
  | .gain 7 _ b => u (lowBits 32 (h.busGain b))
  | .gain k a b => u ((h.findRec (if k = 1 then 0 else 1) { c with a := a, b := b }).elim 0 (fun e => lowBits 32 e.2.gain))
  | .lim i off len => u (leNat (sliceB (h.limBytes i) off len))
  | .hpfType i => u (hpfType (h.hpfBytes i))
  | .hpfCorner i => u (leNat (sliceB (h.hpfBytes i) 4 2))
  | .meter i off => u (h.rdN (h.meterAddr i + off) 1)
  | .tap tap _ _ => u ((h.tapAt (h.join.tapRec.get 0 tap)).cur)
  | .profile => u h.time.profile
  | .module _ mtype num => h.keptValue key (Config.moduleParamLen mtype num)

end Sys2Proof.Machine
end

