-- ==== Sys2Proof/Machine/ProedOps.lean ====
section
/-! DEFINITION. The Proed commands (R257–R262, R504, R507, R512, R513): what the dealer core does for each, and the
status and body of its response. A body holds TLVs of type 0x0100 and above whose layout the manual does not give
(DESIGN CHOICE, log entry 20). -/

namespace Sys2Proof.Machine

/-! ### Bodies -/

/-- The running command's bulk data, whichever TLV carries them (R251, R252). -/
def Hw.bulk (h : Hw) : Option (List Byte) :=
  match h.mbx.run with
  | none => none
  | some r =>
    match tlvs r.body.length r.body with
    | none => none
    | some ts =>
      match List.find? (fun (t : Nat × List Byte) => t.1 = 1 || t.1 = 2) ts with
      | some (1, v) => some (h.rdBytes (bulkBuf + leNat (v.take 4)) (leNat (v.drop 4)))
      | some (_, v) => some v
      | none => none

/-- T64 of the running command's acceptance. -/
def Hw.acceptT64 (h : Hw) : Nat := h.mbx.run.elim h.t64 (·.accepted)

/-- The longest response body of the running command's door (R250, R258). -/
def Hw.bodyLimit (h : Hw) : Nat := if h.mbx.run.elim 0 (·.door) = 0 then 65536 else 8192

/-- Words of registers. -/
def Hw.wordsAt (h : Hw) (as : List Nat) : List Byte := as.flatMap (fun a => leBytes 4 (h.regRead a))

/-- Open bytes of a response. -/
def Hw.openBytes (h : Hw) (n : Nat) : Hw × List Byte :=
  ({ h with fresh := h.fresh + n }, (List.range n).map (fun i => BitVec.ofNat 8 (Config.freeValue (h.fresh + i))))

/-- The command ends S_OK with one TLV. -/
def Hw.answer (h : Hw) (body : List Byte) : Hw := h.result sOk (tlv 0x100 body)

/-- As many whole records as the door allows, after a header; a RANGE TLV names the rest (R258). -/
def Hw.paged (h : Hw) (hdr : List Byte) (recs : List (List Byte)) (first : Nat) : Hw :=
  let size := (recs.map List.length).foldl max 1
  let room := h.bodyLimit - 4 - hdr.length
  if recs.length * size ≤ min room (65532 - hdr.length) then h.answer (hdr ++ recs.flatten)
  else
    let n := (min room (65532 - hdr.length) - 12) / size
    h.result sOk (tlv 0x100 (hdr ++ (recs.take n).flatten) ++ tlv 7 (leBytes 4 (first + n) ++ leBytes 4 (recs.length - n)))

def members (r : Range) (limit : Nat) : List Nat := (List.range (min r.count (limit - r.first))).map (r.first + ·)

/-! ### System -/

/-- SYS_INFO: identity, firmware, roles, capacities; the capacities' form is open. -/
def Hw.sysInfo (h : Hw) : Hw :=
  if !h.serving 0x101 then h
  else
    let (h, cap) := h.openBytes 16
    h.answer (h.serial ++ h.wordsAt [0x40000000, 0x400F0004] ++ leBytes 2 h.ownId ++ leBytes 1 h.role
      ++ leBytes 1 h.position ++ leBytes 4 h.roleEpoch ++ cap)

/-- SYS_STATUS: state, deal number, fenced units, temperatures. -/
def Hw.sysStatus (h : Hw) : Hw :=
  if !h.serving 0x102 then h
  else h.answer (h.wordsAt [0x40000004] ++ leBytes 4 h.deal.number ++ h.wordsAt [0x400D0018, 0x40130004])

/-- SYS_RESET: S_OK goes out before the reset (R257, R492). -/
def Hw.sysReset (h : Hw) (scope : Nat) : Hw :=
  if !h.serving 0x103 then h
  else if 1 < scope then h.result sParamRange []
  else
    let m := h.mbx
    ({ h with mbx := { m with resetScope := some scope } } : Hw).result sOk []

/-! ### Plans and deals -/

/-- A plan is refused (R218): the amount needed and the amount available where the reason has a unit, and a free value where
it has none (UNVERIFIED, log entry 51). -/
def Hw.planRefused (h : Hw) (r : Refused) : Hw :=
  let (v, h) := match r.detail with
    | some d => (d.1 % 2 ^ 32 + d.2 % 2 ^ 32 * 2 ^ 32, h)
    | none => h.draw
  h.result sPlanRefused (tlv 6 (refusal r.reason r.recs v))

/-- A worker of a frozen table refuses plan commands (R257). -/
def Hw.frozenWorker (h : Hw) : Bool := h.isWorker && h.frozenNow

/-- PLAN_LOAD. A chunk at offset 0 starts a new plan (DEDUCED, log entry 44). -/
def Hw.planLoad (h : Hw) (off total : Nat) : Hw :=
  if !h.serving 0x201 then h
  else if h.frozenWorker then h.planRefused { reason := rPending }
  else match h.bulk with
  | none => h.result sBadTlv []
  | some b =>
    if 2097152 < total || total < off + b.length then h.result sParamRange []
    else
      let d := h.deal
      ({ h with deal := { d with plan := (if off = 0 then [] else d.plan) ++ [(off, b)] } } : Hw).result sOk []

/-- PLAN_CHECK: placement without a commit. -/
def Hw.planCheck (h : Hw) : Hw :=
  if !h.serving 0x202 then h
  else if h.frozenWorker then h.planRefused { reason := rPending }
  else if h.isWorker then h.result sNotManager []
  else
    let b := h.planFile
    match (h.placePlan b).2 with
    | some r => h.planRefused r
    | none =>
      h.answer (leBytes 4 (h.deal.number + 1) ++ h.tableEngines.flatMap (fun e => leBytes 4 (crc32c (Config.placeShare b e))))

/-- PLAN_COMMIT: refused while a commit runs, or placed and prepared across the table (R219, R222). -/
def Hw.planCommit (h : Hw) (earliest : Option Nat) : Hw :=
  if !h.serving 0x203 then h
  else if h.frozenWorker then h.planRefused { reason := rPending }
  else if h.isWorker then h.result sNotManager []
  else if h.planPending then h.planRefused { reason := rPending }
  else
    let b := h.planFile
    match h.placePlan b with
    | (_, some r) => h.planRefused r
    | (placed, none) => h.commitStart b placed (earliest.getD 0)

/-- PLAN_MOVE (R224, R225): the response gives the hand-over tick. -/
def Hw.planMove (h : Hw) (recId engine core : Nat) : Hw :=
  if !h.serving 0x204 then h
  else if h.frozenWorker || h.planPending then h.planRefused { reason := rPending }
  else if !h.deal.tasks.any (fun t => t.recId = recId) then h.result sParamUnknown []
  else match h.moveRefused recId engine core with
  | some r => h.planRefused r
  | none =>
    let t1 := gridTick h.fs h.bs (gridTick h.fs h.bs (h.t64 + 1) + h.warmNs recId + 1)
    (h.moveStart recId engine core).answer (leBytes 8 t1)

/-- DEAL_READ: the engine's share in words, paged. -/
def Hw.dealRead (h : Hw) (r : Range) : Hw :=
  if !h.serving 0x205 then h
  else
    let b := if h.deal.running then Config.shareBytes h.deal.number h.deal.digest h.ownId else []
    h.paged [] ((members r ((b.length + 3) / 4)).map (fun i => padB 4 (sliceB b (4 * i) 4))) r.first

def Hw.moduleInfo (h : Hw) (mtype mver : Nat) : Hw :=
  if !h.serving 0x206 then h
  else
    let b := costBytes (recordsOf h.deal.planBytes) h.deal.rate.val h.deal.blk.val mtype mver
    if b.isEmpty then h.result sParamUnknown [] else h.answer b

/-! ### Parameters (R257, R262) -/

/-- The first failing change with its status: not present, of the wrong length, out of range. -/
def Hw.paramFault (h : Hw) (ps : List ParamArg) : Option (Nat × Nat) :=
  (ps.zipIdx.filterMap (fun (e : ParamArg × Nat) =>
    match h.param ⟨e.1.recId, e.1.index, e.1.paramId.toNat⟩ with
    | none => some (sParamUnknown, e.2)
    | some p =>
      if e.1.value.length != p.len then some (sBadTlv, e.2)
      else if !h.paramOk p (leNat e.1.value) then some (sParamRange, e.2) else none)).head?

/-- Checked changes are pushed for a commit T64, with the outcome of their command: a T64 that has passed takes effect at the next
tick (R262). -/
def Hw.paramPush (h : Hw) (ps : List ParamArg) (c : CommitAt) : Hw :=
  let late := decide (c.t64 < h.t64)
  let eff := gridTick h.fs h.bs (max c.t64 h.t64)
  let h := ps.foldl (fun h p =>
    let key : ParamKey := ⟨p.recId, p.index, p.paramId.toNat⟩
    match h.param key with
    | some x => (h.paramSet1 key x p.value c eff).paramPrepared x (leNat p.value)
    | none => h) h
  h.result (if late then sDeferred else sOk) (tlv 0x100 (leBytes 8 eff))

/-- PARAM_SET and PARAM_SET_MULTI: every change, or none. -/
def Hw.paramSet (h : Hw) (ps : List ParamArg) (at? : Option CommitAt) (multi : Bool) : Hw :=
  if !h.serving (if multi then 0x303 else 0x301) then h
  else if ps.isEmpty || 64 < ps.length then h.result sBadTlv []
  else match h.paramFault ps with
  | some (st, pos) => h.result st (if multi then tlv 0x101 (leBytes 4 pos) else [])
  | none =>
    if 1024 < h.join.queue.length + ps.length then h.result sParamRange []
    else match at? with
    | some c => if 1024 < c.len then h.result sParamRange [] else h.paramPush ps c
    | none =>
      let h := h.result sOk []
      let m := h.mbx
      { h with mbx := { m with run := m.run.map (fun r => { r with atDone := ps }) } }

/-- COMMAND_COMPLETE of a PARAM_SET or PARAM_SET_MULTI without a COMMIT TLV: its changes take the completion T64 plus one block
period, with the default scarf (R262). -/
def Hw.paramsDone (h : Hw) : Hw :=
  match h.mbx.run with
  | some r =>
    if r.atDone.isEmpty || r.accepted + r.limit < h.t64 then h
    else h.paramPush r.atDone { t64 := h.t64 + h.blockNs, law := false, len := 64 }
  | none => h

def Hw.paramGet (h : Hw) (recId index paramId : Nat) : Hw :=
  if !h.serving 0x302 then h
  else match h.param ⟨recId, index, paramId⟩ with
  | none => h.result sParamUnknown []
  | some p =>
    let (h, v) := h.paramValue ⟨recId, index, paramId⟩ p
    h.answer v

/-- The FIR paths of the deal. -/
def Hw.firPaths (h : Hw) : List FirPath :=
  h.deal.tasks.flatMap (fun t => match t.module with
    | .fir paths _ _ _ => paths
    | _ => [])

/-- COEF_LOAD: the sets of consecutive paths. The dealer computes their spectra and stores them in the bank (R557). A bank that
audio passes through is refused, and so is a second bank of a path that is not steerable (R187; DEDUCED, log entry 48). -/
def Hw.coefLoad (h : Hw) (path : Nat) (bank : Bool) (sets : List (List Word)) : Hw :=
  if !h.serving 0x304 then h
  else
    let paths := sets.zipIdx.map (fun (e : List Word × Nat) => (h.firPaths.find? (fun p => p.path = path + e.2), e.1))
    let refused := fun (e : Option FirPath × List Word) => e.1.any (fun p =>
      decide (p.taps < e.2.length) ||
        (if p.bank1.isSome then (h.mods.fir.get {} p.path).locked bank else bank))
    if sets.isEmpty || 3 < sets.length || sets.any (fun s => 4096 < s.length) then h.result sBadTlv []
    else if paths.any (fun e => e.1.isNone) then h.result sParamUnknown []
    else if paths.any refused then h.result sParamRange []
    else
      (paths.foldl (fun (h : Hw) e => match e.1 with
        | some p => h.wrBytes (firBank p bank) (firSet h.deal.blk.val h.bs p.taps e.2)
        | none => h) h).result sOk []

/-- The FIR paths of a module, in order. -/
def Hw.pathsOf (h : Hw) (recId : Nat) : List FirPath :=
  ((h.deal.tasks.filter (fun t => t.recId = recId)).flatMap (fun t => match t.module with
    | .fir paths _ _ _ => paths
    | _ => [])).dedup

/-- BANK_SWAP: at its commit T64, or at the first tick 32 block periods after acceptance (R188, R189). A path without a second
bank is refused (DEDUCED, log entry 48). -/
def Hw.bankSwap (h : Hw) (recId : Nat) (r : Range) (c : CommitAt) : Hw :=
  if !h.serving 0x305 then h
  else
    let paths := ((h.pathsOf recId).drop r.first).take r.count
    if paths.isEmpty || paths.length < r.count then h.result sParamUnknown []
    else if 1024 < c.len || paths.any (fun p => p.bank1.isNone) then h.result sParamRange []
    else
      let least := h.acceptT64 + ceilDiv (32 * h.bs * 1000000000) h.fs
      let late := decide (c.t64 < least)
      let eff := gridTick h.fs h.bs (max c.t64 least)
      let m := h.mods
      let h : Hw := { h with mods := { m with fir := paths.foldl (fun (t : Tab FirSt) p =>
        t.put p.path { t.get {} p.path with swap := some ⟨eff, c.len, c.law⟩ }) m.fir } }
      h.result (if late then sDeferred else sOk) (tlv 0x100 (leBytes 8 eff))

/-! ### Meters (R155, R159, R194) -/

/-- METER_SNAP: the latest snapshot's header and the records of the points in the range. -/
def Hw.meterSnap (h : Hw) (r : Range) : Hw :=
  if !h.serving 0x401 then h
  else if 2048 < r.count then h.result sParamRange []
  else
    let base := h.tbl 6 + h.g Reg.JOIN_SNAP_SEQ_area * snapArea
    let n := min (h.rdN (base + 16) 2) 4096
    let recs := ((List.range n).map (fun i => h.rdBytes (base + 32 + 16 * i) 16)).filter (fun b =>
      let i := leNat (b.take 2)
      decide (r.first ≤ i) && decide (i < r.first + r.count))
    h.paged (h.rdBytes base 32) recs r.first

/-- METER_HOLD: peak holds and gain-reduction records with their T64, 24 bytes a point. -/
def Hw.meterHold (h : Hw) (r : Range) : Hw :=
  if !h.serving 0x402 then h
  else
    let pts := h.metersOn.filter (fun i => decide (r.first ≤ i) && decide (i < r.first + r.count))
    let recs := pts.map (fun i =>
      let m := h.join.meters.get {} i
      let rec' := h.meterRec i
      let g : GrSt := h.join.gr.get {} rec'.object
      leBytes 2 i ++ leBytes 2 (dbField h i (ampDb m.hold)) ++ leBytes 2 (if rec'.kind = 4 then grDb g.low else 0)
        ++ leBytes 2 0 ++ leBytes 8 m.holdT64 ++ leBytes 8 (if rec'.kind = 4 then g.t64 else 0))
    let h : Hw := { h with fresh := h.fresh + 1 }
    h.paged [] recs r.first

/-- METER_CLEAR: at the next tick (R153, R159). -/
def Hw.meterClear (h : Hw) (r : Range) (what : Nat) : Hw :=
  if !h.serving 0x403 then h
  else if what = 0 || 7 < what then h.result sParamRange []
  else
    let pts := members r 4096
    let cl := pts.flatMap (fun i =>
      let m := h.meterRec i
      (if bitOf what 0 then [(i, 0)] else []) ++ (if bitOf what 1 then [(i, 1)] else [])
        ++ (if bitOf what 2 && m.kind = 4 then [(m.object, 2)] else []))
    let j := h.join
    let h : Hw := { h with join := { j with clears := j.clears ++ cl } }
    h.answer (leBytes 8 (gridTick h.fs h.bs (h.t64 + 1)))

/-- MEAS_READ: results of R194: 2 bytes a bin of magnitude, phase or coherence, or the 4 bytes of the delay. -/
def Hw.measRead (h : Hw) (recId kind : Nat) (r : Range) : Hw :=
  if !h.serving 0x404 then h
  else
    match h.deal.tasks.find? (fun t => t.recId = recId && (match t.module with
      | .transfer _ _ _ _ _ => true
      | _ => false)) with
    | none => h.result sParamUnknown []
    | some t =>
      if 3 < kind then h.result sParamRange []
      else
        let bins := match t.module with
          | .transfer _ _ k _ _ => if kind = 3 then 1 else 2 ^ k / 2 + 1
          | _ => 0
        let k := match t.module with
          | .transfer _ _ k _ _ => k
          | _ => 0
        let x : XferSt := h.mods.xfer.get {} (t.core.val * 32 + t.entry.val)
        h.paged (leBytes 4 x.frames ++ leBytes 4 x.dropped ++ leBytes 8 x.t64) ((members r bins).map (x.result k kind)) r.first

/-! ### Time, streams, table, twin -/

def Hw.timeStatus (h : Hw) : Hw :=
  if !h.serving 0x501 then h
  else
    h.answer (h.wordsAt [0x40030004] ++ leBytes 4 (h.peakOffset + 8) ++ leBytes 4 h.time.profile)

/-- TIME_RETIME (R341): the response gives the T64 of the step and the correction; 0 when nothing is refused. -/
def Hw.timeRetime (h : Hw) : Hw :=
  if !h.serving 0x502 then h
  else if !h.b Reg.TIME_STAT_refused then h.answer (leBytes 8 h.t64 ++ leBytes 8 0)
  else
    let tick := if h.epoch.live then h.nextTick h.epoch.t else gridTick h.fs h.bs h.t64
    h.retimeAccept.answer (leBytes 8 (tick + 1000000) ++ h.wordsAt [0x40030030, 0x40030034])

def Hw.clkStatus (h : Hw) : Hw :=
  if !h.serving 0x503 then h
  else h.answer (h.wordsAt (0x40100004 :: (List.range 15).flatMap (fun r => [0x40100108 + r * 16, 0x4010010C + r * 16])))

/-- The counters of R41. -/
def cntBytes (kitty : Nat) (cnt : Tab Nat) : List Byte :=
  leBytes 4 kitty ++ (List.range 17).flatMap (fun i => leBytes 4 (cnt.get 0 i))

def Hw.streamStatus (h : Hw) (r : Range) : Hw :=
  if !h.serving 0x601 then h
  else h.paged [] ((h.kin.filter (fun (e : Nat × InKitty) => decide (r.first ≤ e.1) && decide (e.1 < r.first + r.count))).map
    (fun e => cntBytes e.1 e.2.cnt)) r.first

def Hw.sinkStatus (h : Hw) (r : Range) : Hw :=
  if !h.serving 0x602 then h
  else h.paged [] ((h.kout.filter (fun (e : Nat × OutKitty) => decide (r.first ≤ e.1) && decide (e.1 < r.first + r.count))).map
    (fun e => cntBytes e.1 e.2.cnt)) r.first

def CauseRec.bytes (c : CauseRec) : List Byte :=
  leBytes 2 c.subject ++ leBytes 1 c.cls ++ leBytes 1 c.state ++ leBytes 4 c.stream ++ leBytes 4 c.count
    ++ leBytes 4 c.reporters ++ leBytes 8 c.first ++ leBytes 8 c.last

/-- The engines of the other tables of the house, as the routes reach them (R364, R374). -/
def Hw.houseEngines (h : Hw) : List Nat := (h.table.routes.map (·.1)).filter (fun e => e / 32 != h.ownId / 32)

/-- TABLE_STATUS: engines with their states, deal numbers and digests (R372), and cause records; the house manager answers for
the other tables of its house with their engines and the summaries it holds (R374; DESIGN CHOICE for the form, log entry 20). -/
def Hw.tableStatus (h : Hw) : Hw :=
  if !h.serving 0x701 then h
  else if h.isWorker then h.result sNotManager []
  else
    let t := h.table
    let ms := t.members.flatMap (fun m => leBytes 2 m.engine ++ leBytes 1 m.state ++ [0] ++ padB 16 m.serial
      ++ leBytes 4 m.sysState ++ leBytes 4 m.deal ++ leBytes 4 m.digest.toNat)
    h.result sOk (tlv 0x100 (leBytes 2 h.ownId ++ leBytes 1 h.role ++ leBytes 1 h.position ++ leBytes 4 h.roleEpoch ++ ms)
      ++ tlv 0x101 (t.causes.flatMap CauseRec.bytes)
      ++ (if h.role = 3 then tlv 0x102 (h.houseEngines.flatMap (leBytes 2)) ++ tlv 0x103 (t.summaries.flatMap CauseRec.bytes)
          else []))

/-- TABLE_ENROL (R369): the engine becomes the manager of a table with its seat list; another table index ends a withdrawal
(R375). -/
def Hw.tableEnrol (h : Hw) (e : Enrol) : Hw :=
  if !h.serving 0x702 then h
  else if e.seats.any (fun s => s.1 = 0 || 31 < s.1 || s.2.length != 16) then h.result sParamRange []
  else if h.isWorker then h.result sNotManager []
  else
    let t := h.table
    let same := t.index = e.tableIdx.val
    let h : Hw := { h with table := { t with
      index := e.tableIdx.val
      priority := e.priority.toNat
      seats := e.seats
      withdrawn := t.withdrawn && same
      barred := if same then t.barred else []
      other := if same then t.other else none } }
    let h := ((h.p Reg.GNOGO_ROLE_engine_id (e.tableIdx.val * 32)).s1 Reg.GNOGO_ROLE_enrolled).makeRoutes
    let h := if h.isManager then h else h.setRole 2
    h.tableKey.1.result sOk []

def Hw.twinStatus (h : Hw) : Hw :=
  if !h.serving 0x801 then h
  else h.answer (h.wordsAt (([0, 4, 8, 0xC, 0x10, 0x14] ++ (List.range 6).map (fun k => 0x20 + 4 * k)).map (0x400E0000 + ·))
    ++ (match h.twin.health with
      | some x => twinHealthBytes x
      | none => []))

/-- TWIN_SWITCH (R457): refused unless the standby is in service and synced; else the active asks for a switch at the
fifth tick from now. The outcome comes at that tick. -/
def Hw.twinSwitch (h : Hw) : Hw :=
  if !h.serving 0x802 then h
  else
    let ready := match h.twin.peer with
      | some b => b.inService && b.synced
      | none => false
    if h.position != twActive || !ready then h.result sParamRange []
    else
      let s := gridTick h.fs h.bs (h.t64 + 4 * h.blockNs + 1)
      let w := h.twin
      ({ h with twin := { w with switchAt := some s, acked := false } } : Hw).twinSend 0x63 (beBytes 8 s)

/-- TWIN_SWITCH_AT_TICK, with the outcome of the command that asked for it. -/
def Hw.twinSwitchTick (h : Hw) : Hw :=
  let due := h.twin.switchAt.isSome && h.twin.acked
  let h := h.switchAtTick
  if due && h.serving 0x802 then h.answer (leBytes 4 h.roleEpoch) else h

/-! ### Faults and trace -/

/-- FAULT_READ: the ring in seq order, FIRST, the sticky bits (R483). -/
def Hw.faultRead (h : Hw) : Hw :=
  if !h.serving 0x901 then h
  else
    let idx := ((List.range 64).map (fun j => (h.g Reg.FAULT_STAT_wr_idx + j) % 64)).filter
      (fun i => h.b (Reg.FAULT_HIST7_valid i))
    let entry := fun (a : Nat) => h.wordsAt ((List.range 8).map (fun w => a + 4 * w))
    h.result sOk (tlv 0x100 (idx.flatMap (fun i => entry (0x400D1000 + i * 32))) ++ tlv 0x101 (entry 0x400D00C0)
      ++ tlv 0x102 (h.wordsAt ((List.range 8).map (fun k => 0x400D0080 + 4 * k))))

def Hw.faultClearCmd (h : Hw) (what : Nat) : Hw :=
  if !h.serving 0x902 then h else (h.faultClear what).result sOk []

/-- The ring header (R55). -/
def Hw.ringHeader (h : Hw) : List Byte :=
  let r := h.ring
  leBytes 4 0x54524331 ++ leBytes 2 1 ++ leBytes 2 h.ownId ++ leBytes 2 8190 ++ leBytes 2 r.writeIdx ++ leBytes 4 r.wrapCnt
    ++ leBytes 8 r.freezeT64 ++ leBytes 2 r.postFreeze ++ List.replicate 38 0

/-- The bound u of an engine's servo status record in force at a time (R59); 0 where none of the gathered records is one, which
the spec leaves open (DESIGN CHOICE, log entry 48). -/
def boundOf (rs : List TraceRec) (engine t : Nat) : Nat :=
  ((rs.filter (fun x => x.engineId = engine && x.type = 0x0B && x.t64 ≤ t)).getLast?).elim 0
    (fun x => leNat (x.payload.take 4))

/-- Two records are concurrent: they are of different engines and within the sum of their bounds (R61). -/
def concurrent (rs : List TraceRec) (a b : TraceRec) : Bool :=
  a.engineId != b.engineId
    && decide (max a.t64 b.t64 - min a.t64 b.t64 ≤ boundOf rs a.engineId a.t64 + boundOf rs b.engineId b.t64)

/-- The positions in a merge of the records with which one is concurrent (R61). -/
def concurrentWith (rs : List TraceRec) (r : TraceRec) : List Nat :=
  (rs.zipIdx.filter (fun e => concurrent rs r e.1)).map (·.2)

/-- TRACE_READ: the ring's records oldest first, or those that TRACE_COLLECT has merged, each of these followed by the number
and the positions of the records with which it is concurrent, 4 bytes each (DEDUCED, log entry 48). -/
def Hw.traceRead (h : Hw) (r : Range) : Hw :=
  if !h.serving 0x903 then h
  else
    let g := h.ring.gathered
    if g.isEmpty then
      h.paged h.ringHeader (((h.ring.inOrder.map TraceRec.bytes).drop r.first).take r.count) r.first
    else
      let recs := g.map (fun e => let c := concurrentWith g e; e.bytes ++ leBytes 4 c.length ++ c.flatMap (leBytes 4))
      h.paged h.ringHeader ((recs.drop r.first).take r.count) r.first

/-- TRACE_COLLECT: the manager asks its workers for their rings, the house manager the other tables' managers for their merges
as well; its own is the first gathered (R61, R62; DEDUCED, log entry 48). -/
def Hw.traceCollect (h : Hw) : Hw :=
  if !h.serving 0x904 then h
  else if h.isWorker then h.result sNotManager []
  else (h.traceGather (h.workers ++ (if h.role = 3 then h.houseManagers else [])) none).result sOk []

/-- TRACE_RELEASE: the ring stores again and may be armed again (R60). -/
def Hw.traceRelease (h : Hw) : Hw :=
  if !h.serving 0x905 then h
  else
    let r := h.ring
    ({ h with ring := { r with postFreeze := 0xFFFF, freezeT64 := 0, gathered := [], awaited := [], askedBy := none } } : Hw).result sOk []

def Hw.traceMark (h : Hw) (bytes : List Byte) : Hw :=
  if !h.serving 0x906 then h
  else if bytes.length != 16 then h.result sBadTlv []
  else (h.trace 0x0D bytes).result sOk []

/-! ### Firmware, identity, debug -/

/-- Write flash bytes at rising addresses. -/
def flashWrite (t : Tab Byte) (a : Nat) : List Byte → Tab Byte
  | [] => t
  | b :: bs => flashWrite (t.set 0xFF a b) (a + 1) bs

/-- FW_UPDATE (R504): the slot that did not boot is erased, takes the image, and takes its record only when the image
passes R501 (DEDUCED, log entry 48). -/
def Hw.fwUpdate (h : Hw) (image : List Byte) : Hw :=
  if !h.serving 0xB01 then h
  else
    let b := !h.b Reg.SEC_STAT_slot
    let base := flashSlot b
    let erased := h.flash.filter (fun (e : Nat × Byte) => decide (e.1 < base) || decide (base + 0x400000 ≤ e.1))
    let h1 : Hw := { h with flash := flashWrite erased (base + 0x1000) (image.take 0x3FF000) }
    if 0x3FF000 < image.length || h1.checkImage false (h1.slotImage b) != 0 then
      ({ h with flash := erased } : Hw).result sFwRejected []
    else
      let seq := ((h.slotSeq (!b)).getD 0 + 1) % 2 ^ 32
      let rec' := leBytes 4 0x4B47534C ++ leBytes 4 seq ++ leBytes 4 (2 ^ 32 - 1 - seq)
      ({ h1 with flash := flashWrite h1.flash base rec' } : Hw).result sOk []

def Hw.certRead (h : Hw) : Hw :=
  if !h.serving 0xB02 then h else h.result sOk (tlv 0x100 h.certificate ++ tlv 0x101 Config.caCert)

/-- DEBUG_CHALLENGE (R513): 16 bytes from the TRNG and the serial, for 60 s. -/
def Hw.debugChallenge (h : Hw) : Hw :=
  if !h.serving 0xB03 then h
  else
    let (v, h) := h.draw
    let ch := randBytes v 16 ++ h.serial
    let m := h.mbx
    ({ h with mbx := { m with challenge := some (ch, h.t64 + 60000000000) } } : Hw).answer ch

/-- DEBUG_UNLOCK (R513, R277). -/
def Hw.debugUnlock (h : Hw) (pub : List Byte) (lifetime : Nat) (sig : List Byte) : Hw :=
  if !h.serving 0xB04 then h
  else
    let ok := match h.mbx.challenge with
      | some (ch, fin) => decide (h.t64 ≤ fin) && h.ownerSet && decide (1 ≤ lifetime) && decide (lifetime ≤ 1440)
          && decide (Config.sha256 pub = rdOtp h 0x30 32) && Config.ecdsaOk pub (Config.sha256 (ch ++ leBytes 4 lifetime)) sig
      | none => false
    let m := h.mbx
    let h : Hw := { h with mbx := { m with challenge := none } }
    if ok then
      let m := h.mbx
      (({ h with mbx := { m with unlockEnd := h.t64 + lifetime * 60000000000 } } : Hw).s1 Reg.SYS_DEBUG_unlocked).result sOk []
    else h.result sChallengeFail []

/-- A word that the dealer core reads on the bus. -/
def Hw.dealerRead (h : Hw) (a : Nat) : Hw × Nat :=
  match h.place 0x0A false a with
  | .reg b => h.busRead b 2 0x0A
  | .mem b => (h, h.rdN b 4)
  | .rom o => (h, leNat ((List.range 4).map (fun i => Config.bootRom (o + i))))
  | .gated => (h.accErr kTimeout a false 2 0x0A, 0)
  | _ => (h.accErr kDecode a false 2 0x0A, 0)

/-- REG_READ (R277). -/
def Hw.regReadCmd (h : Hw) (a count : Nat) : Hw :=
  if !h.serving 0xC01 then h
  else if !h.b Reg.SYS_DEBUG_unlocked then h.result sLocked []
  else if 256 < count || a % 4 != 0 then h.result sParamRange []
  else
    let (h, ws) := (List.range count).foldl (fun (x : Hw × List Nat) i =>
      let (h, w) := x.1.dealerRead (a + 4 * i)
      (h, x.2 ++ [w])) (h, [])
    h.answer (ws.flatMap (leBytes 4))

/-- REG_WRITE (R277). -/
def Hw.regWriteCmd (h : Hw) (a : Nat) (ws : List Word) : Option Hw :=
  if !h.serving 0xC02 then some h
  else if !h.b Reg.SYS_DEBUG_unlocked then some (h.result sLocked [])
  else if a % 4 != 0 then some (h.result sParamRange [])
  else (ws.zipIdx.foldl (fun (o : Option Hw) (e : Word × Nat) => match o with
      | some h => h.masterWrite 0x0A .b32 (a + 4 * e.2) e.1.toNat
      | none => none) (some h)).map (fun h => h.result sOk [])

/-- OWNER_KEY_PROGRAM (R507): once. -/
def Hw.ownerKey (h : Hw) (pub : List Byte) : Hw :=
  if !h.serving 0xB05 then h
  else if pub.length != 64 then h.result sBadTlv []
  else if h.ownerSet then h.result sParamRange []
  else
    let hash := padB 32 (Config.sha256 pub)
    let otp := hash.zipIdx.foldl (fun (t : Tab Byte) (e : Byte × Nat) => t.set 0 (0x30 + e.2) e.1) h.otp
    (({ h with otp := otp } : Hw).s1 Reg.SEC_STAT_owner).result sOk []

/-- NET_KEY_SET (R512): kind 0x3, at most 4 keys. -/
def Hw.netKeySet (h : Hw) (keyId : Nat) (key : List Byte) : Hw :=
  if !h.serving 0xB06 then h
  else if key.length != 16 then h.result sBadTlv []
  else
    let m := h.mbx
    let others := m.netKeys.filter (fun k => k.keyId != keyId)
    if keyId / 2 ^ 28 != 3 || 4 ≤ others.length then h.result sParamRange []
    else
      ({ h with mbx := { m with netKeys := others ++ [⟨keyId, key, h.t64⟩] } } : Hw).result sOk []

end Sys2Proof.Machine
end

