-- ==== Sys2Proof/Machine/Tick.lean ====
section
/-! DEFINITION. The block tick (R19–R24, R83–R96, R134–R136, R161): what every unit does at a block boundary, in
order. -/

namespace Sys2Proof.Machine

/-- The media sample index of the next tick: one block after the last, or the next boundary when no epoch runs or T64
has been stepped (R21, R340). A committed first deal sets the rate and block size of its own first tick. -/
def Hw.tickIndex (h : Hw) : Nat :=
  let n := h.epoch.t + h.bs
  if h.epoch.live && decide (h.instant h.epoch.t ≤ h.t64) && decide (h.t64 ≤ h.instant (n + h.bs)) then n
  else h.blockAfter h.t64

/-- The rate and block size of a first deal that has been committed. -/
def Hw.firstGrid (h : Hw) : Hw :=
  match h.deal.prepared with
  | some s =>
    let d := h.deal
    if !d.running && d.committed then { h with deal := { d with rate := s.rate, blk := s.blk } } else h
  | none => h

/-- What a core still has of the previous epoch (R88): a task that executes is overrun; entries that wait or have not
started are abandoned. -/
def Hw.tickCore (h : Hw) (n : Nat) : Hw :=
  let c := h.core n
  let h := if c.entry.isSome && !c.halted && !c.trapped then
      match c.entry with
      | some i => ((h.concealTask n i 8).trap n tOverrun).modCore n (fun c => { c with entry := none, loops := [] })
      | none => h
    else h
  let c := h.core n
  if c.due.isEmpty then h
  else
    let h := c.due.foldl (fun h i => h.concealTask n i 8) h
    (h.modCore n (fun c => { c with due := [] })).s1 (Reg.TRUSS_STATUS_skipped n)

/-- The end of the previous epoch: what it left unfinished, its restores, and the measurements it feeds. -/
def Hw.endEpoch (h : Hw) (k : Nat) : Hw :=
  if !h.epoch.live then h
  else
    let h := h.exitDeadline.abandonReplay.countReplay
    let h := if h.join.todo.isEmpty then h else h.joinOverrun k
    let h := (List.range 10).foldl Hw.tickCore h
    (((h.runRestores.mergeMeters.stampConcealed).tapsEnd.xferCommit).coverEpoch.asrcFeed).joinLoad

/-- A task list that becomes active must keep R92. -/
def Hw.tlSwapCheck (h : Hw) (n : Nat) : Hw :=
  let h := h.tlSwap n
  if ckptBad ((List.range 32).map (fun i => h.tlEntry n i)) then h.trap n tCkpt else h

/-- The swaps of a tick (R84, R134). -/
def Hw.tickSwaps (h : Hw) : Hw :=
  let h := if h.b Reg.JOIN_SCHED_SWAP_swap_req then h.schedSwap else h
  (List.range 10).foldl (fun h n => if h.b (Reg.TRUSS_TL_SWAP_swap_req n) then h.tlSwapCheck n else h) h

/-- Meter records are cleared at the next tick: 0 peak hold, 1 clip counter, 2 gain reduction (R153, R159). -/
def Hw.tickClears (h : Hw) : Hw :=
  let j := h.join
  let j := j.clears.foldl (fun (j : Join) c =>
    match c.2 with
    | 0 => { j with meters := j.meters.mod c.1 (fun m => { m with hold := 0, holdT64 := 0 }) }
    | 1 => { j with meters := j.meters.mod c.1 (fun m => { m with clip := 0 }) }
    | _ => { j with gr := j.gr.mod c.1 (fun g => { g with low := 16777216, t64 := 0 }) }) j
  { h with join := { j with clears := [] } }

/-- The due entries of a core (R83), in index order. -/
def Hw.dueOf (h : Hw) (n k : Nat) : List Nat :=
  (List.range 32).filter (fun i =>
    let e := h.tlEntry n i
    e.enable && k % e.div == e.phase % e.div)

/-- The cores begin their task lists. -/
def Hw.tickTasks (h : Hw) (k : Nat) : Hw :=
  (List.range 10).foldl (fun h n =>
    let c := h.core n
    if !h.b (Reg.TRUSS_CTRL_run_en n) || c.trapped || c.gated then h
    else Hw.startNext 33 (h.modCore n (fun c => { c with due := h.dueOf n k, ended := [], replay := [] })) n) h

/-- BLOCK_TICK. -/
def Hw.blockTick (h : Hw) (eccs : List JoinEcc) : Hw :=
  let h := h.firstGrid
  let n := h.tickIndex
  let prev := if h.epoch.live then some h.epoch.tick else none
  let h := (h.advanceTo (h.instant n)).retuneDue
  let t := h.instant n
  let k := n / h.bs
  let h := h.endEpoch k
  let h := ((h.scarfEnd n).muteTick).retimeTick
  let f := h.flt
  let h : Hw := if f.safe && h.twinEn then { h with flt := { f with netStop := true } } else h
  let h := ((h.twinTick n).p Reg.TRUSS_SYNC_flag 0).s0 Reg.JOIN_STATUS_flag0
  let h := ((h.applyChanges n t prev).tickSwaps).dealTick t k
  let h := (h.tickParams t).s1 (Reg.TIME_TMR_STAT_fired 0)
  let h := (h.sapTick n).aesTick n
  let h : Hw := { h with epoch := { tick := t, t := n, n := k, live := true } }
  let h := h.kin.foldl (fun (h : Hw) (e : Nat × InKitty) => Hw.liningPass e.1 e.2.lining.length ((h.consume e.1 n).linedPass e.1)) h
  let h := (h.asrcTick).tickClears
  let h := h.deal.restarts.foldl (fun h r => r.task.outKitties.foldl (fun h x => h.loseOut x 8) h) h
  (h.snapTick.joinEpoch eccs).tickTasks k

end Sys2Proof.Machine
end

