-- ==== Sys2Proof/Machine/Events.lean ====
section
/-! DEFINITION. What is left between the shared operations and the commands: guards, and events that several operations
answer together. -/

namespace Sys2Proof.Machine

/-- POWER_FAIL: the engine die is held in reset and its outputs fall (R487). -/
def Hw.powerFail (h : Hw) : Hw := h.powerReset

/-- RESET_PIN: the pin is low and an engine reset holds (R492). -/
def Hw.resetPin (h : Hw) : Hw :=
  let p := h.pins
  ({ h with pins := { p with resetN := false } } : Hw).engineReset [Reg.SYS_RST_CAUSE_pin]

/-- SILL_RESET_RELEASE: the sill die leaves reset with its registers at their reset values; R13 governs the restart. -/
def Hw.sillRelease (h : Hw) : Hw :=
  let h := h.sillReset
  { h with sill := { h.sill with held := false, lastFlit := h.t64 } }

/-- TASK_START: the next due entry starts where no task runs (R83–R85). -/
def Hw.taskStart (h : Hw) (n : Nat) : Hw :=
  let c := h.core n
  if c.entry.isSome || c.trapped || c.halted || c.gated then h else Hw.startNext 33 h n

/-- KITTY_RELEASE: the released block goes to the sink that the kitty feeds, and its hash to the twin. -/
def Hw.releaseAll (h : Hw) (kid : Nat) : Hw :=
  ((((h.kittyRelease kid).releaseTo kid).ampRelease kid).hashRelease kid).healthCheck true

/-- TRACE_FREEZE: the post-freeze count has run out (R60); the ring's header shows since when. -/
def Hw.traceFrozen (h : Hw) : Hw :=
  let r := h.ring
  if r.postFreeze = 0 && r.freezeT64 = 0 then { h with ring := { r with freezeT64 := h.t64 } } else h

/-- A core executes a bundle unless it has trapped, is halted or is power-gated (R97, R100, R491). -/
def Hw.onCore (h : Hw) (n : Nat) (f : Hw → Hw) : Hw :=
  let h := h.haltDue n
  let c := h.core n
  if c.trapped || c.halted || c.gated then h else f h

/-- FAR_LOAD_RETURN: a pending load's data arrive; an error gives zeros and FAR_ERR (R73). -/
def Hw.farReturn (h : Hw) (n v : Nat) (err : Bool) : Hw :=
  match (h.core n).pend.find? (fun p => p.v = v) with
  | none => h
  | some p => if err then h.farLost n p else h.arrive n p false

/-- TRUSS_TRAP (R97): a trap that no bundle of a row raises, such as an ECC error in instruction memory. TASK_BUDGET stops the
running task; BRK needs the debug window unlocked; code 0 and the reserved codes name no trap. -/
def Hw.trapRow (h : Hw) (n cause : Nat) : Hw :=
  if cause = 0 || 0x0C ≤ cause || (cause = tBrk && !h.b Reg.SYS_DEBUG_unlocked) then h
  else if cause = tBudget then h.budgetStop n
  else h.trap n cause

/-- SCARF_END: ramps and scarfs whose last sample has been computed end (R164). -/
def Hw.scarfDue (h : Hw) : Hw := h.scarfEnd (if h.join.todo.isEmpty && h.epoch.resolved then h.epoch.t + h.bs else h.epoch.t)

/-- The host port answers while the engine die is out of reset (R236). -/
def Hw.hostOpen (h : Hw) (f : Hw → Hw) : Hw := if h.boot.held then h else f h

/-- HOST_BAD_OPCODE: any opcode but read and write (R229). -/
def Hw.badOpcode (h : Hw) (op : Nat) : Hw :=
  if op = 0x0B || op = 0x02 then h else h.hostOpen Hw.hostBadOpcode

/-- HOST_WRITE (R232, R236), while the engine die is out of reset. -/
def Hw.hostStore (h : Hw) (a : Nat) (ws : List Word) (part : Nat) : Option Hw :=
  if h.boot.held then some h else h.hostWrite a ws part

end Sys2Proof.Machine
end

