-- ==== Sys2Proof/Machine/AmpCmds.lean ====
section
/-! DEFINITION. Amplifier channels and boost (R422–R440). One meaning for each command. -/

namespace Sys2Proof.Machine

/-- AMP_CHANNEL_ENABLE (R429). A write to AMP_CTRL.en enables or stops a channel. -/
def execAmpChannelEnable (c : Fin 16) (value : Word) (s : State) : Host.Outcome State Fault Refusal :=
  done s (s.hw.ampCtrl c.val value.toNat)

/-- AMP_START (R429). When every start condition holds, the channel releases its gates at 50% duty. -/
def execAmpStart (c : Fin 16) (s : State) : Host.Outcome State Fault Refusal :=
  done s (s.hw.ampStart c.val)

/-- AMP_OPEN_LOOP_HOLD_END (R429). The open-loop hold ends. -/
def execAmpOpenLoopHoldEnd (c : Fin 16) (s : State) : Host.Outcome State Fault Refusal :=
  done s (s.hw.ampHoldEnd c.val)

/-- AMP_CLOSE_LOOP (R429). At the first integrator zero crossing the comparator takes control, and fade-in
begins. -/
def execAmpCloseLoop (c : Fin 16) (s : State) : Host.Outcome State Fault Refusal :=
  done s (s.hw.ampCloseLoop c.val)

/-- AMP_FADE_IN_END (R429). Fade-in completes, and the channel is running. -/
def execAmpFadeInEnd (c : Fin 16) (s : State) : Host.Outcome State Fault Refusal :=
  done s (s.hw.ampFadeInEnd c.val)

/-- AMP_STOP (R430). A stop begins, and the DAC input fades over 1 ms. -/
def execAmpStop (c : Fin 16) (s : State) : Host.Outcome State Fault Refusal :=
  done s (s.hw.ampStop c.val)

/-- AMP_STOP_FADE_END (R430). The stop fade ends, and the bridge is handed to open-loop PWM at the next zero
crossing. -/
def execAmpStopFadeEnd (c : Fin 16) (s : State) : Host.Outcome State Fault Refusal :=
  done s (s.hw.ampStopFadeEnd c.val)

/-- AMP_GATES_OFF (R430). All four gates go low, and the boost stops when the whole group is down. -/
def execAmpGatesOff (c : Fin 16) (s : State) : Host.Outcome State Fault Refusal :=
  done s (s.hw.ampGatesOff c.val)

/-- AMP_TRIP (R435). Eight consecutive limited cycles trip the channel. -/
def execAmpTrip (c : Fin 16) (s : State) : Host.Outcome State Fault Refusal :=
  done s (s.hw.ampTrip c.val 1 false)

/-- AMP_DRIVER_FAULT (R435). AMPc_FLT_N low for 100 ns trips the channel. -/
def execAmpDriverFault (c : Fin 16) (s : State) : Host.Outcome State Fault Refusal :=
  done s (s.hw.ampTrip c.val 2 false)

/-- AMP_DC_TRIP (R435). Output DC above the threshold for 100 ms trips and latches the channel. -/
def execAmpDcTrip (c : Fin 16) (s : State) : Host.Outcome State Fault Refusal :=
  done s (s.hw.ampDcTrip c.val)

/-- AMP_RETRY (R437). Two hundred fifty ms after a trip the channel restarts, and the fourth trip in 10 s
latches it. -/
def execAmpRetry (c : Fin 16) (s : State) : Host.Outcome State Fault Refusal :=
  done s (s.hw.ampRetry c.val)

/-- AMP_UNLATCH (R437). AMP_CTRL.unlatch clears the latch and the trip history. -/
def execAmpUnlatch (c : Fin 16) (s : State) : Host.Outcome State Fault Refusal :=
  done s (s.hw.ampUnlatch c.val)

/-- BOOST_OVP (R434). The rail passes ovp, and the boost gates are clamped low until the rail falls 2 V below
it. -/
def execBoostOvp (g : Fin 4) (s : State) : Host.Outcome State Fault Refusal :=
  done s (s.hw.boostOvp g.val)

/-- BOOST_OVP_RELEASE (R434). The rail falls 2 V below ovp and the boost gates held by the overvoltage clamp are
released. -/
def execBoostOvpRelease (g : Fin 4) (s : State) : Host.Outcome State Fault Refusal :=
  done s (s.hw.boostOvpEnd g.val)

/-- BOOST_TRACK (R434). The rail lags the target for 100 cycles, and BOOST_TRACK is raised. -/
def execBoostTrack (g : Fin 4) (s : State) : Host.Outcome State Fault Refusal :=
  done s (s.hw.boostTrack g.val)

/-- BOOST_THERM_WARN (R432). The NTC reaches warn, and the rail target is clamped by fold. -/
def execBoostThermWarn (g : Fin 4) (s : State) : Host.Outcome State Fault Refusal :=
  done s (s.hw.thermWarn g.val)

/-- BOOST_THERM_TRIP (R435). The NTC reaches trip, and the group's channels stop. -/
def execBoostThermTrip (g : Fin 4) (s : State) : Host.Outcome State Fault Refusal :=
  done s (s.hw.thermTrip g.val)

/-- BOOST_THERM_CLEAR (R435). The group's NTC temperature falls below warn and 5 °C below it, clearing
therm_warn and therm_trip, ending the fold clamp and restarting thermally stopped channels. -/
def execBoostThermClear (g : Fin 4) (s : State) : Host.Outcome State Fault Refusal :=
  done s (s.hw.thermClear g.val)

end Sys2Proof.Machine
end

