-- ==== Sys2Proof/Machine/BusCmds.lean ====
section
/-! DEFINITION. The debug window, pins and register bus (R263–R287). One meaning for each command. -/

namespace Sys2Proof.Machine

/-- DEBUG_RELOCK (R277). SYS_DEBUG.relock locks the debug window. -/
def execDebugRelock (s : State) : Host.Outcome State Fault Refusal :=
  done s s.hw.debugLock

/-- DEBUG_LIFETIME_END (R277). The unlock lifetime ends, and the debug window locks. -/
def execDebugLifetimeEnd (s : State) : Host.Outcome State Fault Refusal :=
  done s s.hw.debugLifetimeEnd

/-- PINMUX_WRITE (R284). A write to PINMUX_BALL claims, updates or releases a ball, or is refused as a conflict. -/
def execPinmuxWrite (ball : Fin 1444) (value : Word) (s : State) : Host.Outcome State Fault Refusal :=
  done s (s.hw.pinmuxWrite (0x400C0000 + 4 * ball.val) value.toNat 0x0A)

/-- REGISTER_WRITE (R264). A write to a register with no behaviour of its own, under the access rules. -/
def execRegisterWrite (m : Master) (size : Size) (addr : Word) (value : BitVec 64)
    (s : State) : Host.Outcome State Fault Refusal :=
  doneIf s (s.hw.masterWrite m.toNat size addr.toNat value.toNat)

/-- REG_ACCESS_TIMEOUT (R269). A crossing access receives no acknowledgement for 16 µs and ends with an error
response. -/
def execRegAccessTimeout (m : Master) (addr : Word) (write : Bool) (s : State) : Host.Outcome State Fault Refusal :=
  done s (s.hw.regTimeout m.toNat addr.toNat write)

end Sys2Proof.Machine
end

