-- ==== Sys2Proof/Machine/ClkCmds.lean ====
section
/-! DEFINITION. References and the media clock (R407–R421). One meaning for each command. -/

namespace Sys2Proof.Machine

/-- REF_MEASURE (R410). References are measured every 10 ms, windows are checked, and switches are decided. -/
def execRefMeasure (refs : List RefSample) (s : State) : Host.Outcome State Fault Refusal :=
  done s (s.hw.refMeasure refs).clkWaiting

/-- REF_LOST (R409). A reference meets a loss condition, and holdover follows when it is selected. -/
def execRefLost (r : Fin 15) (s : State) : Host.Outcome State Fault Refusal :=
  done s (s.hw.refLost r.val).clkWaiting

/-- REF_WTR_EXPIRE (R412). Wait-to-restore ends, and the reference becomes a candidate. -/
def execRefWtrExpire (r : Fin 15) (s : State) : Host.Outcome State Fault Refusal :=
  done s (s.hw.refWtrExpire r.val)

/-- REF_DWELL_END (R413). The 100 ms dwell ends, and a pending switch starts. -/
def execRefDwellEnd (s : State) : Host.Outcome State Fault Refusal :=
  done s s.hw.refDwellEnd

/-- REF_SWITCH_COMPLETE (R414). The first offset from the new reference reaches the servo, and the switch
completes. -/
def execRefSwitchComplete (theta : Int) (s : State) : Host.Outcome State Fault Refusal :=
  done s (s.hw.switchComplete theta)

/-- HOLDOVER_LIMIT (R416). Holdover reaches max_min, and the state becomes free-run. -/
def execHoldoverLimit (s : State) : Host.Outcome State Fault Refusal :=
  done s s.hw.holdoverLimit

/-- DPLL_UNLOCK (R408). A DPLL phase error above 20 ns for 1 ms clears dpll_lock. -/
def execDpllUnlock (s : State) : Host.Outcome State Fault Refusal :=
  done s s.hw.dpllUnlock

/-- DPLL_LOCK (R408). The DPLL phase error returns within its limit and CLK_STAT.dpll_lock is set again. -/
def execDpllLock (s : State) : Host.Outcome State Fault Refusal :=
  done s s.hw.dpllLock

/-- CLK_SELECTOR_ENABLE (R421). CLK_CTRL.en starts or stops the selector. -/
def execClkSelectorEnable (en : Bool) (s : State) : Host.Outcome State Fault Refusal :=
  done s (s.hw.clkCtrl (setBits (BitVec.ofNat 32 s.hw.clkWord) 0 1 (b2n en)).toNat 0x0A)

/-- CLK_OPEN_LOOP (R418). CLK_CTRL.open opens the loop for steering, or closes it and switches at once. -/
def execClkOpenLoop (isOpen : Bool) (s : State) : Host.Outcome State Fault Refusal :=
  done s (s.hw.clkCtrl (setBits (BitVec.ofNat 32 s.hw.clkWord) 2 1 (b2n isOpen)).toNat 0x0A)

/-- CLK_FORCE (R417). CLK_CTRL.force_en forces selection of one reference. -/
def execClkForce (en : Bool) (r : BitVec 4) (s : State) : Host.Outcome State Fault Refusal :=
  done s (s.hw.clkCtrl (setBits (setBits (BitVec.ofNat 32 s.hw.clkWord) 3 1 (b2n en)) 4 4 r.toNat).toNat 0x0A)

end Sys2Proof.Machine
end

