-- ==== Sys2Proof/Machine/DealCmds.lean ====
section
/-! DEFINITION. Plans and deals: prepare, commit, stages, live re-deal and the test seat (R217–R226). One meaning for each command. -/

namespace Sys2Proof.Machine

/-- PREPARE (R219). An engine receives its share, prepares it and replies READY or UNREADY. -/
def execPrepare (share : Share) (s : State) : Host.Outcome State Fault Refusal :=
  done s (s.hw.prepare share)

/-- READY (R220). The manager receives an engine's READY. -/
def execReady (engine : Nat) (_digest : Word) (s : State) : Host.Outcome State Fault Refusal :=
  done s (s.hw.ready engine)

/-- UNREADY (R219). The manager receives an UNREADY and aborts. -/
def execUnready (engine : Nat) (reason : Nat) (s : State) : Host.Outcome State Fault Refusal :=
  done s (s.hw.unready engine reason)

/-- PREPARE_DEADLINE (R220). At S − 20 ms the manager sends COMMIT when every READY has arrived, and ABORT
otherwise. -/
def execPrepareDeadline (s : State) : Host.Outcome State Fault Refusal :=
  done s s.hw.prepareDeadline

/-- COMMIT (R220). An engine pushes its staged entries and sets its swap requests. -/
def execCommit (number : Nat) (s : State) : Host.Outcome State Fault Refusal :=
  done s (s.hw.commit number)

/-- ABORT (R219). An engine discards its prepared share. -/
def execAbort (number : Nat) (s : State) : Host.Outcome State Fault Refusal :=
  done s (s.hw.abort number)

/-- ACK (R220). The manager receives an ACK, and the commit completes when all have arrived. -/
def execAck (engine : Nat) (stage : Nat) (s : State) : Host.Outcome State Fault Refusal :=
  done s (s.hw.ack engine stage)

/-- PREPARE_TIMEOUT (R221). An engine that has received neither COMMIT nor ABORT by S − 2 ms discards its share. -/
def execPrepareTimeout (s : State) : Host.Outcome State Fault Refusal :=
  done s s.hw.prepareTimeout

/-- STAGE_PUSH (R223). One block before a later stage's tick, the engine pushes that stage's entries. -/
def execStagePush (s : State) : Host.Outcome State Fault Refusal :=
  done s s.hw.stagePush

/-- LIVE_REDEAL_WARM_END (R224). Warm-up and state copy end, and hand-over is scheduled for the next tick. -/
def execLiveRedealWarmEnd (s : State) : Host.Outcome State Fault Refusal :=
  done s s.hw.moveWarmEnd

/-- TEST_SEAT_ROTATE (R217). Every 10 s the standby moves one core onto the test seat and tests the freed core. -/
def execTestSeatRotate (s : State) : Host.Outcome State Fault Refusal :=
  done s (s.hw.seatRotate).seatTest

end Sys2Proof.Machine
end

