-- ==== Sys2Proof/Machine/DmaCmds.lean ====
section
/-! DEFINITION. The DMA engine (R308–R316, R550). One meaning for each command. -/

namespace Sys2Proof.Machine

/-- DMA_CH_ENABLE (R550). A write to DMA_CH_CFG.en enables a channel and sets its origin. -/
def execDmaChEnable (c : Fin 16) (m : Master) (value : Word) (s : State) : Host.Outcome State Fault Refusal :=
  done s (s.hw.dmaCfgWrite c.val m.toNat value.toNat)

/-- DMA_DOORBELL (R313). A doorbell starts an idle channel, re-reads a parked tail, or sets pend. -/
def execDmaDoorbell (c : Fin 16) (s : State) : Host.Outcome State Fault Refusal :=
  done s (s.hw.dmaDoorbell c.val)

/-- DMA_DESC_FETCH (R309). A fetched descriptor is checked and run, or the channel stops with an error. -/
def execDmaDescFetch (c : Fin 16) (err : Bool) (s : State) : Host.Outcome State Fault Refusal :=
  done s (s.hw.dmaDescFetch c.val err)

/-- DMA_DESC_COMPLETE (R310). A descriptor's last write is acknowledged, the descriptor is written back, and the
channel moves on or parks. `ecc` is an ECC error of a source read (R480). -/
def execDmaDescComplete (c : Fin 16) (outcome : Fin 4) (torn broken : Bool) (ecc : Option Ecc)
    (s : State) : Host.Outcome State Fault Refusal :=
  done s (s.hw.dmaDescComplete c.val outcome.val torn broken ecc)

/-- DMA_ABORT (R307). DMA_CH_CFG.abort aborts the channel. -/
def execDmaAbort (c : Fin 16) (s : State) : Host.Outcome State Fault Refusal :=
  done s (s.hw.dmaAbort c.val)

end Sys2Proof.Machine
end

