-- ==== Sys2Proof/Machine/Emergency.lean ====
section
/-! DEFINITION. The bridge to the sill die and the emergency controls (R12–R14, R239–R241). One meaning for each command. -/

namespace Sys2Proof.Machine

/-- FLIT_RECEIVE (R12). A bridge flit arrives, its CRC is checked, and a flit whose CRC fails is retried. -/
def execFlitReceive (crcOk : Bool) (flit : Flit) (s : State) : Host.Outcome State Fault Refusal :=
  done s (s.hw.flitReceive crcOk flit)

/-- BRIDGE_DOWN (R12). Three consecutive failed attempts on one flit take the bridge down. -/
def execBridgeDown (s : State) : Host.Outcome State Fault Refusal :=
  done s s.hw.bridgeDown

/-- KEEP_ALIVE_FLIT (R13). The engine die sends a keep-alive flit at least every 1 µs. -/
def execKeepAliveFlit (s : State) : Host.Outcome State Fault Refusal :=
  done s s.hw.keepAlive

/-- SILL_SAFE_STATE (R13). The sill die receives no valid flit for 8 µs and enters sill safe state. -/
def execSillSafeState (s : State) : Host.Outcome State Fault Refusal :=
  done s s.hw.sillSafeState

/-- SILL_SAFE_EXIT (R13). The bridge runs for 1 ms without errors, the sill die leaves safe state and the dealer
restarts the channels. -/
def execSillSafeExit (s : State) : Host.Outcome State Fault Refusal :=
  done s s.hw.sillSafeExit

/-- MUTE_N_EDGE (R240). MUTE_N changes level, and every sink fades to zero or returns through the ramp. -/
def execMuteNEdge (level : Bool) (s : State) : Host.Outcome State Fault Refusal :=
  done s (s.hw.muteN level)

/-- HOST_MUTE (R240). A write to HOST_MUTE.mute starts or ends mute at every sink. -/
def execHostMute (value : Word) (s : State) : Host.Outcome State Fault Refusal :=
  done s (s.hw.hostMute value.toNat)

/-- AMP_OFF_N_EDGE (R241). AMP_OFF_N changes level, stopping every amplifier channel and boost controller, or
allowing them to start. -/
def execAmpOffNEdge (level : Bool) (s : State) : Host.Outcome State Fault Refusal :=
  done s (s.hw.ampOffN level)

/-- AMP_MASTER_EN (R241). A write to AMP_MASTER_EN.en stops or starts the amplifier channels. -/
def execAmpMasterEn (value : Word) (s : State) : Host.Outcome State Fault Refusal :=
  done s (s.hw.ampMaster value.toNat)

end Sys2Proof.Machine
end

