-- ==== Sys2Proof/Machine/Epochs.lean ====
section
/-! DEFINITION. The block tick, tasks, kitties, speculation and trace (R19–R61, R83–R89). One meaning for each command. -/

namespace Sys2Proof.Machine

/-- BLOCK_TICK (R21). Event timer 0 fires at a block boundary, and the tick's swaps, changes, consumes, Joinery
epoch and task lists run. -/
def execBlockTick (eccs : List JoinEcc) (s : State) : Host.Outcome State Fault Refusal :=
  done s (s.hw.blockTick eccs)

/-- TASK_START (R85). A due task starts once its wait flag is set, or at once when it does not wait. -/
def execTaskStart (core : Fin 10) (s : State) : Host.Outcome State Fault Refusal :=
  done s (s.hw.taskStart core.val)

/-- JOIN_ENTRY_START (R135). A Joinery entry that waits on a sync flag starts when the flag is set. -/
def execJoinEntryStart (s : State) : Host.Outcome State Fault Refusal :=
  done s s.hw.joinEntryStart

/-- TASK_BUDGET (R88). A task uses its cycle budget without SLEEP and is stopped with its outputs concealed. -/
def execTaskBudget (core : Fin 10) (s : State) : Host.Outcome State Fault Refusal :=
  done s (s.hw.budgetStop core.val)

/-- BLOCK_ADMIT (R33). A received block or packet passes the kitty checks in order and is written, or is
discarded and counted. -/
def execBlockAdmit (kitty : Fin 4096) (port : Option Port) (frameOk : Bool) (pkt : Packet)
    (s : State) : Host.Outcome State Fault Refusal :=
  done s (s.hw.blockAdmit kitty.val port frameOk pkt)

/-- STREAM_RESYNC (R36). After 16 consecutive sequence or window failures, the kitty resynchronises on the next
good block. -/
def execStreamResync (kitty : Fin 4096) (s : State) : Host.Outcome State Fault Refusal :=
  done s (s.hw.streamResync kitty.val)

/-- SPEC_CONFIRM (R43). The checks of a speculative block pass, and the block becomes CONFIRMED. -/
def execSpecConfirm (kitty : Fin 4096) (port : Option Port) (n : Nat) (s : State) :
    Host.Outcome State Fault Refusal :=
  done s (s.hw.specConfirm kitty.val port n)

/-- SPEC_SQUASH (R48). A speculative block fails a check, and the engine replays the affected tasks or conceals
them. -/
def execSpecSquash (kitty : Fin 4096) (port : Option Port) (n : Nat) (check : SpecCheck) (s : State) :
    Host.Outcome State Fault Refusal :=
  done s (s.hw.specSquash kitty.val port n check)

/-- SPEC_EXIT_DEADLINE (R47). At the end of the processing period, TENTATIVE blocks are treated as squashed and
timed out. -/
def execSpecExitDeadline (s : State) : Host.Outcome State Fault Refusal :=
  done s s.hw.exitDeadline

/-- KITTY_RELEASE (R40). An output kitty releases the block due at P minus the sink lead, or conceals it. -/
def execKittyRelease (kitty : Fin 4096) (s : State) : Host.Outcome State Fault Refusal :=
  done s (s.hw.releaseAll kitty.val)

/-- STREAM_SILENT (R376). Sixteen consecutive concealed blocks of a stream from another engine raise
STREAM_SILENT. -/
def execStreamSilent (kitty : Fin 4096) (s : State) : Host.Outcome State Fault Refusal :=
  done s (s.hw.streamSilent kitty.val)

/-- TRACE_FREEZE (R60). The post-freeze count runs out, and the trace ring stops writing. -/
def execTraceFreeze (s : State) : Host.Outcome State Fault Refusal :=
  done s s.hw.traceFrozen

/-- SERVO_STATUS_RECORD (R59). A servo status trace record is written once per second. -/
def execServoStatusRecord (s : State) : Host.Outcome State Fault Refusal :=
  done s s.hw.servoRecord

end Sys2Proof.Machine
end

