-- ==== Sys2Proof/Machine/FaultCmds.lean ====
section
/-! DEFINITION. Fault collection and reaction (R460–R483). One meaning for each command. -/

namespace Sys2Proof.Machine

/-- FAULT_EVENT (R460). A fault event arrives and is stamped, queued, classed and recorded, with its reaction or
as consequential. -/
def execFaultEvent (source : BitVec 8) (code : Byte) (context : BitVec 64)
    (s : State) : Host.Outcome State Fault Refusal :=
  done s (s.hw.faultEvent source.toNat code.toNat context.toNat)

/-- SHADOW_WINDOW_CLOSE (R469). A reaction's shadow window closes. -/
def execShadowWindowClose (r : Fin 8) (s : State) : Host.Outcome State Fault Refusal :=
  done s (s.hw.shadowClose r.val)

/-- QUIET_PERIOD_END (R478). The quiet period ends, and the engine tries to exit the fault state. -/
def execQuietPeriodEnd (conditionsClear : Bool) (boostOk : BitVec 4) (s : State) : Host.Outcome State Fault Refusal :=
  done s (s.hw.quietEnd conditionsClear boostOk.toNat)

/-- RECOVERY_TEST_DONE (R478). A fenced unit's recovery test completes; the unit is unfenced or stays fenced,
and the exit continues. -/
def execRecoveryTestDone (core : Fin 10) (pass : Bool) (s : State) : Host.Outcome State Fault Refusal :=
  done s (s.hw.testDone core.val pass)

/-- SCRUB_PERIOD_END (R481). A scrub period ends, with scrub_late set if the pass is incomplete. -/
def execScrubPeriodEnd (complete : Bool) (s : State) : Host.Outcome State Fault Refusal :=
  done s (s.hw.scrubEnd complete)

/-- WATCHDOG_EXPIRE (R463). A dealer or peg watchdog goes unserved for 100 ms, causing a FATAL reset. -/
def execWatchdogExpire (peg : Bool) (s : State) : Host.Outcome State Fault Refusal :=
  done s (s.hw.watchdog peg)

end Sys2Proof.Machine
end

