-- ==== Sys2Proof/Machine/HostDoors.lean ====
section
/-! DEFINITION. The host port and the doors of the mailbox (R229–R262, R512). One meaning for each command. -/

namespace Sys2Proof.Machine

/-- HOST_READ (R230). A QSPI read transaction returns wait bytes, a token and data words. -/
def execHostRead (addr : BitVec 24) (words : Nat) (s : State) : Host.Outcome State Fault Refusal :=
  done s (s.hw.hostOpen (fun h => h.hostRead addr.toNat words))

/-- HOST_WRITE (R232). A QSPI write transaction writes words in address order. -/
def execHostWrite (addr : BitVec 24) (words : List Word) (partialBytes : Fin 4)
    (s : State) : Host.Outcome State Fault Refusal :=
  doneIf s (s.hw.hostStore addr.toNat words partialBytes.val)

/-- HOST_BAD_OPCODE (R229). A QSPI transaction with an unknown opcode is ignored, and decode is set. -/
def execHostBadOpcode (opcode : Byte) (s : State) : Host.Outcome State Fault Refusal :=
  done s (s.hw.badOpcode opcode.toNat)

/-- MBX_DOORBELL (R243). A host doorbell write presents the command buffer, which passes the door checks and is
accepted or refused. -/
def execMbxDoorbell (s : State) : Host.Outcome State Fault Refusal :=
  done s s.hw.doorbell

/-- NET_CMD_RECEIVE (R254). A Proed datagram arrives at the network door and is authenticated, checked and
accepted or refused. -/
def execNetCmdReceive (port : Port) (ip : Word) (udp : Nat) (keyId : Word) (counter : BitVec 64) (tagOk : Bool) (cmd : Cmd)
    (s : State) : Host.Outcome State Fault Refusal :=
  done s (s.hw.netCmd port ip.toNat udp keyId.toNat counter.toNat tagOk cmd)

/-- NET_SESSION_OPEN (R512). A key_id 0 datagram opens a network door session by key exchange. -/
def execNetSessionOpen (port : Port) (ip : Word) (udp : Nat) (msg : EnrolMsg)
    (s : State) : Host.Outcome State Fault Refusal :=
  done s (s.hw.sessionOpen port ip.toNat udp msg)

/-- COMMAND_COMPLETE (R246). The dealer finishes a command, writes the response and clears busy. -/
def execCommandComplete (s : State) : Host.Outcome State Fault Refusal :=
  done s s.hw.paramsDone.commandComplete

/-- MBX_TIMEOUT (R247). A command reaches its maximum duration and is completed with S_TIMEOUT. -/
def execMbxTimeout (s : State) : Host.Outcome State Fault Refusal :=
  done s s.hw.mbxTimeout

end Sys2Proof.Machine
end

