-- ==== Sys2Proof/Machine/JoinCmds.lean ====
section
/-! DEFINITION. The Joinery (R134–R171). One meaning for each command. -/

namespace Sys2Proof.Machine

/-- JOIN_SCHED_SWAP (R134). A swap request for the Joinery schedule is set. -/
def execJoinSchedSwap (s : State) : Host.Outcome State Fault Refusal :=
  done s (s.hw.s1 Reg.JOIN_SCHED_SWAP_swap_req)

/-- CHANGE_PUSH (R161). JOIN_CHG_CTL.push queues the staged change entry, or discards it when the queue is full. -/
def execChangePush (s : State) : Host.Outcome State Fault Refusal :=
  done s s.hw.changePush

/-- SCARF_END (R164). A scarf or ramp completes; departing crosspoints are freed and tap records take their new
delay. -/
def execScarfEnd (s : State) : Host.Outcome State Fault Refusal :=
  done s s.hw.scarfDue

/-- METER_SNAPSHOT (R154). After the set number of epochs have resolved, the Joinery writes a meter snapshot. -/
def execMeterSnapshot (s : State) : Host.Outcome State Fault Refusal :=
  done s s.hw.meterSnapshot

end Sys2Proof.Machine
end

