-- ==== Sys2Proof/Machine/LinkCmds.lean ====
section
/-! DEFINITION. Serial lanes and Gnogo links (R347–R365). One meaning for each command. -/

namespace Sys2Proof.Machine

/-- LANE_STATE_REQ (R351). A write of LANE_CTRL.state_req requests a lane power state. -/
def execLaneStateReq (n : Fin 8) (state : BitVec 2) (s : State) : Host.Outcome State Fault Refusal :=
  done s (s.hw.laneStateReq n.val state.toNat 0x0A)

/-- LANE_STATE_DONE (R352). A lane's state change completes, and any pending request is applied. -/
def execLaneStateDone (n : Fin 8) (s : State) : Host.Outcome State Fault Refusal :=
  done s (s.hw.laneStateDone n.val)

/-- LANE_EQ_SWEEP_DONE (R349). The CTLE sweep completes and keeps the middle error-free code. -/
def execLaneEqSweepDone (n : Fin 8) (errFree : BitVec 16) (s : State) : Host.Outcome State Fault Refusal :=
  done s (s.hw.laneEqDone n.val errFree.toNat)

/-- GNOGO_LINK_ENABLE (R362). A write to GNOGO_LINK_CTRL.en enables or takes down a link. -/
def execGnogoLinkEnable (k : Fin 13) (value : Word) (s : State) : Host.Outcome State Fault Refusal :=
  done s (s.hw.linkEnable k.val value.toNat)

/-- TRAIN (R362). A TRAIN frame is received, and the link can come UP. -/
def execTrain (l : Link) (engineId : BitVec 16) (linkIdx : Byte) (receivedOk : Bool)
    (s : State) : Host.Outcome State Fault Refusal :=
  done s (s.hw.trainRx l engineId.toNat linkIdx.toNat receivedOk)

/-- TRAIN_SEND (R362). A TRAIN frame is sent every 10 µs during training. -/
def execTrainSend (k : Fin 13) (s : State) : Host.Outcome State Fault Refusal :=
  done s (s.hw.trainSend k.val)

/-- GNOGO_LINK_DOWN (R362). Lock loss for 10 µs or no valid frame for 3 ms takes a link DOWN. -/
def execGnogoLinkDown (k : Fin 13) (s : State) : Host.Outcome State Fault Refusal :=
  done s (s.hw.gnogoDown k.val)

/-- GNOGO_BLOCK (R357). A BLOCK frame is received and forwarded or admitted. -/
def execGnogoBlock (l : Link) (dst : Nat) (hops : Nat) (brizu : List Byte)
    (s : State) : Host.Outcome State Fault Refusal :=
  done s (s.hw.gnogoBlock l dst hops brizu)

/-- WREQ (R295). A remote window read request is served from the deck or answered with an error. -/
def execWreq (l : Link) (dst src tag : Nat) (beats : Nat) (off : Nat)
    (s : State) : Host.Outcome State Fault Refusal :=
  done s (s.hw.wreq l dst src tag beats off)

/-- WRSP (R296). A remote window answer completes the waiting piece. -/
def execWrsp (l : Link) (dst src tag : Nat) (err : Bool) (data : List Byte)
    (s : State) : Host.Outcome State Fault Refusal :=
  done s (s.hw.wrsp l dst src tag err data)

/-- CREDIT (R358). Returned credits are added to the sender's count. -/
def execCredit (l : Link) (vc0 vc1 vc2 : Nat) (s : State) : Host.Outcome State Fault Refusal :=
  done s (s.hw.creditRx l vc0 vc1 vc2)

/-- GNOGO_CREDIT_SEND (R358). The receiver returns freed credits within 1 µs, or at once when a quarter is owed. -/
def execGnogoCreditSend (k : Fin 13) (s : State) : Host.Outcome State Fault Refusal :=
  done s (s.hw.creditSend k.val)

/-- NAK (R361). The sender retransmits from the named seq. -/
def execNak (l : Link) (expected : BitVec 16) (s : State) : Host.Outcome State Fault Refusal :=
  done s (s.hw.nakRx l expected.toNat)

/-- GNOGO_RETRANSMIT_TIMEOUT (R361). The oldest unacknowledged frame waits 20 µs and is retransmitted, or the
retry limit takes the link down. -/
def execGnogoRetransmitTimeout (k : Fin 13) (s : State) : Host.Outcome State Fault Refusal :=
  done s (s.hw.retransmitTimeout k.val)

/-- LDM (R363). A link delay measurement request or reply is stamped and processed. -/
def execLdm (l : Link) (reply : Bool) (t1 t2 t3 : Nat) (s : State) : Host.Outcome State Fault Refusal :=
  done s (s.hw.ldmRx l reply t1 t2 t3)

/-- LDM_REQUEST_SEND (R363). An LDM request is sent every 1 ms (10 ms on a tunnel). -/
def execLdmRequestSend (k : Fin 13) (s : State) : Host.Outcome State Fault Refusal :=
  done s (s.hw.ldmSend k.val)

/-- BLOCK_LOCK_REGAIN (R362). A lane regains 64b/66b block lock (and FEC lock), setting MAC_STAT.link on a port
or letting a DOWN Gnogo link enter TRAIN. -/
def execBlockLockRegain (n : Fin 8) (fec : Bool) (s : State) : Host.Outcome State Fault Refusal :=
  done s (s.hw.blockLock n.val fec)

/-- PRBS_SYNC (R354). A lane's PRBS checker gains sync after 64 correct bits, or loses it after 32 errored bits
in 64, setting or clearing prbs_sync; the errored bits seen in sync are counted. -/
def execPrbsSync (n : Fin 8) (gained : Bool) (errs : Nat) (s : State) : Host.Outcome State Fault Refusal :=
  done s (s.hw.prbsSync n.val gained errs)

end Sys2Proof.Machine
end

