-- ==== Sys2Proof/Machine/MonCmds.lean ====
section
/-! DEFINITION. Adaptive voltage, monitors, self-test and the test access port (R488–R490, R515–R528, R545–R548). One meaning for each command. -/

namespace Sys2Proof.Machine

/-- AVS_SAMPLE (R489). Every 50 µs the timing margin is sampled and the bent rail is adjusted. -/
def execAvsSample (bent : Fin 2) (low high : Bool) (fault : Bool) (s : State) : Host.Outcome State Fault Refusal :=
  done s (s.hw.avsSample bent.val low high fault)

/-- AVS_VOUT_CHECK (R489). Once per second READ_VOUT is compared with the command. -/
def execAvsVoutCheck (bent : Fin 2) (_mv : Nat) (fault : Bool) (s : State) : Host.Outcome State Fault Refusal :=
  done s (s.hw.avsVout bent.val fault)

/-- BENT_AVS (R489). The rail is at 0.75 V without margin for 1 ms. -/
def execBentAvs (bent : Fin 2) (s : State) : Host.Outcome State Fault Refusal :=
  done s (s.hw.bentAvs bent.val)

/-- MON_SUPPLY (R547). A rail outside its range for 10 µs raises MON_SUPPLY. -/
def execMonSupply (rail : Fin 14) (mv : Nat) (s : State) : Host.Outcome State Fault Refusal :=
  done s (s.hw.monSupply rail.val mv)

/-- MON_TJ (R547). The junction temperature crosses 115 or 125 °C. -/
def execMonTj (t16 : Int) (s : State) : Host.Outcome State Fault Refusal :=
  done s (s.hw.monTj t16)

/-- AGEING_MEASURE (R546). Every 24 h and at reset exit, the ageing monitors are measured. -/
def execAgeingMeasure (loss : List Nat) (s : State) : Host.Outcome State Fault Refusal :=
  done s (s.hw.ageing loss)

/-- AGEING_MEASURE_NOW (R548). MON_CTRL.age_now measures every ageing monitor. -/
def execAgeingMeasureNow (loss : List Nat) (s : State) : Host.Outcome State Fault Refusal :=
  done s (s.hw.ageingNow loss)

/-- BIST_START (R526). BIST_CTRL.start runs a quick or full BIST. -/
def execBistStart (m : Master) (mode : Bool) (s : State) : Host.Outcome State Fault Refusal :=
  done s (s.hw.bistStart mode m.toNat)

/-- BIST_DONE (R519). A BIST run completes, and results are compared and reported. -/
def execBistDone (items : List BistItem) (aborted : Bool) (s : State) : Host.Outcome State Fault Refusal :=
  done s (s.hw.bistDone items aborted)

/-- BYPASS (R524). JTAG BYPASS instruction. -/
def execBypass (s : State) : Host.Outcome State Fault Refusal :=
  done s (s.hw.tapIr .bypass 0)

/-- IDCODE (R524). JTAG IDCODE instruction. -/
def execIdcode (s : State) : Host.Outcome State Fault Refusal :=
  done s (s.hw.tapIr .idcode idcodeWord)

/-- SAMPLE_PRELOAD (R524). JTAG SAMPLE/PRELOAD instruction. -/
def execSamplePreload (cells : List Bool) (s : State) : Host.Outcome State Fault Refusal :=
  done s (s.hw.tapSample cells)

/-- EXTEST (R524). JTAG EXTEST instruction, with gate outputs low. -/
def execExtest (s : State) : Host.Outcome State Fault Refusal :=
  done s (s.hw.tapIr .extest 0)

/-- CLAMP (R524). JTAG CLAMP instruction. -/
def execClamp (s : State) : Host.Outcome State Fault Refusal :=
  done s (s.hw.tapIr .clamp 0)

/-- HIGHZ (R524). JTAG HIGHZ instruction. -/
def execHighz (s : State) : Host.Outcome State Fault Refusal :=
  done s (s.hw.tapIr .highz 0)

/-- TAP_BIST_ACCESS (R524). A private JTAG instruction gives access to the BIST block. -/
def execTapBistAccess (write : Bool) (off : BitVec 12) (value : Word)
    (s : State) : Host.Outcome State Fault Refusal :=
  done s (s.hw.tapBist write off.toNat value.toNat)

/-- TAP_ENGINE_RESET (R492). The test access port's reset instruction resets the engine. -/
def execTapEngineReset (s : State) : Host.Outcome State Fault Refusal :=
  done s s.hw.tapReset

/-- TRST_N_RESET (R492). TRST_N resets the test access port only. -/
def execTrstNReset (s : State) : Host.Outcome State Fault Refusal :=
  done s s.hw.trst

end Sys2Proof.Machine
end

