-- ==== Sys2Proof/Machine/NetCmds.lean ====
section
/-! DEFINITION. The network ports and PTP (R318–R337). One meaning for each command. -/

namespace Sys2Proof.Machine

/-- NET_FRAME_RECEIVE (R320). A received Ethernet frame is filtered and classified to its destination. -/
def execNetFrameReceive (port : Port) (f : Frame) (s : State) : Host.Outcome State Fault Refusal :=
  done s (s.hw.netFrame port f)

/-- NET_LINK_DOWN (R319). Block or FEC lock is lost for 1 ms, and the port link goes down. -/
def execNetLinkDown (port : Port) (s : State) : Host.Outcome State Fault Refusal :=
  done s (s.hw.netLinkDown port)

/-- TX_ENQUEUE (R324). A frame with its launch time is placed in a transmit queue. -/
def execTxEnqueue (port : Port) (q : Fin 8) (launch len : Nat) (s : State) : Host.Outcome State Fault Refusal :=
  done s (s.hw.txEnqueue port q.val launch len)

/-- TX_FRAME_START (R324). The head frame becomes eligible and starts, or is discarded as late. -/
def execTxFrameStart (port : Port) (s : State) : Host.Outcome State Fault Refusal :=
  done s (s.hw.txFrameStart port)

/-- SLOT_CYCLE_START (R327). A slot-table cycle starts, applying any pending swap. -/
def execSlotCycleStart (port : Port) (s : State) : Host.Outcome State Fault Refusal :=
  done s (s.hw.slotCycleStart port)

/-- SLOT_SWAP_REQ (R326). MAC_SLOT_SWAP requests a slot-table swap. -/
def execSlotSwapReq (port : Port) (s : State) : Host.Outcome State Fault Refusal :=
  done s (s.hw.slotSwapReq port)

/-- PTP_MESSAGE (R335). A PTP message is received, stamped and handled by the peg core. -/
def execPtpMessage (port : Port) (msg : PtpMsg) (s : State) : Host.Outcome State Fault Refusal :=
  done s (s.hw.ptpMessage port msg)

/-- PTP_ANNOUNCE_TIMEOUT (R337). The master is lost at announce receipt timeout, and time is taken from the
other port. -/
def execPtpAnnounceTimeout (port : Port) (s : State) : Host.Outcome State Fault Refusal :=
  done s (s.hw.ptpTimeout port)

/-- PTP_MESSAGE_SEND (R335). At each interval of its profile the peg core sends PTP Sync, Announce or delay
request messages, as master or slave. -/
def execPtpMessageSend (port : Port) (kind : PtpSend) (s : State) : Host.Outcome State Fault Refusal :=
  done s (s.hw.ptpSend port kind)

end Sys2Proof.Machine
end

