-- ==== Sys2Proof/Machine/PortCmds.lean ====
section
/-! DEFINITION. SAP and AES3 ports, rate converters (R380–R403). One meaning for each command. -/

namespace Sys2Proof.Machine

/-- SAP_ENABLE (R383). A write to SAP_CTRL.en enables a port, which is checked and placed in its group. -/
def execSapEnable (n : Fin 32) (value : Word) (s : State) : Host.Outcome State Fault Refusal :=
  done s (s.hw.sapCtrl n.val value.toNat 0x0A)

/-- SAP_FRAME (R389). A port frame is taken or sent at its sample position, repeating or discarding as needed. -/
def execSapFrame (n : Fin 32) (edge : Nat) (valid : Bool) (slots : List Word)
    (s : State) : Host.Outcome State Fault Refusal :=
  done s (s.hw.sapFrame n.val edge valid slots)

/-- SAP_CLK_STOP (R392). No clock edge for 4 nominal periods, and the port enters the stopped state. -/
def execSapClkStop (n : Fin 32) (s : State) : Host.Outcome State Fault Refusal :=
  done s (s.hw.sapStop n.val)

/-- SAP_RATE_CHANGE (R392). Sixty-four periods confirm another standard rate, and the port stops. -/
def execSapRateChange (n : Fin 32) (rate : BitVec 4) (s : State) : Host.Outcome State Fault Refusal :=
  done s (s.hw.sapRate n.val rate.toNat)

/-- SAP_SLOT_SWAP (R387). A swap request for the slot map is set. -/
def execSapSlotSwap (n : Fin 32) (s : State) : Host.Outcome State Fault Refusal :=
  done s (s.hw.sapSwapReq n.val)

/-- SAP_GROUP_ARM (R390). SAP_GRP_CTRL.arm arms an alignment group. -/
def execSapGroupArm (g : Fin 8) (s : State) : Host.Outcome State Fault Refusal :=
  done s (s.hw.groupArm g.val)

/-- SAP_GROUP_START (R390). At the group's start instant, every enabled member begins. -/
def execSapGroupStart (g : Fin 8) (s : State) : Host.Outcome State Fault Refusal :=
  done s (s.hw.groupStart g.val)

/-- AES_RX_FRAME (R395). An AES3 frame is decoded, its parity and validity are checked, and the sample is
stored. -/
def execAesRxFrame (i : Fin 8) (edge : Nat) (z : Bool) (par1 par2 v1 v2 c1 c2 u1 u2 : Bool) (s1 s2 : BitVec 24)
    (s : State) : Host.Outcome State Fault Refusal :=
  done s (s.hw.aesFrame i.val edge z par1 par2 v1 v2 c1 c2 u1 u2 s1.toNat s2.toNat)

/-- AES_RX_BLOCK (R396). At a block's end, channel status and user bits are checked and stored. -/
def execAesRxBlock (i : Fin 8) (s : State) : Host.Outcome State Fault Refusal :=
  done s (s.hw.aesBlock i.val)

/-- AES_CLK_STOP (R392). No valid preamble for 4 frame periods stops the receiver. -/
def execAesClkStop (i : Fin 8) (s : State) : Host.Outcome State Fault Refusal :=
  done s (s.hw.aesStop i.val)

/-- AES_TX_FRAME (R397). A transmitter sends a frame, with Z at multiples of 192. -/
def execAesTxFrame (j : Fin 8) (s : State) : Host.Outcome State Fault Refusal :=
  done s (s.hw.aesTx j.val)

/-- AES_TX_CS_SWAP (R398). A swap request for transmit channel status is set. -/
def execAesTxCsSwap (j : Fin 8) (s : State) : Host.Outcome State Fault Refusal :=
  done s (s.hw.aesTxSwapReq j.val)

/-- ASRC_ENABLE (R399). An ASRC channel is enabled and starts acquiring. -/
def execAsrcEnable (c : Fin 128) (value : Word) (s : State) : Host.Outcome State Fault Refusal :=
  done s (s.hw.asrcCtrl c.val value.toNat)

/-- ASRC_LOCK (R401). A channel finishes acquiring and locks. -/
def execAsrcLock (c : Fin 128) (ratio : Word) (s : State) : Host.Outcome State Fault Refusal :=
  done s (s.hw.asrcLock c.val ratio.toNat)

/-- ASRC_RANGE (R401). The ratio leaves 1:4 to 4:1, and the channel fades. -/
def execAsrcRange (c : Fin 128) (ratio : Word) (s : State) : Host.Outcome State Fault Refusal :=
  done s (s.hw.asrcRange c.val ratio.toNat)

end Sys2Proof.Machine
end

