-- ==== Sys2Proof/Machine/PowerBoot.lean ====
section
/-! DEFINITION. Power, reset and boot (R487, R492–R505). One meaning for each command. -/

namespace Sys2Proof.Machine

/-- POWER_ON (R487). Supplies rise past the power-on thresholds and the internal power-on reset releases both
dies. -/
def execPowerOn (s : State) : Host.Outcome State Fault Refusal :=
  done s s.hw.powerReset

/-- POWER_FAIL (R487). VDD_SOC or VDD_SRAM falls below its power-on threshold, the engine die is held in reset
and its outputs fall to their unpowered states. -/
def execPowerFail (s : State) : Host.Outcome State Fault Refusal :=
  done s s.hw.powerFail

/-- RESET_PIN (R492). RESET_N goes low and starts an engine reset; gate outputs go low within 1 µs. -/
def execResetPin (s : State) : Host.Outcome State Fault Refusal :=
  done s s.hw.resetPin

/-- RESET_RELEASE (R492). An engine reset ends, straps are sampled and boot begins. -/
def execResetRelease (straps : Straps) (pufOk : Bool) (s : State) : Host.Outcome State Fault Refusal :=
  done s (s.hw.resetRelease straps pufOk)

/-- SILL_POWER_RESET (R487). VDDA_SILL falls below 2.8 V and the sill die enters reset and sill safe state. -/
def execSillPowerReset (s : State) : Host.Outcome State Fault Refusal :=
  done s s.hw.sillReset

/-- SILL_RESET_RELEASE (R487). VDDA_SILL returns above 2.8 V and the sill die leaves reset with its registers at
reset values. -/
def execSillResetRelease (s : State) : Host.Outcome State Fault Refusal :=
  done s s.hw.sillRelease

/-- BOOT_READY (R499). Proed finishes initialising memory, opens the doors and sets MBX_STATUS.ready. -/
def execBootReady (s : State) : Host.Outcome State Fault Refusal :=
  done s s.hw.bootReady

/-- BOOT_CHUNK (R503). Host software writes the load word to command buffer word 2, and the boot ROM copies one
image chunk. -/
def execBootChunk (s : State) : Host.Outcome State Fault Refusal :=
  done s s.hw.bootChunk

end Sys2Proof.Machine
end

