-- ==== Sys2Proof/Machine/ProedCmds.lean ====
section
/-! DEFINITION. The Proed commands, as the dealer core carries them out (R257–R262, R504–R513). One meaning for each command. -/

namespace Sys2Proof.Machine

/-- SYS_INFO (R257). Returns identity, firmware, roles and capacities. -/
def execSysInfo (s : State) : Host.Outcome State Fault Refusal :=
  done s s.hw.sysInfo

/-- SYS_STATUS (R257). Returns state, deal number, fenced units and temperatures. -/
def execSysStatus (s : State) : Host.Outcome State Fault Refusal :=
  done s s.hw.sysStatus

/-- SYS_RESET (R492). Answers S_OK and then resets the engine in the given scope. -/
def execSysReset (scope : Nat) (s : State) : Host.Outcome State Fault Refusal :=
  done s (s.hw.sysReset scope)

/-- PLAN_LOAD (R257). Moves a chunk of a plan into the plan staging area. -/
def execPlanLoad (offset total : Nat) (s : State) : Host.Outcome State Fault Refusal :=
  done s (s.hw.planLoad offset total)

/-- PLAN_CHECK (R218). Runs placement without committing and returns the refusal or the deal number. -/
def execPlanCheck (s : State) : Host.Outcome State Fault Refusal :=
  done s s.hw.planCheck

/-- PLAN_COMMIT (R220). Places the plan and commits it across the table in two phases. -/
def execPlanCommit (earliest : Option Nat) (s : State) : Host.Outcome State Fault Refusal :=
  done s (s.hw.planCommit earliest)

/-- PLAN_MOVE (R224). Orders a live re-deal of one module. -/
def execPlanMove (recId : Nat) (engine : Nat) (core : Fin 10) (s : State) : Host.Outcome State Fault Refusal :=
  done s (s.hw.planMove recId engine core.val)

/-- DEAL_READ (R257). Returns the engine's share of the deal, paged. -/
def execDealRead (r : Range) (s : State) : Host.Outcome State Fault Refusal :=
  done s (s.hw.dealRead r)

/-- MODULE_INFO (R200). Returns the cost declarations of a module type. -/
def execModuleInfo (mtype mver : Nat) (s : State) : Host.Outcome State Fault Refusal :=
  done s (s.hw.moduleInfo mtype mver)

/-- PARAM_SET (R262). Queues a parameter change for a commit tick. -/
def execParamSet (p : ParamArg) (cm : Option CommitAt) (s : State) : Host.Outcome State Fault Refusal :=
  done s (s.hw.paramSet [p] cm false)

/-- PARAM_GET (R257). Returns a parameter value. -/
def execParamGet (recId index : Nat) (paramId : Word) (s : State) : Host.Outcome State Fault Refusal :=
  done s (s.hw.paramGet recId index paramId.toNat)

/-- PARAM_SET_MULTI (R262). Applies up to 64 parameter changes at one tick, or none of them. -/
def execParamSetMulti (ps : List ParamArg) (cm : Option CommitAt) (s : State) : Host.Outcome State Fault Refusal :=
  done s (s.hw.paramSet ps cm true)

/-- COEF_LOAD (R186). Loads FIR taps, and the dealer computes and stores the spectra. -/
def execCoefLoad (path : Nat) (bank : Bool) (sets : List (List Word))
    (s : State) : Host.Outcome State Fault Refusal :=
  done s (s.hw.coefLoad path bank sets)

/-- BANK_SWAP (R189). Schedules a coefficient bank swap, deferring it when it is too close. -/
def execBankSwap (recId : Nat) (paths : Range) (c : CommitAt) (s : State) : Host.Outcome State Fault Refusal :=
  done s (s.hw.bankSwap recId paths c)

/-- METER_SNAP (R258). Returns records of the latest meter snapshot. -/
def execMeterSnap (r : Range) (s : State) : Host.Outcome State Fault Refusal :=
  done s (s.hw.meterSnap r)

/-- METER_HOLD (R257). Returns peak holds and gain-reduction records. -/
def execMeterHold (r : Range) (s : State) : Host.Outcome State Fault Refusal :=
  done s (s.hw.meterHold r)

/-- METER_CLEAR (R257). Clears peak holds, clip counters or gain-reduction records at the next tick. -/
def execMeterClear (r : Range) (what : Word) (s : State) : Host.Outcome State Fault Refusal :=
  done s (s.hw.meterClear r what.toNat)

/-- MEAS_READ (R194). Returns transfer measurement results. -/
def execMeasRead (recId : Nat) (kind : Nat) (r : Range) (s : State) : Host.Outcome State Fault Refusal :=
  done s (s.hw.measRead recId kind r)

/-- TIME_STATUS (R257). Returns servo state, offset bound and profile. -/
def execTimeStatus (s : State) : Host.Outcome State Fault Refusal :=
  done s s.hw.timeStatus

/-- TIME_RETIME (R341). Starts a commanded re-time that removes the refused offset. -/
def execTimeRetime (s : State) : Host.Outcome State Fault Refusal :=
  done s s.hw.timeRetime

/-- CLK_STATUS (R257). Returns reference states and qualities. -/
def execClkStatus (s : State) : Host.Outcome State Fault Refusal :=
  done s s.hw.clkStatus

/-- STREAM_STATUS (R41). Returns input kitty counters. -/
def execStreamStatus (r : Range) (s : State) : Host.Outcome State Fault Refusal :=
  done s (s.hw.streamStatus r)

/-- SINK_STATUS (R41). Returns output kitty counters. -/
def execSinkStatus (r : Range) (s : State) : Host.Outcome State Fault Refusal :=
  done s (s.hw.sinkStatus r)

/-- TABLE_STATUS (R257). Returns the table's engines, roles, epochs and cause records. -/
def execTableStatus (s : State) : Host.Outcome State Fault Refusal :=
  done s s.hw.tableStatus

/-- TABLE_ENROL (R369). Makes the engine a table manager with a seat list. -/
def execTableEnrol (e : Enrol) (s : State) : Host.Outcome State Fault Refusal :=
  done s (s.hw.tableEnrol e)

/-- TWIN_STATUS (R459). Returns twin position, health and compare counters. -/
def execTwinStatus (s : State) : Host.Outcome State Fault Refusal :=
  done s s.hw.twinStatus

/-- TWIN_SWITCH (R457). Exchanges active and standby at an agreed tick. -/
def execTwinSwitch (s : State) : Host.Outcome State Fault Refusal :=
  done s s.hw.twinSwitch

/-- FAULT_READ (R483). Returns the history ring, the FIRST record and the sticky bits. -/
def execFaultRead (s : State) : Host.Outcome State Fault Refusal :=
  done s s.hw.faultRead

/-- FAULT_CLEAR (R479). Clears sticky bits, FIRST, history or latches, or commands recovery. -/
def execFaultClear (what : Word) (s : State) : Host.Outcome State Fault Refusal :=
  done s (s.hw.faultClearCmd what.toNat)

/-- TRACE_READ (R257). Returns trace ring records. -/
def execTraceRead (r : Range) (s : State) : Host.Outcome State Fault Refusal :=
  done s (s.hw.traceRead r)

/-- TRACE_COLLECT (R61). The manager gathers and merges the table's trace rings. -/
def execTraceCollect (s : State) : Host.Outcome State Fault Refusal :=
  done s s.hw.traceCollect

/-- TRACE_RELEASE (R60). Unfreezes the trace ring. -/
def execTraceRelease (s : State) : Host.Outcome State Fault Refusal :=
  done s s.hw.traceRelease

/-- TRACE_MARK (R57). Writes a host marker record. -/
def execTraceMark (bytes : List Byte) (s : State) : Host.Outcome State Fault Refusal :=
  done s (s.hw.traceMark bytes)

/-- BIST_RUN (R518). Runs a quick or full self-test. -/
def execBistRun (mode : Nat) (mask : Word) (force : Nat) (s : State) : Host.Outcome State Fault Refusal :=
  done s (s.hw.bistRun mode mask.toNat force)

/-- FW_UPDATE (R504). Writes and checks an image in the slot that did not boot. -/
def execFwUpdate (image : List Byte) (s : State) : Host.Outcome State Fault Refusal :=
  done s (s.hw.fwUpdate image)

/-- CERT_READ (R507). Returns the device and CA certificates. -/
def execCertRead (s : State) : Host.Outcome State Fault Refusal :=
  done s s.hw.certRead

/-- DEBUG_CHALLENGE (R513). Returns a debug unlock challenge. -/
def execDebugChallenge (s : State) : Host.Outcome State Fault Refusal :=
  done s s.hw.debugChallenge

/-- DEBUG_UNLOCK (R513). Unlocks the debug window on a valid owner-signed response. -/
def execDebugUnlock (pub : List Byte) (lifetime : Nat) (sig : List Byte)
    (s : State) : Host.Outcome State Fault Refusal :=
  done s (s.hw.debugUnlock pub lifetime sig)

/-- REG_READ (R277). Reads register words while unlocked. -/
def execRegRead (addr : Word) (count : Nat) (s : State) : Host.Outcome State Fault Refusal :=
  done s (s.hw.regReadCmd addr.toNat count)

/-- OWNER_KEY_PROGRAM (R507). Burns the owner key hash into OTP once. -/
def execOwnerKeyProgram (pub : List Byte) (s : State) : Host.Outcome State Fault Refusal :=
  done s (s.hw.ownerKey pub)

/-- NET_KEY_SET (R512). Installs a network door key. -/
def execNetKeySet (keyId : Word) (key : List Byte) (s : State) : Host.Outcome State Fault Refusal :=
  done s (s.hw.netKeySet keyId.toNat key)

/-- REG_WRITE (R277). Writes register words while unlocked. -/
def execRegWrite (addr : Word) (words : List Word) (s : State) : Host.Outcome State Fault Refusal :=
  doneIf s (s.hw.regWriteCmd addr.toNat words)

end Sys2Proof.Machine
end

