-- ==== Sys2Proof/Machine/TableCmds.lean ====
section
/-! DEFINITION. Control messages, tables, houses, enrolment and keys (R366–R379, R508–R510). One meaning for each command. -/

namespace Sys2Proof.Machine

/-- TOPO (R364). A TOPO message updates the route table. -/
def execTopo (c : Ctrl) (links : List (Nat × Nat)) (s : State) : Host.Outcome State Fault Refusal :=
  done s (s.hw.topoRx c links)

/-- TOPO_SEND (R364). TOPO is flooded every 100 ms. -/
def execTopoSend (s : State) : Host.Outcome State Fault Refusal :=
  done s s.hw.topoSend

/-- PROED_CMD (R368). A table door command from the manager arrives in a CTRL message. -/
def execProedCmd (c : Ctrl) (cmd : Cmd) (s : State) : Host.Outcome State Fault Refusal :=
  done s (s.hw.proedCmd c cmd)

/-- PROED_RSP (R255). A table door response returns to the manager. -/
def execProedRsp (c : Ctrl) (status : BitVec 16) (seq : BitVec 16) (s : State) : Host.Outcome State Fault Refusal :=
  done s (s.hw.proedRspRx c status.toNat seq.toNat)

/-- STALE_ROLE (R367). A STALE_ROLE answer reports the destination's current role and epoch. -/
def execStaleRole (c : Ctrl) (role twin : Nat) (epoch : Word) (mtype : Nat) (counter : Nat)
    (s : State) : Host.Outcome State Fault Refusal :=
  done s (s.hw.staleRx c role twin epoch.toNat mtype counter)

/-- TABLE_BEAT_SEND (R371). The manager sends TABLE_BEAT to every worker every 10 ms. -/
def execTableBeatSend (s : State) : Host.Outcome State Fault Refusal :=
  done s s.hw.beatSend

/-- TABLE_BEAT (R372). A worker receives TABLE_BEAT, answers BEAT_ACK and leaves the frozen state. -/
def execTableBeat (c : Ctrl) (s : State) : Host.Outcome State Fault Refusal :=
  done s (s.hw.beatRx c)

/-- BEAT_ACK (R379). The manager receives a worker's BEAT_ACK. -/
def execBeatAck (c : Ctrl) (sysState : Word) (deal : Nat) (digest : Word)
    (s : State) : Host.Outcome State Fault Refusal :=
  done s (s.hw.beatAck c sysState.toNat deal digest)

/-- TABLE_FREEZE (R371). A worker gets no valid TABLE_BEAT for 100 ms and freezes. -/
def execTableFreeze (s : State) : Host.Outcome State Fault Refusal :=
  done s s.hw.tableFreeze

/-- BEAT_ACK_TIMEOUT (R379). No BEAT_ACK within 2 ms marks the subject suspect and starts polls. -/
def execBeatAckTimeout (engine : Nat) (s : State) : Host.Outcome State Fault Refusal :=
  done s (s.hw.beatAckTimeout engine)

/-- HEALTH_POLL (R379). A worker answers a HEALTH_POLL. -/
def execHealthPoll (c : Ctrl) (s : State) : Host.Outcome State Fault Refusal :=
  done s (s.hw.healthPoll c)

/-- HEALTH_RSP (R379). The manager receives a health answer and marks the subject healthy. -/
def execHealthRsp (c : Ctrl) (s : State) : Host.Outcome State Fault Refusal :=
  done s (s.hw.healthRsp c)

/-- HEALTH_POLL_TIMEOUT (R379). A poll goes unanswered, and the third marks the subject lost. -/
def execHealthPollTimeout (engine : Nat) (s : State) : Host.Outcome State Fault Refusal :=
  done s (s.hw.healthPollTimeout engine)

/-- FAULT_REPORT (R379). The manager enters a worker's fault report into its cause records. -/
def execFaultReport (c : Ctrl) (subject cls : Nat) (stream : Word) (count t64 : Nat)
    (s : State) : Host.Outcome State Fault Refusal :=
  done s (s.hw.faultReportRx c subject cls stream.toNat count t64)

/-- REPORT_WINDOW_CLOSE (R377). A 10 ms report window closes and sends a follow-up report with the count. -/
def execReportWindowClose (subject cls : Nat) (stream : Word) (s : State) : Host.Outcome State Fault Refusal :=
  done s (s.hw.windowClose subject cls stream.toNat)

/-- CAUSE_SUMMARY_SEND (R379). Ten ms after creating a record, the manager sends a CAUSE_SUMMARY. -/
def execCauseSummarySend (s : State) : Host.Outcome State Fault Refusal :=
  done s s.hw.summarySend

/-- CAUSE_SUMMARY (R374). The house manager receives a cause summary. -/
def execCauseSummary (c : Ctrl) (cause : Cause) (s : State) : Host.Outcome State Fault Refusal :=
  done s (s.hw.summaryRx c cause)

/-- TRACE_REQ (R61). A worker receives a request for its trace ring. -/
def execTraceReq (c : Ctrl) (s : State) : Host.Outcome State Fault Refusal :=
  done s (s.hw.traceReq c)

/-- TRACE_DATA (R61). The manager receives trace ring data for the merge. -/
def execTraceData (c : Ctrl) (records : List (List Byte)) (s : State) : Host.Outcome State Fault Refusal :=
  done s (s.hw.traceData c records)

/-- ANNOUNCE (R373). An ANNOUNCE from a candidate is received for the house election. -/
def execAnnounce (link : Fin 13) (id : HouseId) (s : State) : Host.Outcome State Fault Refusal :=
  done s (s.hw.announceRx link.val id)

/-- ANNOUNCE_SEND (R373). A candidate sends ANNOUNCE every 100 ms. -/
def execAnnounceSend (s : State) : Host.Outcome State Fault Refusal :=
  done s s.hw.announceSend

/-- HOUSE_ELECTION_TIMEOUT (R373). A candidate hears no higher ANNOUNCE for 300 ms and takes role 3. -/
def execHouseElectionTimeout (s : State) : Host.Outcome State Fault Refusal :=
  done s s.hw.electionTimeout

/-- HOUSE_BEAT (R373). A HOUSE_BEAT is received, and a lower-ranking house manager steps down. -/
def execHouseBeat (link : Fin 13) (id : HouseId) (s : State) : Host.Outcome State Fault Refusal :=
  done s (s.hw.houseBeatRx link.val id)

/-- HOUSE_BEAT_SEND (R373). The house manager sends HOUSE_BEAT every 100 ms. -/
def execHouseBeatSend (s : State) : Host.Outcome State Fault Refusal :=
  done s s.hw.houseBeatSend

/-- TABLE_WITHDRAW_END (R375). The other manager is unheard for 300 ms, and the withdrawal ends. -/
def execTableWithdrawEnd (s : State) : Host.Outcome State Fault Refusal :=
  done s s.hw.withdrawEnd

/-- ENROL_HELLO (R508). A standalone engine receives the manager's hello and replies. -/
def execEnrolHello (link : Fin 13) (m : EnrolMsg) (s : State) : Host.Outcome State Fault Refusal :=
  done s (s.hw.enrolHello link.val m)

/-- ENROL_REPLY (R508). The manager checks the reply and sends ENROL_FINISH. -/
def execEnrolReply (link : Fin 13) (m : EnrolMsg) (s : State) : Host.Outcome State Fault Refusal :=
  done s (s.hw.enrolReply link.val m)

/-- ENROL_FINISH (R508). The engine takes its seat and the table key and answers ENROL_DONE. -/
def execEnrolFinish (link : Fin 13) (sig : List Byte) (seat : Nat) (tableIdx : Fin 16) (keyId : Word) (key : List Byte)
    (s : State) : Host.Outcome State Fault Refusal :=
  done s (s.hw.enrolFinish link.val sig seat tableIdx.val keyId.toNat key)

/-- ENROL_DONE (R508). The manager completes enrolment of the engine. -/
def execEnrolDone (link : Fin 13) (tagOk : Bool) (s : State) : Host.Outcome State Fault Refusal :=
  done s (s.hw.enrolled1 link.val tagOk)

/-- ENROL_TIMEOUT (R508). An enrolment not complete within 500 ms is abandoned. -/
def execEnrolTimeout (link : Fin 13) (s : State) : Host.Outcome State Fault Refusal :=
  done s (s.hw.enrolTimeout link.val)

/-- PEER_SEEN (R370). The manager starts a relayed enrolment through the reporting engine. -/
def execPeerSeen (c : Ctrl) (linkIdx : Nat) (s : State) : Host.Outcome State Fault Refusal :=
  done s (s.hw.peerSeen c linkIdx)

/-- IMAGE_REQ (R510). The manager receives an image request and sends its image. -/
def execImageReq (c : Ctrl) (s : State) : Host.Outcome State Fault Refusal :=
  done s (s.hw.imageReq c)

/-- IMAGE_DATA (R510). A Gnogo-loading engine receives image data and checks the image. -/
def execImageData (off : Nat) (bytes : List Byte) (s : State) : Host.Outcome State Fault Refusal :=
  done s (s.hw.imageData off bytes)

/-- GNOGO_LOAD_RETRY (R510). An engine not in the seat list retries Gnogo load every 1 s. -/
def execGnogoLoadRetry (s : State) : Host.Outcome State Fault Refusal :=
  done s s.hw.gnogoLoadRetry

/-- TABLE_KEY_ROTATE (R509). Every 24 h the manager draws and distributes a new table key. -/
def execTableKeyRotate (s : State) : Host.Outcome State Fault Refusal :=
  done s s.hw.keyRotate

/-- TABLE_KEY_ACTIVATE (R509). A new table key reaches its activation time. -/
def execTableKeyActivate (s : State) : Host.Outcome State Fault Refusal :=
  done s s.hw.keyActivate

/-- PAIRWISE_REKEY (R509). Every 24 h, or when its counter reaches 2^48, a pairwise key pair between the manager
and an engine is re-established. -/
def execPairwiseRekey (engine : Nat) (s : State) : Host.Outcome State Fault Refusal :=
  done s (s.hw.pairRekey engine)

end Sys2Proof.Machine
end

