-- ==== Sys2Proof/Machine/TimeCmds.lean ====
section
/-! DEFINITION. The time unit (R338–R344, R551). One meaning for each command. -/

namespace Sys2Proof.Machine

/-- SERVO_MEASUREMENT (R338). A write of TIME_MEAS_NS passes an offset to the servo, which steps, refuses or
updates the rate. -/
def execServoMeasurement (ns : Word) (s : State) : Host.Outcome State Fault Refusal :=
  done s (s.hw.servoMeasure ns.toNat).clkSync

/-- SERVO_MEAS_TIMEOUT (R339). No measurement arrives for 4 intervals, and the servo enters HOLDOVER. -/
def execServoMeasTimeout (s : State) : Host.Outcome State Fault Refusal :=
  done s s.hw.servoTimeout.clkSync

/-- SERVO_HOLD (R339). TIME_CTRL.hold forces HOLDOVER or releases it. -/
def execServoHold (hold : Bool) (s : State) : Host.Outcome State Fault Refusal :=
  done s (s.hw.servoHold hold).clkSync

/-- SERVO_ENABLE (R339). TIME_CTRL.servo_en enables the servo or returns it to FREE. -/
def execServoEnable (en : Bool) (s : State) : Host.Outcome State Fault Refusal :=
  done s (s.hw.servoEnable en).clkSync

/-- RETIME_STEP (R341). One ms after the first tick, T64 steps and the block tick restarts. -/
def execRetimeStep (s : State) : Host.Outcome State Fault Refusal :=
  done s s.hw.retimeStep.clkSync

/-- RETIME_FLUSH (R341). One block period after the step, every kitty is flushed and resynchronises. -/
def execRetimeFlush (s : State) : Host.Outcome State Fault Refusal :=
  done s s.hw.retimeFlush

/-- RETIME_END (R341). Ten ms after the first tick, sinks return through the ramp and retime clears. -/
def execRetimeEnd (s : State) : Host.Outcome State Fault Refusal :=
  done s s.hw.retimeEnd

/-- TIMER_ARM (R342). A write of a nonzero mode arms an event timer. -/
def execTimerArm (i : Fin 32) (value : Word) (s : State) : Host.Outcome State Fault Refusal :=
  done s (s.hw.timerArm i.val value.toNat)

/-- EVENT_TIMER_FIRE (R342). An event timer fires: interrupt, DMA triggers and pin pulse. -/
def execEventTimerFire (i : Fin 32) (s : State) : Host.Outcome State Fault Refusal :=
  done s ((s.hw.timerFire i.val).groupTimer i.val)

/-- CAPTURE_EDGE (R343). A filtered edge on a capture input is stamped into the FIFO, or is lost when the FIFO
is full. -/
def execCaptureEdge (j : Fin 16) (rise : Bool) (s : State) : Host.Outcome State Fault Refusal :=
  done s (s.hw.captureEdge j.val rise)

/-- CAPTURE_POP (R343). TIME_CAP_STAT.pop discards the head entry. -/
def execCapturePop (j : Fin 16) (s : State) : Host.Outcome State Fault Refusal :=
  done s (s.hw.capturePop j.val)

end Sys2Proof.Machine
end

