-- ==== Sys2Proof/Machine/TrussCmds.lean ====
section
/-! DEFINITION. The truss slots: one bundle that holds the row's operation alone (R63–R133). One meaning for each command. -/

namespace Sys2Proof.Machine

/-- TRUSS_LOAD (R129). A memory slot loads a V register from X, Y, LS, BENT or FAR. `ecc` is an ECC error of the word that the
lowest active lane reads: corrected, or with true uncorrectable (R97, R480). -/
def execTrussLoad (core : Fin 10) (m : MemArgs) (ecc : Option Bool) (s : State) : Host.Outcome State Fault Refusal :=
  done s (s.hw.onCore core.val (fun h => h.opLoad core.val m ecc))

/-- TRUSS_STORE (R129). A memory slot stores a V register to X, Y, LS, BENT or FAR. -/
def execTrussStore (core : Fin 10) (m : MemArgs) (s : State) : Host.Outcome State Fault Refusal :=
  donePosted s (s.hw.onCore core.val (fun h => h.opStore core.val m))

/-- FAR_LOAD_RETURN (R73). The data of a scoreboarded BENT or FAR load arrive, or an error gives FAR_ERR. -/
def execFarLoadReturn (core : Fin 10) (v : BitVec 5) (err : Bool) (s : State) : Host.Outcome State Fault Refusal :=
  done s (s.hw.farReturn core.val v.toNat err)

/-- IMM_BUNDLE (R133). An immediate bundle writes a 32-bit value into a P, M or L register. -/
def execImmBundle (core : Fin 10) (dest : BitVec 6) (imm : Word) (s : State) : Host.Outcome State Fault Refusal :=
  done s (s.hw.onCore core.val (fun h => h.opImm core.val dest.toNat imm))

/-- MPY (R105). Writes the product to the accumulator. -/
def execMpy (core : Fin 10) (x : EArgs) (s : State) : Host.Outcome State Fault Refusal :=
  done s (s.hw.onCore core.val (fun h => h.opE core.val .mpy x))

/-- MAC (R105). Adds the product to the accumulator. -/
def execMac (core : Fin 10) (x : EArgs) (s : State) : Host.Outcome State Fault Refusal :=
  done s (s.hw.onCore core.val (fun h => h.opE core.val .mac x))

/-- MSU (R105). Subtracts the product from the accumulator. -/
def execMsu (core : Fin 10) (x : EArgs) (s : State) : Host.Outcome State Fault Refusal :=
  done s (s.hw.onCore core.val (fun h => h.opE core.val .msu x))

/-- FMA (R114). Binary32 fused multiply-add into the accumulator. -/
def execFma (core : Fin 10) (x : EArgs) (s : State) : Host.Outcome State Fault Refusal :=
  done s (s.hw.onCore core.val (fun h => h.opE core.val .fma x))

/-- FMPY (R114). Binary32 multiply into the accumulator. -/
def execFmpy (core : Fin 10) (x : EArgs) (s : State) : Host.Outcome State Fault Refusal :=
  done s (s.hw.onCore core.val (fun h => h.opE core.val .fmpy x))

/-- EXT (R107). Extracts a rounded 32-bit element from an accumulator. -/
def execExt (core : Fin 10) (x : EArgs) (s : State) : Host.Outcome State Fault Refusal :=
  done s (s.hw.onCore core.val (fun h => h.opE core.val .ext x))

/-- ALD (R127). Loads the accumulator from a shifted, sign-extended V element. -/
def execAld (core : Fin 10) (x : EArgs) (s : State) : Host.Outcome State Fault Refusal :=
  done s (s.hw.onCore core.val (fun h => h.opE core.val .ald x))

/-- ADD (R108). Adds two V registers, wrapping or saturating. -/
def execAdd (core : Fin 10) (x : EArgs) (s : State) : Host.Outcome State Fault Refusal :=
  done s (s.hw.onCore core.val (fun h => h.opE core.val .add x))

/-- SUB (R108). Subtracts two V registers, wrapping or saturating. -/
def execSub (core : Fin 10) (x : EArgs) (s : State) : Host.Outcome State Fault Refusal :=
  done s (s.hw.onCore core.val (fun h => h.opE core.val .sub x))

/-- AND (R127). Bitwise AND. -/
def execAnd (core : Fin 10) (x : EArgs) (s : State) : Host.Outcome State Fault Refusal :=
  done s (s.hw.onCore core.val (fun h => h.opE core.val .and x))

/-- OR (R127). Bitwise OR. -/
def execOr (core : Fin 10) (x : EArgs) (s : State) : Host.Outcome State Fault Refusal :=
  done s (s.hw.onCore core.val (fun h => h.opE core.val .or x))

/-- XOR (R127). Bitwise XOR. -/
def execXor (core : Fin 10) (x : EArgs) (s : State) : Host.Outcome State Fault Refusal :=
  done s (s.hw.onCore core.val (fun h => h.opE core.val .xor x))

/-- ABS (R108). Absolute value. -/
def execAbs (core : Fin 10) (x : EArgs) (s : State) : Host.Outcome State Fault Refusal :=
  done s (s.hw.onCore core.val (fun h => h.opE core.val .abs x))

/-- NEG (R108). Negation. -/
def execNeg (core : Fin 10) (x : EArgs) (s : State) : Host.Outcome State Fault Refusal :=
  done s (s.hw.onCore core.val (fun h => h.opE core.val .neg x))

/-- MIN (R127). Lane-wise minimum. -/
def execMin (core : Fin 10) (x : EArgs) (s : State) : Host.Outcome State Fault Refusal :=
  done s (s.hw.onCore core.val (fun h => h.opE core.val .min x))

/-- MAX (R127). Lane-wise maximum. -/
def execMax (core : Fin 10) (x : EArgs) (s : State) : Host.Outcome State Fault Refusal :=
  done s (s.hw.onCore core.val (fun h => h.opE core.val .max x))

/-- SHL (R108). Shift left. -/
def execShl (core : Fin 10) (x : EArgs) (s : State) : Host.Outcome State Fault Refusal :=
  done s (s.hw.onCore core.val (fun h => h.opE core.val .shl x))

/-- SHRA (R108). Arithmetic shift right, optionally rounding. -/
def execShra (core : Fin 10) (x : EArgs) (s : State) : Host.Outcome State Fault Refusal :=
  done s (s.hw.onCore core.val (fun h => h.opE core.val .shra x))

/-- SHRL (R108). Logical shift right. -/
def execShrl (core : Fin 10) (x : EArgs) (s : State) : Host.Outcome State Fault Refusal :=
  done s (s.hw.onCore core.val (fun h => h.opE core.val .shrl x))

/-- CMP (R127). Sets a lane mask from a per-lane condition. -/
def execCmp (core : Fin 10) (x : EArgs) (s : State) : Host.Outcome State Fault Refusal :=
  done s (s.hw.onCore core.val (fun h => h.opE core.val .cmp x))

/-- FADD (R111). Binary32 addition. -/
def execFadd (core : Fin 10) (x : EArgs) (s : State) : Host.Outcome State Fault Refusal :=
  done s (s.hw.onCore core.val (fun h => h.opE core.val .fadd x))

/-- FSUB (R111). Binary32 subtraction. -/
def execFsub (core : Fin 10) (x : EArgs) (s : State) : Host.Outcome State Fault Refusal :=
  done s (s.hw.onCore core.val (fun h => h.opE core.val .fsub x))

/-- FMUL (R111). Binary32 multiplication. -/
def execFmul (core : Fin 10) (x : EArgs) (s : State) : Host.Outcome State Fault Refusal :=
  done s (s.hw.onCore core.val (fun h => h.opE core.val .fmul x))

/-- FMIN (R113). Binary32 minimumNumber. -/
def execFmin (core : Fin 10) (x : EArgs) (s : State) : Host.Outcome State Fault Refusal :=
  done s (s.hw.onCore core.val (fun h => h.opE core.val .fmin x))

/-- FMAX (R113). Binary32 maximumNumber. -/
def execFmax (core : Fin 10) (x : EArgs) (s : State) : Host.Outcome State Fault Refusal :=
  done s (s.hw.onCore core.val (fun h => h.opE core.val .fmax x))

/-- CVT (R115). Converts between scaled integer and binary32. -/
def execCvt (core : Fin 10) (x : EArgs) (s : State) : Host.Outcome State Fault Refusal :=
  done s (s.hw.onCore core.val (fun h => h.opE core.val .cvt x))

/-- BEXP (R116). Counts redundant sign bits and updates ST.bexp. -/
def execBexp (core : Fin 10) (x : EArgs) (s : State) : Host.Outcome State Fault Refusal :=
  done s (s.hw.onCore core.val (fun h => h.opE core.val .bexp x))

/-- BEXPA (R117). Counts the redundant sign bits of an accumulator into ST.bexp. -/
def execBexpa (core : Fin 10) (x : EArgs) (s : State) : Host.Outcome State Fault Refusal :=
  done s (s.hw.onCore core.val (fun h => h.opE core.val .bexpa x))

/-- ACC (R127). Accumulator clear, copy, add, subtract or shift. -/
def execAcc (core : Fin 10) (x : EArgs) (s : State) : Host.Outcome State Fault Refusal :=
  done s (s.hw.onCore core.val (fun h => h.opE core.val .acc x))

/-- FMA3 (R128). Binary32 fused multiply-add into a V register. -/
def execFma3 (core : Fin 10) (x : EWArgs) (s : State) : Host.Outcome State Fault Refusal :=
  done s (s.hw.onCore core.val (fun h => h.opW core.val .fma3 x))

/-- MACX (R128). Multiply-accumulate with extract into a V register. -/
def execMacx (core : Fin 10) (x : EWArgs) (s : State) : Host.Outcome State Fault Refusal :=
  done s (s.hw.onCore core.val (fun h => h.opW core.val .macx x))

/-- SEL (R128). Selects between two V registers by a mask. -/
def execSel (core : Fin 10) (x : EWArgs) (s : State) : Host.Outcome State Fault Refusal :=
  done s (s.hw.onCore core.val (fun h => h.opW core.val .sel x))

/-- MAXI (R119). Running maximum with its position. -/
def execMaxi (core : Fin 10) (x : EWArgs) (s : State) : Host.Outcome State Fault Refusal :=
  done s (s.hw.onCore core.val (fun h => h.opW core.val .maxi x))

/-- MINI (R119). Running minimum with its position. -/
def execMini (core : Fin 10) (x : EWArgs) (s : State) : Host.Outcome State Fault Refusal :=
  done s (s.hw.onCore core.val (fun h => h.opW core.val .mini x))

/-- SHUF (R123). Permutes elements across lanes. -/
def execShuf (core : Fin 10) (x : EWArgs) (s : State) : Host.Outcome State Fault Refusal :=
  done s (s.hw.onCore core.val (fun h => h.opW core.val .shuf x))

/-- RED (R120). Reduces over the active lanes. -/
def execRed (core : Fin 10) (x : EWArgs) (s : State) : Host.Outcome State Fault Refusal :=
  done s (s.hw.onCore core.val (fun h => h.opW core.val .red x))

/-- LDI (R128). Loads a sign-extended immediate. -/
def execLdi (core : Fin 10) (x : EWArgs) (s : State) : Host.Outcome State Fault Refusal :=
  done s (s.hw.onCore core.val (fun h => h.opW core.val .ldi x))

/-- LDIH (R128). Loads an immediate into the upper half. -/
def execLdih (core : Fin 10) (x : EWArgs) (s : State) : Host.Outcome State Fault Refusal :=
  done s (s.hw.onCore core.val (fun h => h.opW core.val .ldih x))

/-- FROMP (R128). Broadcasts a pointer register into the lanes. -/
def execFromp (core : Fin 10) (x : EWArgs) (s : State) : Host.Outcome State Fault Refusal :=
  done s (s.hw.onCore core.val (fun h => h.opW core.val .fromp x))

/-- B (R132). Conditional branch. -/
def execB (core : Fin 10) (cond n : BitVec 4) (target : BitVec 14) (s : State) : Host.Outcome State Fault Refusal :=
  done s (s.hw.onCore core.val (fun h => h.opC core.val (.b cond.toNat n.toNat target.toNat)))

/-- LOOP (R78). Pushes a zero-overhead loop level. -/
def execLoop (core : Fin 10) (src : Bool) (count : BitVec 16) (off : BitVec 8)
    (s : State) : Host.Outcome State Fault Refusal :=
  done s (s.hw.onCore core.val (fun h => h.opC core.val (.loop src count.toNat off.toNat)))

/-- LEXIT (R79). Pops the innermost loop and leaves its body. -/
def execLexit (core : Fin 10) (s : State) : Host.Outcome State Fault Refusal :=
  done s (s.hw.onCore core.val (fun h => h.opC core.val .lexit))

/-- SLEEP (R86). Ends the task and starts the next due entry, or stops the pipeline clock. -/
def execSleep (core : Fin 10) (s : State) : Host.Outcome State Fault Refusal :=
  done s (s.hw.onCore core.val (fun h => h.opC core.val .sleep))

/-- SIGNAL (R132). Sets a sync flag at once. -/
def execSignal (core : Fin 10) (flag : BitVec 4) (s : State) : Host.Outcome State Fault Refusal :=
  done s (s.hw.onCore core.val (fun h => h.opC core.val (.signal flag.toNat)))

/-- SOFT_TRAP (R97). Raises the SOFT_TRAP trap, and the core is fenced. -/
def execSoftTrap (core : Fin 10) (s : State) : Host.Outcome State Fault Refusal :=
  done s (s.hw.onCore core.val (fun h => h.opC core.val .softTrap))

/-- BRK (R97). Halts the core while the debug window is unlocked. -/
def execBrk (core : Fin 10) (s : State) : Host.Outcome State Fault Refusal :=
  done s (s.hw.onCore core.val (fun h => h.opC core.val .brk))

/-- QOP (R132). Performs a mask register operation. -/
def execQop (core : Fin 10) (qd qa qb : BitVec 2) (fn : BitVec 3) (hi lo : BitVec 5)
    (s : State) : Host.Outcome State Fault Refusal :=
  done s (s.hw.onCore core.val (fun h => h.opC core.val (.qop qd.toNat qa.toNat qb.toNat fn.toNat hi.toNat lo.toNat)))

/-- STW (R132). Writes ST from a pointer register. -/
def execStw (core : Fin 10) (p : BitVec 4) (s : State) : Host.Outcome State Fault Refusal :=
  done s (s.hw.onCore core.val (fun h => h.opC core.val (.stw p.toNat)))

/-- STR (R132). Reads a field of ST into a pointer register. -/
def execStr (core : Fin 10) (fld : BitVec 2) (p : BitVec 4) (s : State) : Host.Outcome State Fault Refusal :=
  done s (s.hw.onCore core.val (fun h => h.opC core.val (.str fld.toNat p.toNat)))

/-- STCLR (R132). Clears sticky flags or resets bexp. -/
def execStclr (core : Fin 10) (flags : BitVec 6) (bexp : Bool) (s : State) : Host.Outcome State Fault Refusal :=
  done s (s.hw.onCore core.val (fun h => h.opC core.val (.stclr flags.toNat bexp)))

/-- PADD (R132). Adds an immediate to a pointer register. -/
def execPadd (core : Fin 10) (pd pa : BitVec 4) (imm : BitVec 16) (s : State) : Host.Outcome State Fault Refusal :=
  done s (s.hw.onCore core.val (fun h => h.opC core.val (.padd pd.toNat pa.toNat imm.toNat)))

end Sys2Proof.Machine
end

