-- ==== Sys2Proof/Machine/TrussCtl.lean ====
section
/-! DEFINITION. Truss core control and the bent clocks (R84, R91, R97, R100). One meaning for each command. -/

namespace Sys2Proof.Machine

/-- TRUSS_TRAP (R97). A trap is recorded, and the core stops or continues by its cause. -/
def execTrussTrap (core : Fin 10) (cause : BitVec 5) (s : State) : Host.Outcome State Fault Refusal :=
  done s (s.hw.onCore core.val (fun h => h.trapRow core.val cause.toNat))

/-- TRUSS_STEP (R100). TRUSS_CTRL.step executes one bundle on a halted core. -/
def execTrussStep (core : Fin 10) (s : State) : Host.Outcome State Fault Refusal :=
  donePosted s ((s.hw.s1 (Reg.TRUSS_CTRL_step core.val)).trussStep core.val)

/-- TRUSS_HALT_REQ (R100). TRUSS_CTRL.halt_req halts the core at the next bundle boundary while the debug window
is unlocked. -/
def execTrussHaltReq (core : Fin 10) (halt : Bool) (s : State) : Host.Outcome State Fault Refusal :=
  done s (s.hw.haltReq core.val halt)

/-- TRUSS_TL_SWAP (R84). A swap request for the task list is set, and the shadow copy is locked until the tick. -/
def execTrussTlSwap (core : Fin 10) (s : State) : Host.Outcome State Fault Refusal :=
  done s (s.hw.s1 (Reg.TRUSS_TL_SWAP_swap_req core.val))

/-- BENT_FREQ_CHANGE_REQ (R91). TRUSS_BENT_OP.change_req requests a new bent frequency, and a raise first raises
the rail. -/
def execBentFreqChangeReq (bent : Fin 2) (code : BitVec 4) (s : State) : Host.Outcome State Fault Refusal :=
  done s (s.hw.bentFreqReq bent.val code.toNat 0x0A)

/-- BENT_PLL_RETUNE (R91). In the first interval of at least 6 µs with all cores asleep, the bent clock stops
and the PLL retunes. -/
def execBentPllRetune (bent : Fin 2) (s : State) : Host.Outcome State Fault Refusal :=
  done s (s.hw.bentRetune bent.val)

/-- BENT_RETUNE_DONE (R91). The bent clock runs again at the new frequency, and change_req clears. -/
def execBentRetuneDone (bent : Fin 2) (s : State) : Host.Outcome State Fault Refusal :=
  done s (s.hw.bentRetuneDone bent.val)

end Sys2Proof.Machine
end

