-- ==== Sys2Proof/Machine/TwinCmds.lean ====
section
/-! DEFINITION. Twin operation and fail-over (R441–R459). One meaning for each command. -/

namespace Sys2Proof.Machine

/-- TWIN_PEER_PIN (R444). PEER_ACT or PEER_HEALTH changes, and selection and contention are re-evaluated. -/
def execTwinPeerPin (act health : Bool) (s : State) : Host.Outcome State Fault Refusal :=
  done s (s.hw.peerPin act health)

/-- HEALTH_FALL (R442). A HEALTH condition fails, and HEALTH falls within 10 µs. -/
def execHealthFall (s : State) : Host.Outcome State Fault Refusal :=
  done s s.hw.healthLost

/-- TWIN_CLAIM (R454). After 10 or 50 ms of running, an engine claims if its peer does not. -/
def execTwinClaim (s : State) : Host.Outcome State Fault Refusal :=
  done s s.hw.twinClaim

/-- TWIN_GATE_HOLD_END (R452). A newly selected engine ends its 1-block gate hold and starts its channels. -/
def execTwinGateHoldEnd (s : State) : Host.Outcome State Fault Refusal :=
  done s s.hw.gateHoldEnd

/-- TWIN_BEAT (R449). The peer's beat is received, and hashes are compared per kitty. -/
def execTwinBeat (c : Ctrl) (b : Beat) (s : State) : Host.Outcome State Fault Refusal :=
  done s (s.hw.twinBeat c b)

/-- TWIN_BEAT_TIMEOUT (R446). No beat for 2 block periods: solo, stop port B, or take over. -/
def execTwinBeatTimeout (s : State) : Host.Outcome State Fault Refusal :=
  done s s.hw.twinBeatTimeout

/-- TWIN_TAKEOVER (R453). The standby takes position active. -/
def execTwinTakeover (s : State) : Host.Outcome State Fault Refusal :=
  done s s.hw.twinTakeover

/-- TWIN_HEALTH (R447). The peer's health report is received. -/
def execTwinHealth (c : Ctrl) (hh : TwinHealth) (s : State) : Host.Outcome State Fault Refusal :=
  done s (s.hw.twinHealthRx c hh)

/-- TWIN_HEALTH_SEND (R445). TWIN_HEALTH is sent every health interval. -/
def execTwinHealthSend (s : State) : Host.Outcome State Fault Refusal :=
  done s s.hw.twinHealthSend

/-- TWIN_YIELD (R453). The peer yields, and the standby takes over when the peer does not claim. -/
def execTwinYield (c : Ctrl) (tick cause : Nat) (s : State) : Host.Outcome State Fault Refusal :=
  done s (s.hw.twinYield c tick cause)

/-- TWIN_SWITCH_REQ (R457). The standby accepts a switch tick and acknowledges it. -/
def execTwinSwitchReq (c : Ctrl) (sq : Nat) (s : State) : Host.Outcome State Fault Refusal :=
  done s (s.hw.switchReq c sq)

/-- TWIN_SWITCH_ACK (R457). The active receives the switch acknowledgement. -/
def execTwinSwitchAck (c : Ctrl) (sq : Nat) (s : State) : Host.Outcome State Fault Refusal :=
  done s (s.hw.switchAck c sq)

/-- TWIN_SWITCH_AT_TICK (R457). At tick S the engines exchange positions. -/
def execTwinSwitchAtTick (s : State) : Host.Outcome State Fault Refusal :=
  done s s.hw.twinSwitchTick

/-- TWIN_SYNC_REQ (R450). The active sends module state for resynchronisation. -/
def execTwinSyncReq (c : Ctrl) (recId off len : Nat) (s : State) : Host.Outcome State Fault Refusal :=
  done s (s.hw.syncReq c recId off len)

/-- TWIN_SYNC_DATA (R450). The standby applies received state at the following tick. -/
def execTwinSyncData (c : Ctrl) (recId off len : Nat) (data : List Byte) (last : Bool)
    (s : State) : Host.Outcome State Fault Refusal :=
  done s (s.hw.syncData c recId off len data last)

end Sys2Proof.Machine
end

