-- ==== Sys2Proof/Machine/XbarCmds.lean ====
section
/-! DEFINITION. The crossbar, its arbiters and the remote windows (R288–R307, R316). One meaning for each command. -/

namespace Sys2Proof.Machine

/-- XBAR_BURST_REQUEST (R291). A master issues a burst, which is divided into pieces and requested at the
arbiters. -/
def execXbarBurstRequest (m : Fin 25) (write lock unlock : Bool) (addr : Word) (beats : Nat) (data : List Byte)
    (s : State) : Host.Outcome State Fault Refusal :=
  done s (Hw.remoteSend 4 (s.hw.burstRequest m.val write lock unlock addr.toNat beats data))

/-- XBAR_PIECE_GRANT (R299). An arbiter grants a waiting piece by priority, round-robin, guard or parking. -/
def execXbarPieceGrant (t : Fin 51) (s : State) : Host.Outcome State Fault Refusal :=
  done s (Hw.remoteSend 4 (s.hw.pieceGrant t.val))

/-- XBAR_PIECE_RESPONSE (R292). A piece completes with its response attributes, or ends with an error response. -/
def execXbarPieceResponse (t : Fin 51) (ecc : Option Bool) (s : State) : Host.Outcome State Fault Refusal :=
  doneIf s (s.hw.pieceResponse t.val ecc)

/-- LOCK_BREAK (R303). The unlock piece is not granted within 64 cycles, and the arbiter breaks the lock. -/
def execLockBreak (t : Fin 51) (s : State) : Host.Outcome State Fault Refusal :=
  done s (s.hw.lockBreak t.val)

/-- LOCK_RETRY (R304). A refused lock request is retried after its back-off. -/
def execLockRetry (t : Fin 51) (m : Fin 25) (s : State) : Host.Outcome State Fault Refusal :=
  done s (s.hw.lockRetry t.val m.val)

/-- LOCK_WAIT_EXPIRE (R304). A lock request reaches the wait limit and ends with nolock. -/
def execLockWaitExpire (t : Fin 51) (m : Fin 25) (s : State) : Host.Outcome State Fault Refusal :=
  done s (s.hw.lockWaitExpire t.val m.val)

/-- MASTER_RESET_DURING_BURST (R307). A master is reset or fenced; its pieces are finished safely and its locks
are torn. -/
def execMasterResetDuringBurst (m : Fin 25) (s : State) : Host.Outcome State Fault Refusal :=
  done s (s.hw.masterReset m.val)

/-- WINDOW_TIMEOUT (R296). A remote piece has no answer within tmo and ends with an error response. -/
def execWindowTimeout (w : Fin 16) (tag : Nat) (s : State) : Host.Outcome State Fault Refusal :=
  done s (Hw.remoteSend 4 (s.hw.windowTimeout w.val tag))

/-- WIN_STAT_CLEAR (R316). XBAR_WIN_STAT.clr resets max_cyc. -/
def execWinStatClear (w : Fin 16) (s : State) : Host.Outcome State Fault Refusal :=
  done s (s.hw.winStatClear w.val)

end Sys2Proof.Machine
end

