-- ==== Sys2Proof/Machine/Dispatch.lean ====
section
/-! DEFINITION. The dispatch: one arm for each command. -/

namespace Sys2Proof.Machine

/-- The effect of a command on everything but the queue. -/
def exec (i : Instr) (s : State) : Host.Outcome State Fault Refusal :=
  match i with
  | .powerOn => Sys2Proof.Machine.execPowerOn s
  | .resetPin => Sys2Proof.Machine.execResetPin s
  | .resetRelease straps pufOk => Sys2Proof.Machine.execResetRelease straps pufOk s
  | .sillPowerReset => Sys2Proof.Machine.execSillPowerReset s
  | .bootReady => Sys2Proof.Machine.execBootReady s
  | .bootChunk => Sys2Proof.Machine.execBootChunk s
  | .flitReceive crcOk flit => Sys2Proof.Machine.execFlitReceive crcOk flit s
  | .bridgeDown => Sys2Proof.Machine.execBridgeDown s
  | .keepAliveFlit => Sys2Proof.Machine.execKeepAliveFlit s
  | .sillSafeState => Sys2Proof.Machine.execSillSafeState s
  | .sillSafeExit => Sys2Proof.Machine.execSillSafeExit s
  | .muteNEdge level => Sys2Proof.Machine.execMuteNEdge level s
  | .hostMute value => Sys2Proof.Machine.execHostMute value s
  | .ampOffNEdge level => Sys2Proof.Machine.execAmpOffNEdge level s
  | .ampMasterEn value => Sys2Proof.Machine.execAmpMasterEn value s
  | .blockTick eccs => Sys2Proof.Machine.execBlockTick eccs s
  | .taskStart core => Sys2Proof.Machine.execTaskStart core s
  | .joinEntryStart => Sys2Proof.Machine.execJoinEntryStart s
  | .taskBudget core => Sys2Proof.Machine.execTaskBudget core s
  | .blockAdmit kitty port frameOk pkt => Sys2Proof.Machine.execBlockAdmit kitty port frameOk pkt s
  | .streamResync kitty => Sys2Proof.Machine.execStreamResync kitty s
  | .specConfirm kitty port n => Sys2Proof.Machine.execSpecConfirm kitty port n s
  | .specSquash kitty port n check => Sys2Proof.Machine.execSpecSquash kitty port n check s
  | .specExitDeadline => Sys2Proof.Machine.execSpecExitDeadline s
  | .kittyRelease kitty => Sys2Proof.Machine.execKittyRelease kitty s
  | .streamSilent kitty => Sys2Proof.Machine.execStreamSilent kitty s
  | .traceFreeze => Sys2Proof.Machine.execTraceFreeze s
  | .servoStatusRecord => Sys2Proof.Machine.execServoStatusRecord s
  | .trussLoad core m ecc => Sys2Proof.Machine.execTrussLoad core m ecc s
  | .trussStore core m => Sys2Proof.Machine.execTrussStore core m s
  | .farLoadReturn core v err => Sys2Proof.Machine.execFarLoadReturn core v err s
  | .immBundle core dest imm => Sys2Proof.Machine.execImmBundle core dest imm s
  | .mpy core x => Sys2Proof.Machine.execMpy core x s
  | .mac core x => Sys2Proof.Machine.execMac core x s
  | .msu core x => Sys2Proof.Machine.execMsu core x s
  | .fma core x => Sys2Proof.Machine.execFma core x s
  | .fmpy core x => Sys2Proof.Machine.execFmpy core x s
  | .ext core x => Sys2Proof.Machine.execExt core x s
  | .ald core x => Sys2Proof.Machine.execAld core x s
  | .add core x => Sys2Proof.Machine.execAdd core x s
  | .sub core x => Sys2Proof.Machine.execSub core x s
  | .and core x => Sys2Proof.Machine.execAnd core x s
  | .or core x => Sys2Proof.Machine.execOr core x s
  | .xor core x => Sys2Proof.Machine.execXor core x s
  | .abs core x => Sys2Proof.Machine.execAbs core x s
  | .neg core x => Sys2Proof.Machine.execNeg core x s
  | .min core x => Sys2Proof.Machine.execMin core x s
  | .max core x => Sys2Proof.Machine.execMax core x s
  | .shl core x => Sys2Proof.Machine.execShl core x s
  | .shra core x => Sys2Proof.Machine.execShra core x s
  | .shrl core x => Sys2Proof.Machine.execShrl core x s
  | .cmp core x => Sys2Proof.Machine.execCmp core x s
  | .fadd core x => Sys2Proof.Machine.execFadd core x s
  | .fsub core x => Sys2Proof.Machine.execFsub core x s
  | .fmul core x => Sys2Proof.Machine.execFmul core x s
  | .fmin core x => Sys2Proof.Machine.execFmin core x s
  | .fmax core x => Sys2Proof.Machine.execFmax core x s
  | .cvt core x => Sys2Proof.Machine.execCvt core x s
  | .bexp core x => Sys2Proof.Machine.execBexp core x s
  | .bexpa core x => Sys2Proof.Machine.execBexpa core x s
  | .acc core x => Sys2Proof.Machine.execAcc core x s
  | .fma3 core x => Sys2Proof.Machine.execFma3 core x s
  | .macx core x => Sys2Proof.Machine.execMacx core x s
  | .sel core x => Sys2Proof.Machine.execSel core x s
  | .maxi core x => Sys2Proof.Machine.execMaxi core x s
  | .mini core x => Sys2Proof.Machine.execMini core x s
  | .shuf core x => Sys2Proof.Machine.execShuf core x s
  | .red core x => Sys2Proof.Machine.execRed core x s
  | .ldi core x => Sys2Proof.Machine.execLdi core x s
  | .ldih core x => Sys2Proof.Machine.execLdih core x s
  | .fromp core x => Sys2Proof.Machine.execFromp core x s
  | .b core cond n target => Sys2Proof.Machine.execB core cond n target s
  | .loop core src count off => Sys2Proof.Machine.execLoop core src count off s
  | .lexit core => Sys2Proof.Machine.execLexit core s
  | .sleep core => Sys2Proof.Machine.execSleep core s
  | .signal core flag => Sys2Proof.Machine.execSignal core flag s
  | .softTrap core => Sys2Proof.Machine.execSoftTrap core s
  | .brk core => Sys2Proof.Machine.execBrk core s
  | .qop core qd qa qb fn hi lo => Sys2Proof.Machine.execQop core qd qa qb fn hi lo s
  | .stw core p => Sys2Proof.Machine.execStw core p s
  | .str core fld p => Sys2Proof.Machine.execStr core fld p s
  | .stclr core flags bexp => Sys2Proof.Machine.execStclr core flags bexp s
  | .padd core pd pa imm => Sys2Proof.Machine.execPadd core pd pa imm s
  | .trussTrap core cause => Sys2Proof.Machine.execTrussTrap core cause s
  | .trussStep core => Sys2Proof.Machine.execTrussStep core s
  | .trussHaltReq core halt => Sys2Proof.Machine.execTrussHaltReq core halt s
  | .trussTlSwap core => Sys2Proof.Machine.execTrussTlSwap core s
  | .bentFreqChangeReq bent code => Sys2Proof.Machine.execBentFreqChangeReq bent code s
  | .bentPllRetune bent => Sys2Proof.Machine.execBentPllRetune bent s
  | .bentRetuneDone bent => Sys2Proof.Machine.execBentRetuneDone bent s
  | .joinSchedSwap => Sys2Proof.Machine.execJoinSchedSwap s
  | .changePush => Sys2Proof.Machine.execChangePush s
  | .scarfEnd => Sys2Proof.Machine.execScarfEnd s
  | .meterSnapshot => Sys2Proof.Machine.execMeterSnapshot s
  | .hostRead addr words => Sys2Proof.Machine.execHostRead addr words s
  | .hostWrite addr words partialBytes => Sys2Proof.Machine.execHostWrite addr words partialBytes s
  | .hostBadOpcode opcode => Sys2Proof.Machine.execHostBadOpcode opcode s
  | .mbxDoorbell => Sys2Proof.Machine.execMbxDoorbell s
  | .netCmdReceive port ip udp keyId counter tagOk cmd => Sys2Proof.Machine.execNetCmdReceive port ip udp keyId counter tagOk cmd s
  | .netSessionOpen port ip udp msg => Sys2Proof.Machine.execNetSessionOpen port ip udp msg s
  | .commandComplete => Sys2Proof.Machine.execCommandComplete s
  | .mbxTimeout => Sys2Proof.Machine.execMbxTimeout s
  | .sysInfo => Sys2Proof.Machine.execSysInfo s
  | .sysStatus => Sys2Proof.Machine.execSysStatus s
  | .sysReset scope => Sys2Proof.Machine.execSysReset scope s
  | .planLoad offset total => Sys2Proof.Machine.execPlanLoad offset total s
  | .planCheck => Sys2Proof.Machine.execPlanCheck s
  | .planCommit earliest => Sys2Proof.Machine.execPlanCommit earliest s
  | .planMove recId engine core => Sys2Proof.Machine.execPlanMove recId engine core s
  | .dealRead r => Sys2Proof.Machine.execDealRead r s
  | .moduleInfo mtype mver => Sys2Proof.Machine.execModuleInfo mtype mver s
  | .paramSet p cm => Sys2Proof.Machine.execParamSet p cm s
  | .paramGet recId index paramId => Sys2Proof.Machine.execParamGet recId index paramId s
  | .paramSetMulti ps cm => Sys2Proof.Machine.execParamSetMulti ps cm s
  | .coefLoad path bank sets => Sys2Proof.Machine.execCoefLoad path bank sets s
  | .bankSwap recId paths c => Sys2Proof.Machine.execBankSwap recId paths c s
  | .meterSnap r => Sys2Proof.Machine.execMeterSnap r s
  | .meterHold r => Sys2Proof.Machine.execMeterHold r s
  | .meterClear r what => Sys2Proof.Machine.execMeterClear r what s
  | .measRead recId kind r => Sys2Proof.Machine.execMeasRead recId kind r s
  | .timeStatus => Sys2Proof.Machine.execTimeStatus s
  | .timeRetime => Sys2Proof.Machine.execTimeRetime s
  | .clkStatus => Sys2Proof.Machine.execClkStatus s
  | .streamStatus r => Sys2Proof.Machine.execStreamStatus r s
  | .sinkStatus r => Sys2Proof.Machine.execSinkStatus r s
  | .tableStatus => Sys2Proof.Machine.execTableStatus s
  | .tableEnrol en => Sys2Proof.Machine.execTableEnrol en s
  | .twinStatus => Sys2Proof.Machine.execTwinStatus s
  | .twinSwitch => Sys2Proof.Machine.execTwinSwitch s
  | .faultRead => Sys2Proof.Machine.execFaultRead s
  | .faultClear what => Sys2Proof.Machine.execFaultClear what s
  | .traceRead r => Sys2Proof.Machine.execTraceRead r s
  | .traceCollect => Sys2Proof.Machine.execTraceCollect s
  | .traceRelease => Sys2Proof.Machine.execTraceRelease s
  | .traceMark bytes => Sys2Proof.Machine.execTraceMark bytes s
  | .bistRun mode mask force => Sys2Proof.Machine.execBistRun mode mask force s
  | .fwUpdate image => Sys2Proof.Machine.execFwUpdate image s
  | .certRead => Sys2Proof.Machine.execCertRead s
  | .debugChallenge => Sys2Proof.Machine.execDebugChallenge s
  | .debugUnlock pub lifetime sig => Sys2Proof.Machine.execDebugUnlock pub lifetime sig s
  | .regRead addr count => Sys2Proof.Machine.execRegRead addr count s
  | .regWrite addr words => Sys2Proof.Machine.execRegWrite addr words s
  | .ownerKeyProgram pub => Sys2Proof.Machine.execOwnerKeyProgram pub s
  | .netKeySet keyId key => Sys2Proof.Machine.execNetKeySet keyId key s
  | .prepare share => Sys2Proof.Machine.execPrepare share s
  | .ready engine digest => Sys2Proof.Machine.execReady engine digest s
  | .unready engine reason => Sys2Proof.Machine.execUnready engine reason s
  | .prepareDeadline => Sys2Proof.Machine.execPrepareDeadline s
  | .commit number => Sys2Proof.Machine.execCommit number s
  | .abort number => Sys2Proof.Machine.execAbort number s
  | .ack engine stage => Sys2Proof.Machine.execAck engine stage s
  | .prepareTimeout => Sys2Proof.Machine.execPrepareTimeout s
  | .stagePush => Sys2Proof.Machine.execStagePush s
  | .liveRedealWarmEnd => Sys2Proof.Machine.execLiveRedealWarmEnd s
  | .testSeatRotate => Sys2Proof.Machine.execTestSeatRotate s
  | .debugRelock => Sys2Proof.Machine.execDebugRelock s
  | .debugLifetimeEnd => Sys2Proof.Machine.execDebugLifetimeEnd s
  | .pinmuxWrite ball value => Sys2Proof.Machine.execPinmuxWrite ball value s
  | .registerWrite m size addr value => Sys2Proof.Machine.execRegisterWrite m size addr value s
  | .regAccessTimeout m addr write => Sys2Proof.Machine.execRegAccessTimeout m addr write s
  | .xbarBurstRequest m write lock unlock addr beats data => Sys2Proof.Machine.execXbarBurstRequest m write lock unlock addr beats data s
  | .xbarPieceGrant t => Sys2Proof.Machine.execXbarPieceGrant t s
  | .xbarPieceResponse t ecc => Sys2Proof.Machine.execXbarPieceResponse t ecc s
  | .lockBreak t => Sys2Proof.Machine.execLockBreak t s
  | .lockRetry t m => Sys2Proof.Machine.execLockRetry t m s
  | .lockWaitExpire t m => Sys2Proof.Machine.execLockWaitExpire t m s
  | .masterResetDuringBurst m => Sys2Proof.Machine.execMasterResetDuringBurst m s
  | .windowTimeout w tag => Sys2Proof.Machine.execWindowTimeout w tag s
  | .winStatClear w => Sys2Proof.Machine.execWinStatClear w s
  | .dmaChEnable c m value => Sys2Proof.Machine.execDmaChEnable c m value s
  | .dmaDoorbell c => Sys2Proof.Machine.execDmaDoorbell c s
  | .dmaDescFetch c err => Sys2Proof.Machine.execDmaDescFetch c err s
  | .dmaDescComplete c outcome torn broken ecc => Sys2Proof.Machine.execDmaDescComplete c outcome torn broken ecc s
  | .dmaAbort c => Sys2Proof.Machine.execDmaAbort c s
  | .netFrameReceive port f => Sys2Proof.Machine.execNetFrameReceive port f s
  | .netLinkDown port => Sys2Proof.Machine.execNetLinkDown port s
  | .txEnqueue port q launch len => Sys2Proof.Machine.execTxEnqueue port q launch len s
  | .txFrameStart port => Sys2Proof.Machine.execTxFrameStart port s
  | .slotCycleStart port => Sys2Proof.Machine.execSlotCycleStart port s
  | .slotSwapReq port => Sys2Proof.Machine.execSlotSwapReq port s
  | .ptpMessage port msg => Sys2Proof.Machine.execPtpMessage port msg s
  | .ptpAnnounceTimeout port => Sys2Proof.Machine.execPtpAnnounceTimeout port s
  | .servoMeasurement ns => Sys2Proof.Machine.execServoMeasurement ns s
  | .servoMeasTimeout => Sys2Proof.Machine.execServoMeasTimeout s
  | .servoHold hold => Sys2Proof.Machine.execServoHold hold s
  | .servoEnable en => Sys2Proof.Machine.execServoEnable en s
  | .retimeStep => Sys2Proof.Machine.execRetimeStep s
  | .retimeFlush => Sys2Proof.Machine.execRetimeFlush s
  | .retimeEnd => Sys2Proof.Machine.execRetimeEnd s
  | .timerArm ix value => Sys2Proof.Machine.execTimerArm ix value s
  | .eventTimerFire ix => Sys2Proof.Machine.execEventTimerFire ix s
  | .captureEdge j rise => Sys2Proof.Machine.execCaptureEdge j rise s
  | .capturePop j => Sys2Proof.Machine.execCapturePop j s
  | .laneStateReq n state => Sys2Proof.Machine.execLaneStateReq n state s
  | .laneStateDone n => Sys2Proof.Machine.execLaneStateDone n s
  | .laneEqSweepDone n errFree => Sys2Proof.Machine.execLaneEqSweepDone n errFree s
  | .gnogoLinkEnable k value => Sys2Proof.Machine.execGnogoLinkEnable k value s
  | .train l engineId linkIdx receivedOk => Sys2Proof.Machine.execTrain l engineId linkIdx receivedOk s
  | .trainSend k => Sys2Proof.Machine.execTrainSend k s
  | .gnogoLinkDown k => Sys2Proof.Machine.execGnogoLinkDown k s
  | .gnogoBlock l dst hops brizu => Sys2Proof.Machine.execGnogoBlock l dst hops brizu s
  | .wreq l dst src tag beats off => Sys2Proof.Machine.execWreq l dst src tag beats off s
  | .wrsp l dst src tag err data => Sys2Proof.Machine.execWrsp l dst src tag err data s
  | .credit l vc0 vc1 vc2 => Sys2Proof.Machine.execCredit l vc0 vc1 vc2 s
  | .gnogoCreditSend k => Sys2Proof.Machine.execGnogoCreditSend k s
  | .nak l expected => Sys2Proof.Machine.execNak l expected s
  | .gnogoRetransmitTimeout k => Sys2Proof.Machine.execGnogoRetransmitTimeout k s
  | .ldm l reply t1 t2 t3 => Sys2Proof.Machine.execLdm l reply t1 t2 t3 s
  | .ldmRequestSend k => Sys2Proof.Machine.execLdmRequestSend k s
  | .topo c links => Sys2Proof.Machine.execTopo c links s
  | .topoSend => Sys2Proof.Machine.execTopoSend s
  | .proedCmd c cmd => Sys2Proof.Machine.execProedCmd c cmd s
  | .proedRsp c status seq => Sys2Proof.Machine.execProedRsp c status seq s
  | .staleRole c role twin epoch mtype counter => Sys2Proof.Machine.execStaleRole c role twin epoch mtype counter s
  | .tableBeatSend => Sys2Proof.Machine.execTableBeatSend s
  | .tableBeat c => Sys2Proof.Machine.execTableBeat c s
  | .beatAck c sysState deal digest => Sys2Proof.Machine.execBeatAck c sysState deal digest s
  | .tableFreeze => Sys2Proof.Machine.execTableFreeze s
  | .beatAckTimeout engine => Sys2Proof.Machine.execBeatAckTimeout engine s
  | .healthPoll c => Sys2Proof.Machine.execHealthPoll c s
  | .healthRsp c => Sys2Proof.Machine.execHealthRsp c s
  | .healthPollTimeout engine => Sys2Proof.Machine.execHealthPollTimeout engine s
  | .faultReport c subject cls stream count t64 => Sys2Proof.Machine.execFaultReport c subject cls stream count t64 s
  | .reportWindowClose subject cls stream => Sys2Proof.Machine.execReportWindowClose subject cls stream s
  | .causeSummarySend => Sys2Proof.Machine.execCauseSummarySend s
  | .causeSummary c cause => Sys2Proof.Machine.execCauseSummary c cause s
  | .traceReq c => Sys2Proof.Machine.execTraceReq c s
  | .traceData c records => Sys2Proof.Machine.execTraceData c records s
  | .announce link id => Sys2Proof.Machine.execAnnounce link id s
  | .announceSend => Sys2Proof.Machine.execAnnounceSend s
  | .houseElectionTimeout => Sys2Proof.Machine.execHouseElectionTimeout s
  | .houseBeat link id => Sys2Proof.Machine.execHouseBeat link id s
  | .houseBeatSend => Sys2Proof.Machine.execHouseBeatSend s
  | .tableWithdrawEnd => Sys2Proof.Machine.execTableWithdrawEnd s
  | .enrolHello link m => Sys2Proof.Machine.execEnrolHello link m s
  | .enrolReply link m => Sys2Proof.Machine.execEnrolReply link m s
  | .enrolFinish link sig seat tableIdx keyId key => Sys2Proof.Machine.execEnrolFinish link sig seat tableIdx keyId key s
  | .enrolDone link tagOk => Sys2Proof.Machine.execEnrolDone link tagOk s
  | .enrolTimeout link => Sys2Proof.Machine.execEnrolTimeout link s
  | .peerSeen c linkIdx => Sys2Proof.Machine.execPeerSeen c linkIdx s
  | .imageReq c => Sys2Proof.Machine.execImageReq c s
  | .imageData off bytes => Sys2Proof.Machine.execImageData off bytes s
  | .gnogoLoadRetry => Sys2Proof.Machine.execGnogoLoadRetry s
  | .tableKeyRotate => Sys2Proof.Machine.execTableKeyRotate s
  | .tableKeyActivate => Sys2Proof.Machine.execTableKeyActivate s
  | .sapEnable n value => Sys2Proof.Machine.execSapEnable n value s
  | .sapFrame n edge valid slots => Sys2Proof.Machine.execSapFrame n edge valid slots s
  | .sapClkStop n => Sys2Proof.Machine.execSapClkStop n s
  | .sapRateChange n rate => Sys2Proof.Machine.execSapRateChange n rate s
  | .sapSlotSwap n => Sys2Proof.Machine.execSapSlotSwap n s
  | .sapGroupArm g => Sys2Proof.Machine.execSapGroupArm g s
  | .sapGroupStart g => Sys2Proof.Machine.execSapGroupStart g s
  | .aesRxFrame ix edge z par1 par2 v1 v2 c1 c2 u1 u2 s1 s2 => Sys2Proof.Machine.execAesRxFrame ix edge z par1 par2 v1 v2 c1 c2 u1 u2 s1 s2 s
  | .aesRxBlock ix => Sys2Proof.Machine.execAesRxBlock ix s
  | .aesClkStop ix => Sys2Proof.Machine.execAesClkStop ix s
  | .aesTxFrame j => Sys2Proof.Machine.execAesTxFrame j s
  | .aesTxCsSwap j => Sys2Proof.Machine.execAesTxCsSwap j s
  | .asrcEnable c value => Sys2Proof.Machine.execAsrcEnable c value s
  | .asrcLock c ratio => Sys2Proof.Machine.execAsrcLock c ratio s
  | .asrcRange c ratio => Sys2Proof.Machine.execAsrcRange c ratio s
  | .refMeasure refs => Sys2Proof.Machine.execRefMeasure refs s
  | .refLost r => Sys2Proof.Machine.execRefLost r s
  | .refWtrExpire r => Sys2Proof.Machine.execRefWtrExpire r s
  | .refDwellEnd => Sys2Proof.Machine.execRefDwellEnd s
  | .refSwitchComplete theta => Sys2Proof.Machine.execRefSwitchComplete theta s
  | .holdoverLimit => Sys2Proof.Machine.execHoldoverLimit s
  | .dpllUnlock => Sys2Proof.Machine.execDpllUnlock s
  | .clkSelectorEnable en => Sys2Proof.Machine.execClkSelectorEnable en s
  | .clkOpenLoop isOpen => Sys2Proof.Machine.execClkOpenLoop isOpen s
  | .clkForce en r => Sys2Proof.Machine.execClkForce en r s
  | .ampChannelEnable c value => Sys2Proof.Machine.execAmpChannelEnable c value s
  | .ampStart c => Sys2Proof.Machine.execAmpStart c s
  | .ampOpenLoopHoldEnd c => Sys2Proof.Machine.execAmpOpenLoopHoldEnd c s
  | .ampCloseLoop c => Sys2Proof.Machine.execAmpCloseLoop c s
  | .ampFadeInEnd c => Sys2Proof.Machine.execAmpFadeInEnd c s
  | .ampStop c => Sys2Proof.Machine.execAmpStop c s
  | .ampStopFadeEnd c => Sys2Proof.Machine.execAmpStopFadeEnd c s
  | .ampGatesOff c => Sys2Proof.Machine.execAmpGatesOff c s
  | .ampTrip c => Sys2Proof.Machine.execAmpTrip c s
  | .ampDriverFault c => Sys2Proof.Machine.execAmpDriverFault c s
  | .ampDcTrip c => Sys2Proof.Machine.execAmpDcTrip c s
  | .ampRetry c => Sys2Proof.Machine.execAmpRetry c s
  | .ampUnlatch c => Sys2Proof.Machine.execAmpUnlatch c s
  | .boostOvp g => Sys2Proof.Machine.execBoostOvp g s
  | .boostTrack g => Sys2Proof.Machine.execBoostTrack g s
  | .boostThermWarn g => Sys2Proof.Machine.execBoostThermWarn g s
  | .boostThermTrip g => Sys2Proof.Machine.execBoostThermTrip g s
  | .twinPeerPin act health => Sys2Proof.Machine.execTwinPeerPin act health s
  | .healthFall => Sys2Proof.Machine.execHealthFall s
  | .twinClaim => Sys2Proof.Machine.execTwinClaim s
  | .twinGateHoldEnd => Sys2Proof.Machine.execTwinGateHoldEnd s
  | .twinBeat c b => Sys2Proof.Machine.execTwinBeat c b s
  | .twinBeatTimeout => Sys2Proof.Machine.execTwinBeatTimeout s
  | .twinTakeover => Sys2Proof.Machine.execTwinTakeover s
  | .twinHealth c h => Sys2Proof.Machine.execTwinHealth c h s
  | .twinHealthSend => Sys2Proof.Machine.execTwinHealthSend s
  | .twinYield c tick cause => Sys2Proof.Machine.execTwinYield c tick cause s
  | .twinSwitchReq c sq => Sys2Proof.Machine.execTwinSwitchReq c sq s
  | .twinSwitchAck c sq => Sys2Proof.Machine.execTwinSwitchAck c sq s
  | .twinSwitchAtTick => Sys2Proof.Machine.execTwinSwitchAtTick s
  | .twinSyncReq c recId off len => Sys2Proof.Machine.execTwinSyncReq c recId off len s
  | .twinSyncData c recId off len data last => Sys2Proof.Machine.execTwinSyncData c recId off len data last s
  | .faultEvent source code context => Sys2Proof.Machine.execFaultEvent source code context s
  | .shadowWindowClose r => Sys2Proof.Machine.execShadowWindowClose r s
  | .quietPeriodEnd conditionsClear boostOk => Sys2Proof.Machine.execQuietPeriodEnd conditionsClear boostOk s
  | .recoveryTestDone core pass => Sys2Proof.Machine.execRecoveryTestDone core pass s
  | .scrubPeriodEnd complete => Sys2Proof.Machine.execScrubPeriodEnd complete s
  | .watchdogExpire peg => Sys2Proof.Machine.execWatchdogExpire peg s
  | .avsSample bent low high fault => Sys2Proof.Machine.execAvsSample bent low high fault s
  | .avsVoutCheck bent mv fault => Sys2Proof.Machine.execAvsVoutCheck bent mv fault s
  | .bentAvs bent => Sys2Proof.Machine.execBentAvs bent s
  | .monSupply rail mv => Sys2Proof.Machine.execMonSupply rail mv s
  | .monTj t16 => Sys2Proof.Machine.execMonTj t16 s
  | .ageingMeasure loss => Sys2Proof.Machine.execAgeingMeasure loss s
  | .ageingMeasureNow loss => Sys2Proof.Machine.execAgeingMeasureNow loss s
  | .bistStart m mode => Sys2Proof.Machine.execBistStart m mode s
  | .bistDone items aborted => Sys2Proof.Machine.execBistDone items aborted s
  | .bypass => Sys2Proof.Machine.execBypass s
  | .idcode => Sys2Proof.Machine.execIdcode s
  | .samplePreload cells => Sys2Proof.Machine.execSamplePreload cells s
  | .extest => Sys2Proof.Machine.execExtest s
  | .clamp => Sys2Proof.Machine.execClamp s
  | .highz => Sys2Proof.Machine.execHighz s
  | .tapBistAccess write off value => Sys2Proof.Machine.execTapBistAccess write off value s
  | .tapEngineReset => Sys2Proof.Machine.execTapEngineReset s
  | .trstNReset => Sys2Proof.Machine.execTrstNReset s
  | .powerFail => Sys2Proof.Machine.execPowerFail s
  | .sillResetRelease => Sys2Proof.Machine.execSillResetRelease s
  | .blockLockRegain n fec => Sys2Proof.Machine.execBlockLockRegain n fec s
  | .dpllLock => Sys2Proof.Machine.execDpllLock s
  | .boostOvpRelease g => Sys2Proof.Machine.execBoostOvpRelease g s
  | .boostThermClear g => Sys2Proof.Machine.execBoostThermClear g s
  | .ptpMessageSend port kind => Sys2Proof.Machine.execPtpMessageSend port kind s
  | .pairwiseRekey engine => Sys2Proof.Machine.execPairwiseRekey engine s
  | .prbsSync n gained errs => Sys2Proof.Machine.execPrbsSync n gained errs s

end Sys2Proof.Machine
end

