-- ==== Sys2Proof/Safety.lean ====
section
/-! DEFINITION. The terms in which claims about runs are made: a quiet state, the invariant that the output pins follow
the registers, and the canonical form of the memories. -/

namespace Sys2Proof.Machine

/-- Nothing that waits on T64 is due: no retune of a bent has outlasted its 5 µs, no mute fade of an amplifier has ended
while its DAC still holds a sample, and no health poll is due. -/
def Hw.nothingDue (h : Hw) : Bool :=
  (List.range 2).all (fun b => (h.rail b).retune.all (fun t => decide (h.t64 ≤ t + 5000)))
    && h.sill.amps.all (fun e => !e.2.mute.muting || (e.2.dac = 0 && decide (muteF h.fs ≤ e.2.mute.pos))
        || decide (h.t64 < e.2.muteAt + ceilDiv (muteF h.fs * 1000000000) h.fs))
    && h.table.members.all (fun m => m.pollDue.all (fun t => decide (h.t64 < t)))

/-- No fault event waits, no link is held down by a reaction, no self-test waits for a twin that diverged, and nothing is
due: the end of a command that raises nothing then changes nothing but the output pins. -/
def Hw.quiet (h : Hw) : Bool :=
  h.flt.queue.isEmpty && h.flt.holds.isEmpty && h.twin.diverged = 0 && h.nothingDue

/-- Quiet whatever T64 is: no retune runs, no amplifier is muted and no health poll waits. -/
def Hw.still (h : Hw) : Bool :=
  h.quiet && (List.range 2).all (fun b => (h.rail b).retune.isNone) && h.sill.amps.all (fun e => !e.2.mute.muting)
    && h.table.members.all (fun m => m.pollDue.isNone)

/-- The output pins stand at the levels that the registers and units give them (R238, R240, R419, R474, R493). -/
def State.pinsFollow (s : State) : Prop := s.hw.outs = s.hw.levels

/-- The memories are in canonical form. -/
def Hw.storesOk (h : Hw) : Bool := Memory.wf h.mem && Tab.wf 0xFF h.flash && Tab.wf 0 h.otp

/-- No register write that a truss core posted is left over from an earlier command. -/
def State.nonePosted (s : State) : Prop := s.hw.posted = []

/-- Core n executes bundles outside any task and loop, with no load pending. -/
def Hw.bare (h : Hw) (n : Nat) : Bool :=
  let c := h.core n
  !c.trapped && !c.halted && !c.gated && c.pend.isEmpty && c.entry.isNone && c.loops.isEmpty

/-- Core n holds the registers of c and has executed one bundle more. -/
def Hw.ran (h : Hw) (n : Nat) (c : Truss) : Hw :=
  h.setCore n { c with pc := (c.pc + 1) % 16384, cycles := c.cycles + 1 }

/-- The byte address at which lane i of core n stores a word to address a of a space, where that is memory (R63, R73, R275). -/
def Hw.storePlace (h : Hw) (n : Nat) (sp : Space) (i a : Nat) : Option Nat :=
  if sp = .far then
    match h.place n false a with
    | .mem b => some b
    | _ => none
  else some (spaceByte n sp i a)

/-- The command of an E operation (R127). -/
def eInstr (n : Fin 10) (x : EArgs) : EKind → Instr
  | .mpy => .mpy n x
  | .mac => .mac n x
  | .msu => .msu n x
  | .fma => .fma n x
  | .fmpy => .fmpy n x
  | .ext => .ext n x
  | .ald => .ald n x
  | .add => .add n x
  | .sub => .sub n x
  | .and => .and n x
  | .or => .or n x
  | .xor => .xor n x
  | .abs => .abs n x
  | .neg => .neg n x
  | .min => .min n x
  | .max => .max n x
  | .shl => .shl n x
  | .shra => .shra n x
  | .shrl => .shrl n x
  | .cmp => .cmp n x
  | .fadd => .fadd n x
  | .fsub => .fsub n x
  | .fmul => .fmul n x
  | .fmin => .fmin n x
  | .fmax => .fmax n x
  | .cvt => .cvt n x
  | .bexp => .bexp n x
  | .bexpa => .bexpa n x
  | .acc => .acc n x

/-- The command of an operation that only the EW slot has (R128). -/
def wInstr (n : Fin 10) (x : EWArgs) : WKind → Instr
  | .fma3 => .fma3 n x
  | .macx => .macx n x
  | .sel => .sel n x
  | .maxi => .maxi n x
  | .mini => .mini n x
  | .shuf => .shuf n x
  | .red => .red n x
  | .ldi => .ldi n x
  | .ldih => .ldih n x
  | .fromp => .fromp n x

end Sys2Proof.Machine
end

