-- ==== Sys2Proof/WellFormed.lean ====
section
/-! DEFINITION. Well-formed commands: operands within the fields that the manual gives them. -/

namespace Sys2Proof

/-- A value fits in n bits. -/
def u (n v : Nat) : Bool := decide (v < 2 ^ n)

/-- Bridge readings are 16-bit fields of AMP_MEAS and BOOST_VMEAS (R439, R440). -/
def flitOk (f : Flit) : Bool :=
  match f with
  | .senseAmp _ ipk _ => u 16 ipk
  | .senseBoost _ rail vin => u 16 rail && u 16 vin
  | _ => true

/-- RANGE (R251): two 32-bit words. -/
def rangeOk (r : Range) : Bool := u 32 r.first && u 32 r.count

/-- COMMIT (R251, R162): a T64 and a scarf length of at most 1,024. -/
def commitOk (c : CommitAt) : Bool := u 64 c.t64 && c.len ≤ 1024

/-- TARGET and PARAM (R251, R261). -/
def paramOk (p : ParamArg) : Bool := u 32 p.recId && u 16 p.index && 1 ≤ p.value.length && p.value.length ≤ 256

/-- A command header and body (R249). -/
def cmdFits (c : Cmd) : Bool := u 8 c.tagLen && c.body.length ≤ 8192

/-- A share (R201, R219, R223): deal number, switch T64, at most 16 stages, and kitties of 4 to 64 slots (R32). -/
def shareOk (x : Share) : Bool :=
  u 32 x.number && u 64 x.switchAt && x.stages.length ≤ 16
    && x.inKitties.all (fun e => 4 ≤ e.2.depth && e.2.depth ≤ 64)
    && x.outKitties.all (fun e => 4 ≤ e.2.depth && e.2.depth ≤ 64)

/-- A cause record (R379): an engine ID, a class, a count and two T64 values. -/
def causeOk (x : Cause) : Bool := u 16 x.subject && u 8 x.cls && u 32 x.count && u 64 x.first && u 64 x.last && x.state ≤ 2

/-- A command is well formed. -/
def wellFormed (i : Instr) : Bool :=
  match i with
  | .flitReceive _ f => flitOk f
  | .netCmdReceive _ _ p _ _ _ c => u 16 p && cmdFits c
  | .netSessionOpen _ _ p _ => u 16 p
  | .sysReset scope => u 8 scope
  | .planLoad off total => u 32 off && u 32 total
  | .planCommit t => t.all (u 64)
  | .planMove r e _ => u 32 r && u 16 e
  | .dealRead r => rangeOk r
  | .moduleInfo t v => u 16 t && u 16 v
  | .paramSet p c => paramOk p && c.all commitOk
  | .paramGet r i _ => u 32 r && u 16 i
  | .paramSetMulti ps c => 1 ≤ ps.length && ps.length ≤ 64 && ps.all paramOk && c.all commitOk
  | .coefLoad p _ ss => u 32 p && 1 ≤ ss.length && ss.length ≤ 3 && ss.all (fun x => x.length ≤ 4096)
  | .bankSwap r p c => u 32 r && rangeOk p && commitOk c
  | .meterSnap r => rangeOk r && r.count ≤ 2048
  | .meterHold r => rangeOk r
  | .meterClear r _ => rangeOk r
  | .measRead i k r => u 32 i && u 8 k && rangeOk r
  | .streamStatus r => rangeOk r
  | .sinkStatus r => rangeOk r
  | .tableEnrol e => e.seats.all (fun x => 1 ≤ x.1 && x.1 ≤ 31 && x.2.length = 16)
  | .traceRead r => rangeOk r
  | .traceMark b => b.length = 16
  | .bistRun m _ f => u 8 m && u 8 f
  | .fwUpdate b => b.length ≤ 0x3FF000
  | .debugUnlock p t g => p.length = 64 && u 32 t && g.length = 64
  | .regRead _ n => 1 ≤ n && n ≤ 256
  | .regWrite _ w => 1 ≤ w.length && w.length ≤ 256
  | .ownerKeyProgram p => p.length = 64
  | .netKeySet _ k => k.length = 16
  | .prepare x => shareOk x
  | .ready e _ => u 16 e
  | .unready e r => u 16 e && u 16 r
  | .commit n => u 32 n
  | .abort n => u 32 n
  | .ack e g => u 16 e && g < 16
  | .xbarBurstRequest _ w _ _ _ n d => 1 ≤ n && (!w || 1 ≤ d.length)
  | .txEnqueue _ _ t n => u 64 t && 64 ≤ n && n ≤ 9216
  | .gnogoBlock _ d n _ => u 16 d && u 8 n
  | .wreq _ d a t _ o => u 16 d && u 16 a && u 32 t && u 32 o
  | .wrsp _ d a t _ _ => u 16 d && u 16 a && u 32 t
  | .credit _ a b c => u 16 a && u 16 b && u 16 c
  | .causeSummary _ x => causeOk x
  | .ldm _ _ a b c => u 80 a && u 80 b && u 80 c
  | .proedCmd _ c => cmdFits c
  | .enrolFinish _ g k _ _ y => g.length = 64 && k ≤ 31 && y.length = 16
  | .imageData o b => u 32 o && b.length ≤ 65536
  | .sapFrame _ t _ l => u 64 t && l.length ≤ 32
  | .aesRxFrame _ t _ _ _ _ _ _ _ _ _ _ _ => u 64 t
  | .refMeasure l => l.length ≤ 15
  | .bistDone l _ => l.all (fun x => x.index < 32)
  | .powerOn | .resetPin | .resetRelease _ _ | .sillPowerReset | .bootReady | .bootChunk | .bridgeDown |
    .keepAliveFlit | .sillSafeState | .sillSafeExit | .muteNEdge _ | .hostMute _ | .ampOffNEdge _ | .ampMasterEn _ |
    .blockTick _ | .taskStart _ | .joinEntryStart | .taskBudget _ | .blockAdmit _ _ _ _ | .streamResync _ |
    .specConfirm _ _ _ | .specSquash _ _ _ _ | .specExitDeadline | .kittyRelease _ | .streamSilent _ | .traceFreeze |
    .servoStatusRecord | .trussLoad _ _ _ | .trussStore _ _ | .farLoadReturn _ _ _ | .immBundle _ _ _ | .mpy _ _ |
    .mac _ _ | .msu _ _ | .fma _ _ | .fmpy _ _ | .ext _ _ | .ald _ _ | .add _ _ | .sub _ _ | .and _ _ | .or _ _ |
    .xor _ _ | .abs _ _ | .neg _ _ | .min _ _ | .max _ _ | .shl _ _ | .shra _ _ | .shrl _ _ | .cmp _ _ | .fadd _ _ |
    .fsub _ _ | .fmul _ _ | .fmin _ _ | .fmax _ _ | .cvt _ _ | .bexp _ _ | .bexpa _ _ | .acc _ _ | .fma3 _ _ |
    .macx _ _ | .sel _ _ | .maxi _ _ | .mini _ _ | .shuf _ _ | .red _ _ | .ldi _ _ | .ldih _ _ | .fromp _ _ |
    .b _ _ _ _ | .loop _ _ _ _ | .lexit _ | .sleep _ | .signal _ _ | .softTrap _ | .brk _ | .qop _ _ _ _ _ _ _ |
    .stw _ _ | .str _ _ _ | .stclr _ _ _ | .padd _ _ _ _ | .trussTrap _ _ | .trussStep _ | .trussHaltReq _ _ |
    .trussTlSwap _ | .bentFreqChangeReq _ _ | .bentPllRetune _ | .bentRetuneDone _ | .joinSchedSwap | .changePush |
    .scarfEnd | .meterSnapshot | .hostRead _ _ | .hostWrite _ _ _ | .hostBadOpcode _ | .mbxDoorbell |
    .commandComplete | .mbxTimeout | .sysInfo | .sysStatus | .planCheck | .timeStatus | .timeRetime | .clkStatus |
    .tableStatus | .twinStatus | .twinSwitch | .faultRead | .faultClear _ | .traceCollect | .traceRelease |
    .certRead | .debugChallenge | .prepareDeadline | .prepareTimeout | .stagePush | .liveRedealWarmEnd |
    .testSeatRotate | .debugRelock | .debugLifetimeEnd | .pinmuxWrite _ _ | .registerWrite _ _ _ _ |
    .regAccessTimeout _ _ _ | .xbarPieceGrant _ | .xbarPieceResponse _ _ | .lockBreak _ | .lockRetry _ _ |
    .lockWaitExpire _ _ | .masterResetDuringBurst _ | .windowTimeout _ _ | .winStatClear _ | .dmaChEnable _ _ _ |
    .dmaDoorbell _ | .dmaDescFetch _ _ | .dmaDescComplete _ _ _ _ _ | .dmaAbort _ | .netFrameReceive _ _ |
    .netLinkDown _ | .txFrameStart _ | .slotCycleStart _ | .slotSwapReq _ | .ptpMessage _ _ |
    .ptpAnnounceTimeout _ | .servoMeasurement _ | .servoMeasTimeout | .servoHold _ | .servoEnable _ | .retimeStep |
    .retimeFlush | .retimeEnd | .timerArm _ _ | .eventTimerFire _ | .captureEdge _ _ | .capturePop _ |
    .laneStateReq _ _ | .laneStateDone _ | .laneEqSweepDone _ _ | .gnogoLinkEnable _ _ | .train _ _ _ _ |
    .trainSend _ | .gnogoLinkDown _ | .gnogoCreditSend _ | .nak _ _ | .gnogoRetransmitTimeout _ |
    .ldmRequestSend _ | .topo _ _ | .topoSend | .proedRsp _ _ _ | .staleRole _ _ _ _ _ _ | .tableBeatSend |
    .tableBeat _ | .beatAck _ _ _ _ | .tableFreeze | .beatAckTimeout _ | .healthPoll _ | .healthRsp _ |
    .healthPollTimeout _ | .faultReport _ _ _ _ _ _ | .reportWindowClose _ _ _ | .causeSummarySend |
    .traceReq _ | .traceData _ _ | .announce _ _ | .announceSend | .houseElectionTimeout |
    .houseBeat _ _ | .houseBeatSend | .tableWithdrawEnd | .enrolHello _ _ | .enrolReply _ _ | .enrolDone _ _ |
    .enrolTimeout _ | .peerSeen _ _ | .imageReq _ | .gnogoLoadRetry | .tableKeyRotate | .tableKeyActivate |
    .sapEnable _ _ | .sapClkStop _ | .sapRateChange _ _ | .sapSlotSwap _ | .sapGroupArm _ | .sapGroupStart _ |
    .aesRxBlock _ | .aesClkStop _ | .aesTxFrame _ | .aesTxCsSwap _ | .asrcEnable _ _ | .asrcLock _ _ |
    .asrcRange _ _ | .refLost _ | .refWtrExpire _ | .refDwellEnd | .refSwitchComplete _ | .holdoverLimit |
    .dpllUnlock | .clkSelectorEnable _ | .clkOpenLoop _ | .clkForce _ _ | .ampChannelEnable _ _ | .ampStart _ |
    .ampOpenLoopHoldEnd _ | .ampCloseLoop _ | .ampFadeInEnd _ | .ampStop _ | .ampStopFadeEnd _ | .ampGatesOff _ |
    .ampTrip _ | .ampDriverFault _ | .ampDcTrip _ | .ampRetry _ | .ampUnlatch _ | .boostOvp _ | .boostTrack _ |
    .boostThermWarn _ | .boostThermTrip _ | .twinPeerPin _ _ | .healthFall | .twinClaim | .twinGateHoldEnd |
    .twinBeat _ _ | .twinBeatTimeout | .twinTakeover | .twinHealth _ _ | .twinHealthSend | .twinYield _ _ _ |
    .twinSwitchReq _ _ | .twinSwitchAck _ _ | .twinSwitchAtTick | .twinSyncReq _ _ _ _ | .twinSyncData _ _ _ _ _ _ |
    .faultEvent _ _ _ | .shadowWindowClose _ | .quietPeriodEnd _ _ | .recoveryTestDone _ _ | .scrubPeriodEnd _ |
    .watchdogExpire _ | .avsSample _ _ _ _ | .avsVoutCheck _ _ _ | .bentAvs _ | .monSupply _ _ | .monTj _ |
    .ageingMeasure _ | .ageingMeasureNow _ | .bistStart _ _ | .bypass | .idcode | .samplePreload _ | .extest |
    .clamp | .highz | .tapBistAccess _ _ _ | .tapEngineReset | .trstNReset | .powerFail | .sillResetRelease |
    .blockLockRegain _ _ | .dpllLock | .boostOvpRelease _ | .boostThermClear _ | .ptpMessageSend _ _ |
    .pairwiseRekey _ | .prbsSync _ _ _ => true

end Sys2Proof
end

