-- ==== Sys2Proof/Certificates/Slice0/Obligations.lean ====
section
/-! DEFINITION. The statements for the provers. -/

open Sys2Proof Sys2Proof.Machine

/-- A step takes the command at the front of the queue and runs it with the rest. -/
def Obligations.StepFront : Prop :=
  ∀ (c : Instr) (s : State), step { s with pending := c :: s.pending } = exec c s

/-- With no command waiting the step is one 500 MHz cycle, the model's choice (log entry 4): the clock, in units of
2^−48 ns, advances by 2 ns × (1 + rate), and nothing else changes. -/
def Obligations.IdleStep : Prop :=
  ∀ s : State, s.pending = [] → -(2 ^ 40 : Int) ≤ s.hw.time.rate →
    ∃ t, step s = .next t ∧
      ((t.hw.t64 * 2 ^ 48 + t.hw.sub : Nat) : Int)
        = ((s.hw.t64 * 2 ^ 48 + s.hw.sub : Nat) : Int) + 2 * 2 ^ 48 + s.hw.time.rate * 2 ^ 9 ∧
      t.hw.sub < 2 ^ 48 ∧
      t = { s with hw := { s.hw with t64 := t.hw.t64, sub := t.hw.sub } }

/-- Every step keeps the invariant that each output pin stands at the level that the registers and units give it, and
that no posted register write is left over. -/
def Obligations.PinsKept : Prop :=
  ∀ s t : State, s.pinsFollow ∧ s.nonePosted → step s = .next t → t.pinsFollow ∧ t.nonePosted

/-- The invariant holds at reset. -/
def Obligations.PinsAtReset : Prop := State.reset.pinsFollow ∧ State.reset.nonePosted

/-- A step takes one command off the queue and adds none. -/
def Obligations.QueueShrinks : Prop := ∀ s t : State, step s = .next t → t.pending = s.pending.tail

/-- A step stops for one reason alone: a register write that changes a reserved field. No command is refused. -/
def Obligations.OneStop : Prop :=
  ∀ (c : Instr) (s : State), (∃ t, exec c s = .next t) ∨ exec c s = .fault .reservedBitsWritten

/-- After every command the three clock status pins stand as R419 states: all low until CLK_STAT is first updated, then by
CLK_STAT.state; a trace record written in any state but locked is time-uncertain, and one written while locked with the servo
LOCKED is not. -/
def Obligations.ClockPins : Prop :=
  ∀ (c : Instr) (s t : State), exec c s = .next t →
    (t.hw.clk.shown = false →
      t.hw.outs.clkLock = false ∧ t.hw.outs.clkHold = false ∧ t.hw.outs.clkFree = false) ∧
    (t.hw.clk.shown = true →
      (t.hw.outs.clkFree = true ↔ t.hw.g Reg.CLK_STAT_state = 0) ∧
      (t.hw.outs.clkLock = true ↔ t.hw.g Reg.CLK_STAT_state = 2) ∧
      (t.hw.outs.clkHold = true ↔ t.hw.g Reg.CLK_STAT_state ∈ [1, 3, 4, 5])) ∧
    (∀ (ty : Nat) (pl : List Byte) (r : TraceRec), t.hw.ring.postFreeze ≠ 0 →
      (t.hw.trace ty pl).ring.recs.find? t.hw.ring.writeIdx = some r →
      (t.hw.g Reg.CLK_STAT_state ≠ 2 → bitOf r.rflags 1 = true) ∧
      (t.hw.g Reg.CLK_STAT_state = 2 → t.hw.g Reg.TIME_STAT_state = 2 → bitOf r.rflags 1 = false))

/-- After every command FAULT_N is high exactly when MBX_STATUS.ready is 1, SYS_STATE.state is neither degraded nor engine
safe state, and no source with FAULT_CLASS.pin = 1 has its sticky bit set. -/
def Obligations.FaultPin : Prop :=
  ∀ (c : Instr) (s t : State), exec c s = .next t →
    (t.hw.outs.faultN = true ↔
      t.hw.g Reg.MBX_STATUS_ready ≠ 0 ∧ t.hw.g Reg.SYS_STATE_state ≠ 3 ∧ t.hw.g Reg.SYS_STATE_state ≠ 4 ∧
      ∀ k < 8, ∀ j < 32, bitOf (t.hw.g (Reg.FAULT_STICKY_bit k)) j = true →
        t.hw.g (Reg.FAULT_CLASS_pin (32 * k + j)) = 0)

/-- After every command HOST_IRQ_N is low exactly when a bit is set in both HOST_IRQ_STAT and HOST_IRQ_EN. -/
def Obligations.HostIrqPin : Prop :=
  ∀ (c : Instr) (s t : State), exec c s = .next t →
    (t.hw.outs.hostIrqN = false ↔
      ∃ i < 10, t.hw.g ⟨0x400F0020, i, 1, 0⟩ ≠ 0 ∧ t.hw.g ⟨0x400F0024, i, 1, 0⟩ ≠ 0)

/-- After every command in sill safe state, or with EXTEST, CLAMP or HIGHZ in force at the test access port, no amplifier or
boost gate is driven. -/
def Obligations.SafeGates : Prop :=
  ∀ (c : Instr) (s t : State), exec c s = .next t →
    t.hw.sill.safe = true ∨ t.hw.tap.ir = .extest ∨ t.hw.tap.ir = .clamp ∨ t.hw.tap.ir = .highz →
    t.hw.outs.ampGates = [] ∧ t.hw.outs.boostGates = []

/-- A 32-bit write that changes a reserved field of a register stops. -/
def Obligations.ReservedWriteStops : Prop :=
  ∀ (s : State) (m : Master) (a : Word) (v : BitVec 64) (b : Nat),
    a.toNat % 4 = 0 → s.hw.place m.toNat false a.toNat = .reg b → s.hw.rsvBad b (v.toNat % 2 ^ 32) = true →
    exec (.registerWrite m .b32 a v) s = .fault .reservedBitsWritten

/-- A write of 1, 2, 4 or 8 bytes that reaches memory stores exactly those bytes, in little-endian order; every other byte,
every register and the queue stay. -/
def Obligations.MemoryWrite : Prop :=
  ∀ (s : State) (m : Master) (size : Size) (a : Word) (v : BitVec 64) (n b : Nat),
    (size = .b8 ∧ n = 1 ∨ size = .b16 ∧ n = 2 ∨ size = .b32 ∧ n = 4 ∨ size = .b64 ∧ n = 8) →
    a.toNat % n = 0 → s.hw.place m.toNat false a.toNat = .mem b →
    s.hw.quiet = true → s.nonePosted →
    ∃ t, exec (.registerWrite m size a v) s = .next t ∧
      (∀ i < n, t.hw.rd8 (b + i) = BitVec.ofNat 8 (v.toNat / 256 ^ i)) ∧
      (∀ x, x < b ∨ b + n ≤ x → t.hw.rd8 x = s.hw.rd8 x) ∧
      t.hw.regs = s.hw.regs ∧ t.pending = s.pending ∧ (Memory.wf s.hw.mem = true → Memory.wf t.hw.mem = true)

/-- A write burst of the host to the command buffer or the bulk buffer, with no command running, stores each word at its
host address in little-endian order and changes no other byte and no register. -/
def Obligations.HostWriteBuffer : Prop :=
  ∀ (s : State) (a : BitVec 24) (ws : List Word),
    s.hw.boot.held = false → s.hw.quiet = true → s.nonePosted →
    s.hw.g Reg.MBX_STATUS_busy = 0 → a.toNat % 4 = 0 →
    (0x1000 ≤ a.toNat ∧ a.toNat + 4 * ws.length ≤ 0x1400 ∨ 0x10000 ≤ a.toNat ∧ a.toNat + 4 * ws.length ≤ 0x20000) →
    ∃ t, exec (.hostWrite a ws 0) s = .next t ∧
      (∀ (i : Nat) (hi : i < ws.length), ∀ j < 4,
        t.hw.rd8 (hostBase + a.toNat + 4 * i + j) = BitVec.ofNat 8 (ws[i].toNat / 256 ^ j)) ∧
      (∀ x, x < hostBase + a.toNat ∨ hostBase + a.toNat + 4 * ws.length ≤ x → t.hw.rd8 x = s.hw.rd8 x) ∧
      t.hw.regs = s.hw.regs ∧ t.pending = s.pending

/-- A read of a word of the buffers that starts after a write of it has ended returns the written value, with the ready
token. -/
def Obligations.HostReadBack : Prop :=
  ∀ (s t : State) (a : BitVec 24) (w : Word),
    s.hw.boot.held = false → s.hw.quiet = true → s.nonePosted →
    s.hw.g Reg.MBX_STATUS_busy = 0 → a.toNat % 4 = 0 →
    (0x1000 ≤ a.toNat ∧ a.toNat < 0x1400 ∨ 0x10000 ≤ a.toNat ∧ a.toNat < 0x20000) →
    exec (.hostWrite a [w] 0) s = .next t →
    ∃ u, exec (.hostRead a 1) t = .next u ∧ u.hw.mbx.hostOut = [w.toNat] ∧ u.hw.mbx.hostTokens = [0xA5] ∧
      u.hw.mem = t.hw.mem ∧ u.hw.regs = t.hw.regs ∧ u.pending = s.pending

/-- A read of an unmapped host address returns the token 0xA5 and zero, and a write to it is discarded; either records a
decode error and changes no byte of memory before the fault unit acts on it. -/
def Obligations.HostUnmapped : Prop :=
  ∀ (s : State) (a : BitVec 24) (w : Word),
    s.hw.boot.held = false → s.nonePosted → a.toNat % 4 = 0 → s.hw.hostPlace a.toNat = .unmapped →
    (∃ h : Hw, exec (.hostRead a 1) s = .next { s with hw := h.settle } ∧ h.mbx.hostOut = [0] ∧ h.mbx.hostTokens = [0xA5] ∧
      h.g Reg.SYS_ACC_ERR_decode = 1 ∧ h.mem = s.hw.mem) ∧
    (∃ h : Hw, exec (.hostWrite a [w] 0) s = .next { s with hw := h.settle } ∧ h.mbx = s.hw.mbx ∧
      h.g Reg.SYS_ACC_ERR_decode = 1 ∧ h.mem = s.hw.mem)

/-- While MBX_STATUS.rejected is 1 a doorbell write is discarded, even when the mailbox is idle: MBX_STATUS.reject_cnt and
MBX_DOOR_REJ[0].busy each count one, rejected stays 1, no command starts, and the buffers stay as they are. -/
def Obligations.DoorbellRejected : Prop :=
  ∀ s : State, s.hw.quiet = true → s.hw.g Reg.MBX_STATUS_ready ≠ 0 → s.hw.g Reg.MBX_STATUS_rejected ≠ 0 →
    ∃ t, exec .mbxDoorbell s = .next t ∧
      t.hw.g Reg.MBX_STATUS_reject_cnt = (s.hw.g Reg.MBX_STATUS_reject_cnt + 1) % 2 ^ Reg.MBX_STATUS_reject_cnt.w ∧
      t.hw.g (Reg.MBX_DOOR_REJ_busy 0) = (s.hw.g (Reg.MBX_DOOR_REJ_busy 0) + 1) % 2 ^ (Reg.MBX_DOOR_REJ_busy 0).w ∧
      t.hw.g Reg.MBX_STATUS_rejected = 1 ∧ t.hw.g Reg.MBX_STATUS_busy = s.hw.g Reg.MBX_STATUS_busy ∧
      t.hw.mbx = s.hw.mbx ∧ t.hw.mem = s.hw.mem ∧ t.pending = s.pending

/-- PINMUX_WRITE to a ball that is not multiplexed is discarded and sets SYS_ACC_ERR.value; the ball's owner field is as
before. -/
def Obligations.PinmuxFixedBall : Prop :=
  ∀ (s : State) (ball : Fin 1444) (v : Word), ¬(184 ≤ ball.val ∧ ball.val ≤ 347) →
    ∃ h : Hw, exec (.pinmuxWrite ball v) s = .next { s with hw := h.settle } ∧
      h.g Reg.SYS_ACC_ERR_value = 1 ∧
      h.g (Reg.PINMUX_BALL_func ball.val) = s.hw.g (Reg.PINMUX_BALL_func ball.val) ∧
      h.g (Reg.PINMUX_BALL_unit ball.val) = s.hw.g (Reg.PINMUX_BALL_unit ball.val) ∧ h.mem = s.hw.mem

/-- HOST_MUTE.mute = 1 puts mute in force: MUTE_OUT_N is low and every output kitty and amplifier channel fades or stays
muted. Memory and the queue stay. -/
def Obligations.HostMuteOn : Prop :=
  ∀ (s : State) (v : Word), s.hw.quiet = true → v.toNat % 2 = 1 →
    ∃ t, exec (.hostMute v) s = .next t ∧ t.hw.g Reg.HOST_MUTE_mute = 1 ∧ t.hw.outs.muteOutN = false ∧
      t.hw.kout = s.hw.kout.map (fun e => (e.1, { e.2 with mute := e.2.mute.set true })) ∧
      (∀ c < 16, (t.hw.ampSt c).mute = (s.hw.ampSt c).mute.set true) ∧
      t.hw.mem = s.hw.mem ∧ t.pending = s.pending

/-- POWER_ON leaves every register at its reset value and the engine held in reset. That the memories but flash and OTP list
nothing and the cores are at zero is the model's choice (log entries 5 and 6). -/
def Obligations.PowerOnResets : Prop :=
  ∀ s : State, ∃ t, exec .powerOn s = .next t ∧ (∀ f : RF, t.hw.g f = f.rst) ∧ t.hw.mem = [] ∧
    t.hw.flash = s.hw.flash ∧ t.hw.otp = s.hw.otp ∧ t.hw.boot.held = true ∧ t.hw.ring = {} ∧ t.hw.cores = [] ∧
    t.hw.outs.ampGates = [] ∧ t.pending = s.pending

/-- RESET_PIN keeps the fault history, the FIRST record, the sticky bits and the counters, the records of the trace ring and
the memories, records its cause, and puts the registers of the HOST block at reset. That the memories keep their bytes is
the model's reading (log entry 37). -/
def Obligations.ResetPinKeeps : Prop :=
  ∀ s : State, ∃ t, exec .resetPin s = .next t ∧
    (∀ f : RF, f.addr ∈ (List.range 8).map (fun k => (Reg.FAULT_STICKY_bit k).addr) ∨
        (∃ i < 64, f ∈ hist32 i) ∨ f ∈ first32 ∨
        f ∈ [Reg.FAULT_STAT_wr_idx, Reg.FAULT_STAT_seq, Reg.FAULT_LOST_count, Reg.FAULT_ECC_CE_count,
          Reg.FAULT_ECC_UE_count, Reg.FAULT_RECOV_count] → f.lo < 32 →
      t.hw.g f = s.hw.g f) ∧
    t.hw.g Reg.SYS_RST_CAUSE_pin = 1 ∧ t.hw.g Reg.MBX_STATUS_ready = 0 ∧ t.hw.g Reg.HOST_IRQ_EN_fault = 0 ∧
    t.hw.ring.recs = s.hw.ring.recs ∧ t.hw.mem = s.hw.mem ∧ t.hw.flash = s.hw.flash ∧ t.hw.otp = s.hw.otp ∧
    t.hw.boot.held = true ∧ t.pending = s.pending

/-- RESET_RELEASE samples BOOT_MODE into SYS_STATE.boot_mode and the twin seat into TWIN_STAT.seat, and the engine is out of
reset. Memory changes only where the boot ROM reads the firmware from flash into the memory of the dealer and the peg. -/
def Obligations.ResetReleaseStraps : Prop :=
  ∀ (s : State) (st : Straps) (ok : Bool), s.hw.quiet = true →
    ∃ t, exec (.resetRelease st ok) s = .next t ∧ t.hw.g Reg.SYS_STATE_boot_mode = st.bootMode.val ∧
      t.hw.g Reg.TWIN_STAT_seat = b2n st.twinSeat ∧ t.hw.boot.held = false ∧ t.hw.pins.resetN = true ∧
      (∀ x, ofFirmware x = false → t.hw.rd8 x = s.hw.rd8 x) ∧ (st.bootMode.val ≠ 0 → t.hw.mem = s.hw.mem) ∧
      t.hw.otp = s.hw.otp ∧ t.hw.flash = s.hw.flash ∧ t.pending = s.pending

/-- The media sample index at T64 value t is floor(t × fs / 10^9), the instant of sample index n is ceil(n × 10^9 / fs), and
the two fit: an index has come exactly when its instant has. The index is 0 at the epoch. -/
def Obligations.MediaIndex : Prop :=
  ∀ (h : Hw) (t n : Nat), h.media t = t * h.fs / 1000000000 ∧ h.media 0 = 0 ∧
    n * 1000000000 ≤ h.instant n * h.fs ∧ (∀ m, n * 1000000000 ≤ m * h.fs → h.instant n ≤ m) ∧
    (n ≤ h.media t ↔ h.instant n ≤ t)

/-- A servo status record is written in the slot at the write index: type 0x0B, its bound u the largest offset
of the second before plus 8 ns, the time-uncertain flag set while the servo is not locked, the next rseq. The ring is not
frozen. -/
def Obligations.ServoRecord : Prop :=
  ∀ s : State, s.hw.quiet = true → s.hw.ring.postFreeze ≠ 0 →
    ∃ t r u, exec .servoStatusRecord s = .next t ∧ t.hw.ring.recs.find? s.hw.ring.writeIdx = some r ∧
      r.type = 0x0B ∧ r.t64 = s.hw.t64 ∧ r.rseq = s.hw.ring.rseq ∧
      r.payload.take 4 = leBytes 4 (u + 8) ∧
      (∀ e ∈ s.hw.time.peaks, s.hw.t64 ≤ e.1 + 1000000000 → e.2 ≤ u) ∧
      (u = 0 ∨ ∃ e ∈ s.hw.time.peaks, s.hw.t64 ≤ e.1 + 1000000000 ∧ e.2 = u) ∧
      (s.hw.g Reg.TIME_STAT_state ≠ 2 → bitOf r.rflags 1 = true) ∧
      t.hw.ring.rseq = (s.hw.ring.rseq + 1) % 2 ^ 32 ∧ t.hw.time = s.hw.time ∧ t.hw.mem = s.hw.mem ∧ t.hw.regs = s.hw.regs

/-- BLOCK_ADMIT of a frame that fails the frame check, at a kitty with native admission and no lining buffer: FCS_ERR counts
it, and no slot is written; of the rest of the kitty only its note of lost blocks may change. -/
def Obligations.FrameCheckFails : Prop :=
  ∀ (s : State) (kid : Fin 4096) (p : Option Port) (pkt : Packet) (k : InKitty),
    s.hw.quiet = true → s.hw.inK kid.val = some k → k.cfg.spec = false → k.cfg.lining = 0 →
    ∃ t k', exec (.blockAdmit kid p false pkt) s = .next t ∧ t.hw.inK kid.val = some k' ∧ k'.slots = k.slots ∧
      k' = { k with cnt := bump k.cnt cFcs, causes := k'.causes } ∧
      (∀ j, j ≠ kid.val → t.hw.inK j = s.hw.inK j) ∧ t.hw.mem = s.hw.mem ∧ t.hw.regs = s.hw.regs

/-- CHANGE_PUSH takes the five staged words as one entry at the end of the queue while it holds fewer than 1,024, and
JOIN_CHG_LEVEL.free counts the places left; when it is full the entry is discarded and JOIN_STATUS.chg_full is set. Kinds
0x0 and 0xB–0xF are discarded. -/
def Obligations.ChangePushQueues : Prop :=
  ∀ s : State, s.hw.quiet = true →
    ∃ t, exec .changePush s = .next t ∧
      (1 ≤ s.hw.g Reg.JOIN_CHG_TGT_kind ∧ s.hw.g Reg.JOIN_CHG_TGT_kind ≤ 10 ∧ s.hw.join.queue.length < 1024 →
        ∃ q : Queued, t.hw.join.queue = s.hw.join.queue ++ [q] ∧
          q.c.t64 = s.hw.g Reg.JOIN_CHG_T64_LO_t64 + s.hw.g Reg.JOIN_CHG_T64_HI_t64 * 2 ^ 32 ∧
          q.c.kind = s.hw.g Reg.JOIN_CHG_TGT_kind ∧ q.c.a = s.hw.g Reg.JOIN_CHG_TGT_a ∧
          q.c.b = s.hw.g Reg.JOIN_CHG_TGT_b ∧ q.c.value = sext 24 (s.hw.g Reg.JOIN_CHG_VAL_value) ∧
          (q.c.law = true ↔ s.hw.g Reg.JOIN_CHG_CTL_law ≠ 0) ∧
          t.hw.g Reg.JOIN_CHG_LEVEL_free = (1023 - s.hw.join.queue.length) % 2 ^ Reg.JOIN_CHG_LEVEL_free.w) ∧
      (1 ≤ s.hw.g Reg.JOIN_CHG_TGT_kind ∧ s.hw.g Reg.JOIN_CHG_TGT_kind ≤ 10 ∧ 1024 ≤ s.hw.join.queue.length →
        t.hw.join.queue = s.hw.join.queue ∧ t.hw.g Reg.JOIN_STATUS_chg_full = 1) ∧
      (s.hw.g Reg.JOIN_CHG_TGT_kind = 0 ∨ 10 < s.hw.g Reg.JOIN_CHG_TGT_kind → t.hw.join = s.hw.join) ∧
      t.hw.mem = s.hw.mem ∧ t.pending = s.pending

/-- A crosspoint or send term is the exact product of an H32 sample and a G24 gain, plus 2^17, shifted right arithmetically by
18, and the accumulator at each sample is the sum of the terms of its records; 0 dBFS (2^28) at unity gain (2^20) gives 2^30;
no term exceeds 2^36 in magnitude, 1,024 terms never exceed 2^46, and the sum stays within 48 bits. -/
def Obligations.MixTerm : Prop :=
  (∀ x g : Int, mixTerm x g = (x * g + 2 ^ 17) / 2 ^ 18) ∧ mixTerm (2 ^ 28) (2 ^ 20) = 2 ^ 30 ∧
  (∀ (h : Hw) (table : Nat) (recs : List (Nat × XRec)) (k : Nat), k < h.bs →
    nthI (h.accumulate table recs) k
      = (recs.map (fun e => mixTerm (nthI (h.source e.2.src) k)
          (h.gainAt (rampKey table e.1) e.2.gain (h.epoch.t + k)))).sum) ∧
  ∀ l : List (Int × Int), l.length ≤ 1024 →
    (∀ e ∈ l, -(2 ^ 31) ≤ e.1 ∧ e.1 < 2 ^ 31 ∧ -(2 ^ 23) ≤ e.2 ∧ e.2 < 2 ^ 23) →
    (∀ e ∈ l, (mixTerm e.1 e.2).natAbs ≤ 2 ^ 36) ∧
    (l.map (fun e => mixTerm e.1 e.2)).sum.natAbs ≤ 2 ^ 46 ∧
    -(2 ^ 47) ≤ (l.map (fun e => mixTerm e.1 e.2)).sum ∧ (l.map (fun e => mixTerm e.1 e.2)).sum < 2 ^ 47

/-- Every operation of the E slot (R127) and every operation that only the EW slot has (R128), with legal fields, on a core that
runs: the core's registers become what the operation makes of them, the core is one bundle further, and nothing else changes
but the output pins. Illegal fields, and a pointer register with a reserved mode, raise ILLEGAL_BUNDLE. -/
def Obligations.ExecuteSlotCompletes : Prop :=
  ∀ (s : State) (n : Fin 10), s.hw.quiet = true → s.hw.bare n.val = true →
    (∀ (x : EArgs) (k : EKind), k.legal (eOp x) = true →
      exec (eInstr n x k) s = .next { s with hw := (s.hw.ran n.val (k.run (eOp x) (s.hw.core n.val))).drive }) ∧
    (∀ (x : EWArgs) (k : WKind), k.legal (wOp x) = true →
      (∀ p ∈ (XOp.w k (wOp x)).ptrs, (ptrMode ((s.hw.core n.val).lg p)).isSome = true) →
      exec (wInstr n x k) s = .next { s with hw := (s.hw.ran n.val (k.run (wOp x) (s.hw.core n.val))).drive }) ∧
    (∀ (x : EArgs) (k : EKind), k.legal (eOp x) = false →
      exec (eInstr n x k) s = .next { s with hw := (s.hw.trap n.val 0x01).settle }) ∧
    (∀ (x : EWArgs) (k : WKind),
      k.legal (wOp x) = false ∨ (∃ p ∈ (XOp.w k (wOp x)).ptrs, ptrMode ((s.hw.core n.val).lg p) = none) →
      exec (wInstr n x k) s = .next { s with hw := (s.hw.trap n.val 0x01).settle })

/-- The frame of the E operations: a lane whose bit in Q(pq) AND Q0 is 0 keeps its V and A elements in every register; V and
A registers other than the destination keep all their elements; P, M and L registers, the loop stack and Q0 stay; and ST
changes in its sticky flags and bexp alone. -/
def Obligations.ESlotFrame : Prop :=
  ∀ (c : Truss) (x : EArgs) (k : EKind), k.legal (eOp x) = true →
    let o := eOp x
    let c' := k.run o c
    (∀ r < 32, ∀ i < 32, r ≠ o.d ∨ i ∉ c.active o.pq → c'.vg r i = c.vg r i) ∧
    (∀ r < 8, ∀ i < 32, r ≠ o.d ∨ i ∉ c.active o.pq → c'.ag r i = c.ag r i) ∧
    (∀ r, c'.pg r = c.pg r) ∧ (∀ r, c'.mg r = c.mg r) ∧ (∀ r, c'.lg r = c.lg r) ∧ c'.qg 0 = c.qg 0 ∧
    (∀ r, r ≠ o.d → c'.qg r = c.qg r) ∧ c'.loops = c.loops ∧ c'.pc = c.pc ∧
    (∀ j, (6 ≤ j ∧ j < 9) ∨ (16 ≤ j ∧ j < 32) → bitOf c'.st.toNat j = bitOf c.st.toNat j)

/-- ADD and SUB with m = 0 wrap, AND, OR and XOR act bit by bit, and MIN and MAX with m = 0 compare as signed numbers, in
every active lane of the destination. -/
def Obligations.IntegerLanes : Prop :=
  ∀ (c : Truss) (d a b : BitVec 5) (pq : BitVec 2) (i : Nat), i ∈ c.active pq.toNat →
    let o := eOp (.e d a b pq 0)
    let x := c.vg a.toNat i
    let y := c.vg b.toNat i
    (EKind.add.run o c).vg d.toNat i = x + y ∧
    (EKind.sub.run o c).vg d.toNat i = x - y ∧
    (EKind.and.run o c).vg d.toNat i = x &&& y ∧
    (EKind.or.run o c).vg d.toNat i = x ||| y ∧
    (EKind.xor.run o c).vg d.toNat i = x ^^^ y ∧
    (EKind.min.run o c).vg d.toNat i = (if y.toInt < x.toInt then y else x) ∧
    (EKind.max.run o c).vg d.toNat i = (if x.toInt < y.toInt then y else x)

/-- Accumulation saturates and never wraps: MAC and MSU leave in every active lane the exact sum limited to −2^79 … 2^79 − 1,
and ST.aov is set if any active lane was limited and otherwise stays. -/
def Obligations.AccumulateSaturates : Prop :=
  ∀ (c : Truss) (d a b : BitVec 5) (pq : BitVec 2) (m : BitVec 4),
    let o := eOp (.e d a b pq m)
    let sum := fun (neg : Bool) (i : Nat) =>
      (c.ag d.toNat i).toInt + (if neg then -1 else 1) * product m.toNat (c.vg a.toNat i) (c.vg b.toNat i)
    let aov := fun (t : Truss) => bitOf t.st.toNat 1
    EKind.mac.legal o = true →
    (∀ i ∈ c.active pq.toNat,
      ((EKind.mac.run o c).ag d.toNat i).toInt = max (-(2 ^ 79)) (min (2 ^ 79 - 1) (sum false i)) ∧
      ((EKind.msu.run o c).ag d.toNat i).toInt = max (-(2 ^ 79)) (min (2 ^ 79 - 1) (sum true i))) ∧
    (aov (EKind.mac.run o c) = true ↔
      aov c = true ∨ ∃ i ∈ c.active pq.toNat, 2 ^ 79 - 1 < sum false i ∨ sum false i < -(2 ^ 79)) ∧
    (aov (EKind.msu.run o c) = true ↔
      aov c = true ∨ ∃ i ∈ c.active pq.toNat, 2 ^ 79 - 1 < sum true i ∨ sum true i < -(2 ^ 79))

/-- BEXP writes to each active lane the count of leading bits equal to the sign bit, less one; it sets ST.bexp to the smaller
of ST.bexp and the least count over the active lanes. -/
def Obligations.BexpCounts : Prop :=
  ∀ (c : Truss) (d a : BitVec 5) (pq : BitVec 2),
    let o := eOp (.e d a 0 pq 0)
    let c' := EKind.bexp.run o c
    (∀ i ∈ c.active pq.toNat, ∃ n, n ≤ 31 ∧ c'.vg d.toNat i = BitVec.ofNat 32 n ∧
      (∀ j, 31 - n ≤ j → j ≤ 31 → (c.vg a.toNat i).getLsbD j = (c.vg a.toNat i).getLsbD 31) ∧
      (n < 31 → (c.vg a.toNat i).getLsbD (30 - n) ≠ (c.vg a.toNat i).getLsbD 31)) ∧
    c'.bexp ≤ c.bexp ∧
    (∀ i ∈ c.active pq.toNat, c'.bexp ≤ (c'.vg d.toNat i).toNat) ∧
    (c'.bexp = c.bexp ∨ ∃ i ∈ c.active pq.toNat, c'.bexp = (c'.vg d.toNat i).toNat)

/-- An immediate bundle writes its word to P0–P15, M0–M15 or L0–L15 by the destination code; the codes 0x30–0x3F are
reserved and raise ILLEGAL_BUNDLE. -/
def Obligations.ImmediateBundle : Prop :=
  ∀ (s : State) (n : Fin 10) (dest : BitVec 6) (w : Word), s.hw.bare n.val = true →
    let c := s.hw.core n.val
    (s.hw.quiet = true → dest.toNat < 0x10 →
      exec (.immBundle n dest w) s = .next { s with hw := (s.hw.ran n.val (c.pp dest.toNat w)).drive }) ∧
    (s.hw.quiet = true → 0x10 ≤ dest.toNat → dest.toNat < 0x20 →
      exec (.immBundle n dest w) s = .next { s with hw := (s.hw.ran n.val (c.mp (dest.toNat - 0x10) w)).drive }) ∧
    (s.hw.quiet = true → 0x20 ≤ dest.toNat → dest.toNat < 0x30 →
      exec (.immBundle n dest w) s = .next { s with hw := (s.hw.ran n.val (c.lp (dest.toNat - 0x20) w)).drive }) ∧
    (0x30 ≤ dest.toNat →
      exec (.immBundle n dest w) s = .next { s with hw := (s.hw.trap n.val 0x01).settle })

/-- An address with a nonzero bit above the bits used for its space, or a FAR address with bits [1:0] nonzero, in an active
lane of a load or a store raises ADDR_RANGE: no byte of memory and no V register changes before the fault unit acts. That an
address in a masked lane raises nothing is the model's choice (log entry 65), and the statement does not speak of it. -/
def Obligations.AddressRange : Prop :=
  ∀ (s : State) (n : Fin 10) (m : MemArgs) (o : MemOp) (md : PtrMode) (i : Nat),
    s.hw.bare n.val = true → s.nonePosted → memDec m = some o → ptrMode ((s.hw.core n.val).lg o.ptr) = some md →
    i ∈ (s.hw.core n.val).active 0 →
    (2 ^ o.space.bits ≤ (s.hw.core n.val).laneAddr o md i ∨
      o.space = .far ∧ (s.hw.core n.val).laneAddr o md i % 4 ≠ 0) →
    let h := s.hw.trap n.val 0x02
    (∀ ecc, exec (.trussLoad n m ecc) s = .next { s with hw := h.settle }) ∧
    exec (.trussStore n m) s = .next { s with hw := h.settle } ∧
    h.g (Reg.TRUSS_TRAP_cause n.val) = 2 ∧ h.mem = s.hw.mem ∧ (h.core n.val).v = (s.hw.core n.val).v

/-- TRUSS_TRAP of a core that runs, for every cause but TASK_BUDGET, records the cause, the task index, the bundle address and
T64, sets TRUSS_TRAP.valid, and raises the core's fault source with the context that R97 lays out; BRK does so while the debug
window is unlocked. Code 0, the reserved codes, and TASK_BUDGET where no task runs change nothing but the output pins. -/
def Obligations.TrapRecords : Prop :=
  ∀ (s : State) (n : Fin 10) (cause : BitVec 5), s.hw.quiet = true → s.hw.masked n.val = false → s.hw.bare n.val = true →
    (cause.toNat = 0 ∨ cause.toNat = 8 ∨ 0x0C ≤ cause.toNat → exec (.trussTrap n cause) s = .next { s with hw := s.hw.drive }) ∧
    (cause.toNat ≠ 0 → cause.toNat < 0x0C → cause.toNat ≠ 8 →
      (cause.toNat = 0x0B → s.hw.g Reg.SYS_DEBUG_unlocked ≠ 0) →
    ∃ h : Hw, exec (.trussTrap n cause) s = .next { s with hw := h.settle } ∧
      h.g (Reg.TRUSS_TRAP_cause n.val) = cause.toNat ∧
      h.g (Reg.TRUSS_TRAP_task n.val) = s.hw.g (Reg.TRUSS_STATUS_task n.val) % 2 ^ (Reg.TRUSS_TRAP_task n.val).w ∧
      h.g (Reg.TRUSS_TRAP_PC_pc n.val) = (s.hw.core n.val).pc % 2 ^ (Reg.TRUSS_TRAP_PC_pc n.val).w ∧
      h.g (Reg.TRUSS_TRAP_T64_LO_t64 n.val) = s.hw.t64 % 2 ^ 32 ∧
      h.g (Reg.TRUSS_TRAP_T64_HI_t64 n.val) = s.hw.t64 / 2 ^ 32 % 2 ^ 32 ∧
      h.g (Reg.TRUSS_TRAP_valid n.val) = 1 ∧
      (∃ e ∈ h.flt.queue, e.source = n.val ∧ e.code = cause.toNat ∧ e.t64 = s.hw.t64 ∧
        e.context = cause.toNat + (s.hw.core n.val).pc * 2 ^ 5 + s.hw.g (Reg.TRUSS_STATUS_task n.val) * 2 ^ 19
          + n.val * 2 ^ 24) ∧ h.mem = s.hw.mem)

/-- A fault event sets its source's sticky bit even when the queue of 16 is full and an event is dropped; the queue never
exceeds 16, and a drop is counted in FAULT_LOST and sets FAULT_STAT.ovf. -/
def Obligations.StickyBeforeQueue : Prop :=
  ∀ (h : Hw) (src code ctx : Nat), src < 256 → h.masked src = false → h.flt.queue.length ≤ 16 →
    let h' := h.raise src code ctx
    bitOf (h'.g (Reg.FAULT_STICKY_bit (src / 32))) (src % 32) = true ∧ h'.flt.queue.length ≤ 16 ∧
    (h.flt.queue.length = 16 → h'.g Reg.FAULT_LOST_count
      = (h.g Reg.FAULT_LOST_count + 1) % 2 ^ Reg.FAULT_LOST_count.w ∧ h'.g Reg.FAULT_STAT_ovf = 1) ∧
    (h.flt.queue.length < 16 → h'.g Reg.FAULT_LOST_count = h.g Reg.FAULT_LOST_count) ∧ h'.mem = h.mem

/-- A doorbell of an enabled channel in mode 1 that already runs is held in pend; a second such event is dropped and sets
trig_lost. A doorbell at the T64 of a trigger of the channel counts with it as one event and changes neither (DEDUCED, log entry 29). The
descriptor that runs stays. -/
def Obligations.DmaDoorbellHeld : Prop :=
  ∀ (s : State) (c : Fin 16), s.hw.quiet = true → s.hw.g (Reg.DMA_CH_CFG_en c.val) ≠ 0 →
    s.hw.g (Reg.DMA_CH_CFG_mode c.val) = 1 →
    s.hw.g (Reg.DMA_CH_STAT_state c.val) = 1 ∨ s.hw.g (Reg.DMA_CH_STAT_state c.val) = 2 →
    ∃ t, exec (.dmaDoorbell c) s = .next t ∧
      (s.hw.xbar.dmaAt.find? c.val ≠ some (s.hw.t64, true) → t.hw.g (Reg.DMA_CH_STAT_pend c.val) ≠ 0) ∧
      (s.hw.xbar.dmaAt.find? c.val = some (s.hw.t64, true) →
        t.hw.g (Reg.DMA_CH_STAT_pend c.val) = s.hw.g (Reg.DMA_CH_STAT_pend c.val) ∧
        t.hw.g (Reg.DMA_CH_STAT_trig_lost c.val) = s.hw.g (Reg.DMA_CH_STAT_trig_lost c.val)) ∧
      (s.hw.g (Reg.DMA_CH_STAT_pend c.val) = 0 →
        t.hw.g (Reg.DMA_CH_STAT_trig_lost c.val) = s.hw.g (Reg.DMA_CH_STAT_trig_lost c.val)) ∧
      (s.hw.g (Reg.DMA_CH_STAT_pend c.val) = 1 → s.hw.xbar.dmaAt.find? c.val ≠ some (s.hw.t64, true) →
        t.hw.g (Reg.DMA_CH_STAT_trig_lost c.val) = 1) ∧
      t.hw.g (Reg.DMA_CH_STAT_state c.val) = s.hw.g (Reg.DMA_CH_STAT_state c.val) ∧
      t.hw.dma = s.hw.dma ∧ t.hw.mem = s.hw.mem

/-- Disabling the servo returns it to FREE at rate 0. -/
def Obligations.ServoDisabled : Prop :=
  ∀ s : State, s.hw.quiet = true →
    ∃ t, exec (.servoEnable false) s = .next t ∧ t.hw.g Reg.TIME_CTRL_servo_en = 0 ∧ t.hw.g Reg.TIME_STAT_state = 0 ∧
      t.hw.time.rate = 0 ∧ t.hw.g Reg.TIME_RATE_rate = 0 ∧ t.hw.t64 = s.hw.t64 ∧ t.hw.mem = s.hw.mem

/-- The registers of event timer 0 are read only: TIMER_ARM of timer 0 changes nothing. A nonzero mode arms timers 1–31, and
mode 0 disarms them. -/
def Obligations.TimerArmed : Prop :=
  ∀ (s : State) (v : Word), s.hw.quiet = true →
    exec (.timerArm 0 v) s = .next { s with hw := s.hw.drive } ∧
    ∀ i : Fin 32, i ≠ 0 → s.hw.g (Reg.TIME_TMR_CTRL_pin i.val) = bitsOf v.toNat 3 1 →
      ∃ t, exec (.timerArm i v) s = .next t ∧
        t.hw.g (Reg.TIME_TMR_CTRL_mode i.val) = v.toNat % 4 ∧
        (t.hw.g (Reg.TIME_TMR_STAT_armed i.val) = 1 ↔ v.toNat % 4 ≠ 0) ∧ t.hw.t64 = s.hw.t64 ∧ t.hw.mem = s.hw.mem

/-- An edge on an active input set for both edges is stamped at the end of the FIFO while it holds fewer than four entries; a
fifth edge is lost and sets ovf. An input that owns no active ball stamps nothing. -/
def Obligations.CaptureFifo : Prop :=
  ∀ (s : State) (j : Fin 16) (rise : Bool), s.hw.quiet = true → s.hw.g (Reg.TIME_CAP_CTRL_edge j.val) = 3 →
    (s.hw.fnActive 0x02 j.val = false → exec (.captureEdge j rise) s = .next { s with hw := s.hw.drive }) ∧
    (s.hw.fnActive 0x02 j.val = true → ∃ t, exec (.captureEdge j rise) s = .next t ∧
      ((s.hw.time.capt.get [] j.val).length < 4 →
        t.hw.time.capt.get [] j.val
          = s.hw.time.capt.get [] j.val ++ [(s.hw.t64 * 2 ^ 16 + s.hw.sub / 2 ^ 32, rise)] ∧
        t.hw.g (Reg.TIME_CAP_STAT_level j.val)
          = ((s.hw.time.capt.get [] j.val).length + 1) % 2 ^ (Reg.TIME_CAP_STAT_level j.val).w) ∧
      (4 ≤ (s.hw.time.capt.get [] j.val).length →
        t.hw.time.capt = s.hw.time.capt ∧ t.hw.g (Reg.TIME_CAP_STAT_ovf j.val) = 1) ∧
      (∀ i, i ≠ j.val → t.hw.time.capt.get [] i = s.hw.time.capt.get [] i) ∧ t.hw.mem = s.hw.mem)

/-- A frame that passes the MAC's checks but matches no enabled VID filter and is not admitted untagged is discarded and
counted as VID_DROP: beside the counts and the receive descriptor nothing changes. -/
def Obligations.VidDrop : Prop :=
  ∀ (s : State) (p : Port) (f : Frame), s.hw.quiet = true → s.hw.g (Reg.MAC_CTRL_en (pn p)) ≠ 0 →
    f.fcsOk = true → f.fecOk = true → 64 ≤ f.length → f.length ≤ s.hw.frameMax (pn p) → f.kind ≠ .pause →
    s.hw.vidOk (pn p) f = false →
    ∃ t, exec (.netFrameReceive p f) s = .next t ∧
      t = { s with hw := ((((s.hw.fecCount (pn p) f).macCount (pn p) 1).rxDescribe (pn p) f).macCount (pn p) 6).drive } ∧
      t.hw.kin = s.hw.kin ∧ t.hw.mem = s.hw.mem ∧ t.hw.sent = s.hw.sent

/-- A table key that reaches its activation time becomes the first key, the one before it stays as the second, and the clock
stands at the activation time or later. -/
def Obligations.TableKeyActive : Prop :=
  ∀ (s : State) (k : KeyRec), s.hw.still = true → s.hw.table.nextKey = some k →
    ∃ t, exec .tableKeyActivate s = .next t ∧ t.hw.table.keys = k :: s.hw.table.keys.take 1 ∧
      t.hw.table.nextKey = none ∧ k.active ≤ t.hw.t64 ∧ t.hw.regs = s.hw.regs ∧ t.hw.mem = s.hw.mem

/-- The commands that write one field change nothing else but the output pins: the swap requests of the Joinery schedule, a
task list, a SAP slot map, AES3 channel status and a slot table set their request bit; WIN_STAT_CLEAR resets max_cyc of its
window; PRBS_SYNC sets or clears LANE_STAT.prbs_sync of a lane whose checker is selected, and adds the errored bits seen in sync
to LANE_PRBS_ERR. -/
def Obligations.OneFieldCommands : Prop :=
  ∀ s : State, s.hw.quiet = true →
    exec .joinSchedSwap s = .next { s with hw := (s.hw.p Reg.JOIN_SCHED_SWAP_swap_req 1).drive } ∧
    (∀ n, exec (.trussTlSwap n) s = .next { s with hw := (s.hw.p (Reg.TRUSS_TL_SWAP_swap_req n.val) 1).drive }) ∧
    (∀ n, exec (.sapSlotSwap n) s = .next { s with hw := (s.hw.p (Reg.SAP_SLOT_SWAP_swap_req n.val) 1).drive }) ∧
    (∀ j, exec (.aesTxCsSwap j) s = .next { s with hw := (s.hw.p (Reg.AES_TX_CS_SWAP_swap_req j.val) 1).drive }) ∧
    (∀ p, exec (.slotSwapReq p) s = .next { s with hw := (s.hw.p (Reg.MAC_SLOT_SWAP_swap_req (pn p)) 1).drive }) ∧
    (∀ w, exec (.winStatClear w) s = .next { s with hw := (s.hw.p (Reg.XBAR_WIN_STAT_max_cyc w.val) 0).drive }) ∧
    (∀ (n : Fin 8) (gained : Bool) (errs : Nat), s.hw.g (Reg.LANE_CTRL_prbs_chk n.val) ≠ 0 →
      (s.hw.g (Reg.LANE_STAT_prbs_sync n.val) = 0 → exec (.prbsSync n gained errs) s
        = .next { s with hw := (s.hw.p (Reg.LANE_STAT_prbs_sync n.val) (if gained then 1 else 0)).drive }) ∧
      (s.hw.g (Reg.LANE_STAT_prbs_sync n.val) ≠ 0 → exec (.prbsSync n gained errs) s
        = .next { s with hw := ((s.hw.p (Reg.LANE_PRBS_ERR_count n.val) (s.hw.g (Reg.LANE_PRBS_ERR_count n.val) + errs)).p
            (Reg.LANE_STAT_prbs_sync n.val) (if gained then 1 else 0)).drive }))

/-- CLK_FORCE naming reference 15, which is never selected, is discarded and sets SYS_ACC_ERR.value; CLK_CTRL is as
before. -/
def Obligations.ForceFifteen : Prop :=
  ∀ (s : State) (en : Bool),
    ∃ h : Hw, exec (.clkForce en 15) s = .next { s with hw := h.settle } ∧ h.g Reg.SYS_ACC_ERR_value = 1 ∧
      h.clk = s.hw.clk ∧ h.g Reg.CLK_CTRL_force_ref = s.hw.g Reg.CLK_CTRL_force_ref ∧
      h.g Reg.CLK_CTRL_force_en = s.hw.g Reg.CLK_CTRL_force_en

/-- The open-loop hold of a starting channel ends 2 ms after it began, 0.5 ms after a switch-over, and the channel waits for
the integrator's zero crossing with its gates as they were. -/
def Obligations.OpenLoopHold : Prop :=
  ∀ (s : State) (c : Fin 16), s.hw.still = true → (s.hw.ampSt c.val).step = .hold →
    ∃ t, exec (.ampOpenLoopHoldEnd c) s = .next t ∧ (t.hw.ampSt c.val).step = .zero ∧
      (t.hw.ampSt c.val).gates = (s.hw.ampSt c.val).gates ∧
      (s.hw.ampSt c.val).t0 + (if (s.hw.ampSt c.val).quick then 500000 else 2000000) ≤ t.hw.t64 ∧
      (∀ k < 16, k ≠ c.val → t.hw.ampSt k = s.hw.ampSt k) ∧ t.hw.mem = s.hw.mem

/-- HEALTH_FALL lowers HEALTH and leaves the other pins; where no condition of R442 has failed, the clock stands at the deadline
of a release, one block period and 10 µs after the last, or later. -/
def Obligations.HealthFalls : Prop :=
  ∀ s : State, s.hw.still = true →
    ∃ t, exec .healthFall s = .next t ∧ t.hw.pins = { s.hw.pins with health := false } ∧ t.hw.mem = s.hw.mem ∧
      (s.hw.fit = false → t.hw.t64 = s.hw.t64) ∧
      (s.hw.fit = true → t.hw.t64 = max s.hw.t64 (s.hw.twin.lastRelease + s.hw.blockNs + 10000))

/-- BIST_START while a test runs is discarded and sets SYS_ACC_ERR.value: the test that runs stays. -/
def Obligations.BistBusy : Prop :=
  ∀ (s : State) (m : Master) (full : Bool), s.hw.g Reg.BIST_STAT_state = 1 →
    ∃ h : Hw, exec (.bistStart m full) s = .next { s with hw := h.settle } ∧ h.g Reg.SYS_ACC_ERR_value = 1 ∧
      h.g Reg.BIST_STAT_state = 1 ∧ h.g Reg.BIST_CTRL_mode = s.hw.g Reg.BIST_CTRL_mode ∧ h.deal = s.hw.deal

/-- The test access port: each public instruction is in force after its command and changes the port and the output pins
alone; IDCODE captures a word with bit 0 set and the manufacturer 0x6F1 in [11:1]; EXTEST, CLAMP and HIGHZ drive every gate
output low; TRST_N resets the port only. -/
def Obligations.TestPort : Prop :=
  ∀ s : State, s.hw.quiet = true →
    (∃ t, exec .idcode s = .next t ∧ t.hw.tap.ir = .idcode ∧ t.hw.tap.out % 2 = 1 ∧ t.hw.tap.out / 2 % 2 ^ 11 = 0x6F1 ∧
      t = { s with hw := ({ s.hw with tap := t.hw.tap } : Hw).drive }) ∧
    (∃ t, exec .bypass s = .next t ∧ t.hw.tap.ir = .bypass ∧ t = { s with hw := ({ s.hw with tap := t.hw.tap } : Hw).drive }) ∧
    (∃ t, exec .extest s = .next t ∧ t.hw.tap.ir = .extest ∧ t.hw.outs.ampGates = [] ∧ t.hw.outs.boostGates = [] ∧
      t = { s with hw := ({ s.hw with tap := t.hw.tap } : Hw).drive }) ∧
    (∃ t, exec .clamp s = .next t ∧ t.hw.tap.ir = .clamp ∧ t.hw.outs.ampGates = [] ∧ t.hw.outs.boostGates = [] ∧
      t = { s with hw := ({ s.hw with tap := t.hw.tap } : Hw).drive }) ∧
    (∃ t, exec .highz s = .next t ∧ t.hw.tap.ir = .highz ∧ t.hw.outs.ampGates = [] ∧ t.hw.outs.boostGates = [] ∧
      t = { s with hw := ({ s.hw with tap := t.hw.tap } : Hw).drive }) ∧
    (∀ cells, ∃ t, exec (.samplePreload cells) s = .next t ∧ t.hw.tap.ir = .samplePreload ∧ t.hw.tap.boundary = cells ∧
      t = { s with hw := ({ s.hw with tap := t.hw.tap } : Hw).drive }) ∧
    exec .trstNReset s = .next { s with hw := ({ s.hw with tap := {} } : Hw).drive }

/-- OWNER_KEY_PROGRAM, once an owner key hash is in OTP, is refused with S_PARAM_RANGE and burns nothing; NET_KEY_SET refuses
a key beyond four others, and PLAN_LOAD a plan longer than 2,097,152 bytes, each with S_PARAM_RANGE and no other effect. -/
def Obligations.CommandsOutOfRange : Prop :=
  ∀ (s : State) (r : MbxRun), s.hw.quiet = true → s.hw.mbx.run = some r → r.result = none →
    let answer : Hw := { s.hw with mbx := { s.hw.mbx with run := some { r with result := some (0x13, []) } } }
    (∀ pub : List Byte, r.opcode = 0x0B05 → pub.length = 64 → s.hw.ownerSet = true →
      exec (.ownerKeyProgram pub) s = .next { s with hw := answer.drive }) ∧
    (∀ (keyId : Word) (key : List Byte), r.opcode = 0x0B06 → key.length = 16 →
      4 ≤ (s.hw.mbx.netKeys.filter (fun k => k.keyId != keyId.toNat)).length →
      exec (.netKeySet keyId key) s = .next { s with hw := answer.drive }) ∧
    (∀ off total : Nat, r.opcode = 0x0201 → s.hw.frozenWorker = false → s.hw.bulk.isSome = true → 2097152 < total →
      exec (.planLoad off total) s = .next { s with hw := answer.drive })

/-- MON_SUPPLY of the 0.9 V rail within 3% of its nominal voltage records the voltage, clears the rail's out bit and raises
nothing. -/
def Obligations.RailInRange : Prop :=
  ∀ (s : State) (mv : Nat), s.hw.quiet = true → 873 ≤ mv → mv ≤ 927 →
    exec (.monSupply 4 mv) s = .next { s with hw := ((s.hw.p (Reg.MON_RAIL_mv 4) mv).p (Reg.MON_RAIL_out 4) 0).drive }

/-- The worked example of R426: carriers at 693, 909 and 1,089 kHz with a guard of 10 kHz give a channel whose idle frequency
is 400 kHz the band 368–448 kHz. How edges are rounded in general is the model's reading (log entry 45). -/
def Obligations.BandExample : Prop :=
  ∀ h : Hw,
    (∀ i < 16, h.g (Reg.AMP_CARRIER_en i) = if i < 3 then 1 else 0) →
    h.g (Reg.AMP_CARRIER_freq 0) = 693 → h.g (Reg.AMP_CARRIER_freq 1) = 909 → h.g (Reg.AMP_CARRIER_freq 2) = 1089 →
    (∀ i < 3, h.g (Reg.AMP_CARRIER_guard i) = 10) → ∀ c, h.g (Reg.AMP_OSC_f_idle c) = 400 →
    h.g (Reg.AMP_OSC_f_floor c) ≤ 360 → h.bandOf c = (368, 448)

/-- ABORT of the prepared share discards it, unless COMMIT has come; any other ABORT changes nothing but the output pins. -/
def Obligations.AbortDiscards : Prop :=
  ∀ (s : State) (sh : Share) (number : Nat), s.hw.quiet = true → s.hw.deal.prepared = some sh →
    exec (.abort number) s = .next { s with hw :=
      (if number = sh.number ∧ s.hw.deal.committed = false then
        ({ s.hw with deal := { s.hw.deal with prepared := none, committed := false } } : Hw) else s.hw).drive }

/-- Each of the power, reset, boot, bridge, emergency, block tick, task, kitty, speculation, trace and Joinery
commands completes: it answers the next state in which its own operation has run on the hardware and the fault unit
has recorded what it raised, with the queue as it was. -/
def Obligations.PowerEpochComplete : Prop :=
  ∀ s : State,
    (exec .powerOn s =
      .next { s with hw := Hw.settle s.hw.powerReset }) ∧
    (exec .resetPin s =
      .next { s with hw := Hw.settle s.hw.resetPin }) ∧
    (∀ (straps : Straps) (pufOk : Bool), exec (.resetRelease straps pufOk) s =
      .next { s with hw := Hw.settle (s.hw.resetRelease straps pufOk) }) ∧
    (exec .sillPowerReset s =
      .next { s with hw := Hw.settle s.hw.sillReset }) ∧
    (exec .bootReady s =
      .next { s with hw := Hw.settle s.hw.bootReady }) ∧
    (exec .bootChunk s =
      .next { s with hw := Hw.settle s.hw.bootChunk }) ∧
    (exec .powerFail s =
      .next { s with hw := Hw.settle s.hw.powerFail }) ∧
    (exec .sillResetRelease s =
      .next { s with hw := Hw.settle s.hw.sillRelease }) ∧
    (∀ (crcOk : Bool) (flit : Flit), exec (.flitReceive crcOk flit) s =
      .next { s with hw := Hw.settle (s.hw.flitReceive crcOk flit) }) ∧
    (exec .bridgeDown s =
      .next { s with hw := Hw.settle s.hw.bridgeDown }) ∧
    (exec .keepAliveFlit s =
      .next { s with hw := Hw.settle s.hw.keepAlive }) ∧
    (exec .sillSafeState s =
      .next { s with hw := Hw.settle s.hw.sillSafeState }) ∧
    (exec .sillSafeExit s =
      .next { s with hw := Hw.settle s.hw.sillSafeExit }) ∧
    (∀ (level : Bool), exec (.muteNEdge level) s =
      .next { s with hw := Hw.settle (s.hw.muteN level) }) ∧
    (∀ (value : Word), exec (.hostMute value) s =
      .next { s with hw := Hw.settle (s.hw.hostMute value.toNat) }) ∧
    (∀ (level : Bool), exec (.ampOffNEdge level) s =
      .next { s with hw := Hw.settle (s.hw.ampOffN level) }) ∧
    (∀ (value : Word), exec (.ampMasterEn value) s =
      .next { s with hw := Hw.settle (s.hw.ampMaster value.toNat) }) ∧
    (∀ (eccs : List JoinEcc), exec (.blockTick eccs) s =
      .next { s with hw := Hw.settle (s.hw.blockTick eccs) }) ∧
    (∀ (core : Fin 10), exec (.taskStart core) s =
      .next { s with hw := Hw.settle (s.hw.taskStart core.val) }) ∧
    (exec .joinEntryStart s =
      .next { s with hw := Hw.settle s.hw.joinEntryStart }) ∧
    (∀ (core : Fin 10), exec (.taskBudget core) s =
      .next { s with hw := Hw.settle (s.hw.budgetStop core.val) }) ∧
    (∀ (kitty : Fin 4096) (port : Option Port) (frameOk : Bool) (pkt : Packet), exec (.blockAdmit kitty port frameOk pkt) s =
      .next { s with hw := Hw.settle (s.hw.blockAdmit kitty.val port frameOk pkt) }) ∧
    (∀ (kitty : Fin 4096), exec (.streamResync kitty) s =
      .next { s with hw := Hw.settle (s.hw.streamResync kitty.val) }) ∧
    (∀ (kitty : Fin 4096) (port : Option Port) (n : Nat), exec (.specConfirm kitty port n) s =
      .next { s with hw := Hw.settle (s.hw.specConfirm kitty.val port n) }) ∧
    (∀ (kitty : Fin 4096) (port : Option Port) (n : Nat) (check : SpecCheck), exec (.specSquash kitty port n check) s =
      .next { s with hw := Hw.settle (s.hw.specSquash kitty.val port n check) }) ∧
    (exec .specExitDeadline s =
      .next { s with hw := Hw.settle s.hw.exitDeadline }) ∧
    (∀ (kitty : Fin 4096), exec (.kittyRelease kitty) s =
      .next { s with hw := Hw.settle (s.hw.releaseAll kitty.val) }) ∧
    (∀ (kitty : Fin 4096), exec (.streamSilent kitty) s =
      .next { s with hw := Hw.settle (s.hw.streamSilent kitty.val) }) ∧
    (exec .traceFreeze s =
      .next { s with hw := Hw.settle s.hw.traceFrozen }) ∧
    (exec .servoStatusRecord s =
      .next { s with hw := Hw.settle s.hw.servoRecord }) ∧
    (exec .joinSchedSwap s =
      .next { s with hw := Hw.settle (s.hw.s1 Reg.JOIN_SCHED_SWAP_swap_req) }) ∧
    (exec .changePush s =
      .next { s with hw := Hw.settle s.hw.changePush }) ∧
    (exec .scarfEnd s =
      .next { s with hw := Hw.settle s.hw.scarfDue }) ∧
    (exec .meterSnapshot s =
      .next { s with hw := Hw.settle s.hw.meterSnapshot })

/-- Each of the memory, control and immediate operations of the truss cores and the core controls completes: it
answers the next state in which its own operation has run on the hardware and the fault unit has recorded what it
raised, with the queue as it was. TRUSS_STORE, TRUSS_STEP: where the register writes change no reserved field. -/
def Obligations.TrussComplete : Prop :=
  ∀ s : State,
    (∀ (core : Fin 10) (m : MemArgs) (ecc : Option Bool), exec (.trussLoad core m ecc) s =
      .next { s with hw := Hw.settle (s.hw.onCore core.val (fun h => h.opLoad core.val m ecc)) }) ∧
    (∀ (core : Fin 10) (m : MemArgs) (h : Hw), Hw.runPosted 4096 (s.hw.onCore core.val (fun h => h.opStore core.val m)) = some h →
      exec (.trussStore core m) s = .next { s with hw := h.settle }) ∧
    (∀ (core : Fin 10) (v : BitVec 5) (err : Bool), exec (.farLoadReturn core v err) s =
      .next { s with hw := Hw.settle (s.hw.farReturn core.val v.toNat err) }) ∧
    (∀ (core : Fin 10) (dest : BitVec 6) (imm : Word), exec (.immBundle core dest imm) s =
      .next { s with hw := Hw.settle (s.hw.onCore core.val (fun h => h.opImm core.val dest.toNat imm)) }) ∧
    (∀ (core : Fin 10) (cond n : BitVec 4) (target : BitVec 14), exec (.b core cond n target) s =
      .next { s with hw := Hw.settle (s.hw.onCore core.val (fun h => h.opC core.val (.b cond.toNat n.toNat target.toNat))) }) ∧
    (∀ (core : Fin 10) (src : Bool) (count : BitVec 16) (off : BitVec 8), exec (.loop core src count off) s =
      .next { s with hw := Hw.settle (s.hw.onCore core.val (fun h => h.opC core.val (.loop src count.toNat off.toNat))) }) ∧
    (∀ (core : Fin 10), exec (.lexit core) s =
      .next { s with hw := Hw.settle (s.hw.onCore core.val (fun h => h.opC core.val .lexit)) }) ∧
    (∀ (core : Fin 10), exec (.sleep core) s =
      .next { s with hw := Hw.settle (s.hw.onCore core.val (fun h => h.opC core.val .sleep)) }) ∧
    (∀ (core : Fin 10) (flag : BitVec 4), exec (.signal core flag) s =
      .next { s with hw := Hw.settle (s.hw.onCore core.val (fun h => h.opC core.val (.signal flag.toNat))) }) ∧
    (∀ (core : Fin 10), exec (.softTrap core) s =
      .next { s with hw := Hw.settle (s.hw.onCore core.val (fun h => h.opC core.val .softTrap)) }) ∧
    (∀ (core : Fin 10), exec (.brk core) s =
      .next { s with hw := Hw.settle (s.hw.onCore core.val (fun h => h.opC core.val .brk)) }) ∧
    (∀ (core : Fin 10) (qd qa qb : BitVec 2) (fn : BitVec 3) (hi lo : BitVec 5), exec (.qop core qd qa qb fn hi lo) s =
      .next { s with hw := Hw.settle (s.hw.onCore core.val (fun h => h.opC core.val (.qop qd.toNat qa.toNat qb.toNat fn.toNat hi.toNat lo.toNat))) }) ∧
    (∀ (core : Fin 10) (p : BitVec 4), exec (.stw core p) s =
      .next { s with hw := Hw.settle (s.hw.onCore core.val (fun h => h.opC core.val (.stw p.toNat))) }) ∧
    (∀ (core : Fin 10) (fld : BitVec 2) (p : BitVec 4), exec (.str core fld p) s =
      .next { s with hw := Hw.settle (s.hw.onCore core.val (fun h => h.opC core.val (.str fld.toNat p.toNat))) }) ∧
    (∀ (core : Fin 10) (flags : BitVec 6) (bexp : Bool), exec (.stclr core flags bexp) s =
      .next { s with hw := Hw.settle (s.hw.onCore core.val (fun h => h.opC core.val (.stclr flags.toNat bexp))) }) ∧
    (∀ (core : Fin 10) (pd pa : BitVec 4) (imm : BitVec 16), exec (.padd core pd pa imm) s =
      .next { s with hw := Hw.settle (s.hw.onCore core.val (fun h => h.opC core.val (.padd pd.toNat pa.toNat imm.toNat))) }) ∧
    (∀ (core : Fin 10) (cause : BitVec 5), exec (.trussTrap core cause) s =
      .next { s with hw := Hw.settle (s.hw.onCore core.val (fun h => h.trapRow core.val cause.toNat)) }) ∧
    (∀ (core : Fin 10) (h : Hw), Hw.runPosted 4096 ((s.hw.s1 (Reg.TRUSS_CTRL_step core.val)).trussStep core.val) = some h →
      exec (.trussStep core) s = .next { s with hw := h.settle }) ∧
    (∀ (core : Fin 10) (halt : Bool), exec (.trussHaltReq core halt) s =
      .next { s with hw := Hw.settle (s.hw.haltReq core.val halt) }) ∧
    (∀ (core : Fin 10), exec (.trussTlSwap core) s =
      .next { s with hw := Hw.settle (s.hw.s1 (Reg.TRUSS_TL_SWAP_swap_req core.val)) }) ∧
    (∀ (bent : Fin 2) (code : BitVec 4), exec (.bentFreqChangeReq bent code) s =
      .next { s with hw := Hw.settle (s.hw.bentFreqReq bent.val code.toNat 0x0A) }) ∧
    (∀ (bent : Fin 2), exec (.bentPllRetune bent) s =
      .next { s with hw := Hw.settle (s.hw.bentRetune bent.val) }) ∧
    (∀ (bent : Fin 2), exec (.bentRetuneDone bent) s =
      .next { s with hw := Hw.settle (s.hw.bentRetuneDone bent.val) })

/-- Each of the host port, mailbox, debug window, pin, register bus, crossbar and DMA commands completes: it answers
the next state in which its own operation has run on the hardware and the fault unit has recorded what it raised, with
the queue as it was. HOST_WRITE, REGISTER_WRITE, XBAR_PIECE_RESPONSE: where the register writes change no reserved
field. -/
def Obligations.HostTransferComplete : Prop :=
  ∀ s : State,
    (∀ (addr : BitVec 24) (words : Nat), exec (.hostRead addr words) s =
      .next { s with hw := Hw.settle (s.hw.hostOpen (fun h => h.hostRead addr.toNat words)) }) ∧
    (∀ (addr : BitVec 24) (words : List Word) (partialBytes : Fin 4) (h : Hw), (s.hw.hostStore addr.toNat words partialBytes.val) = some h →
      exec (.hostWrite addr words partialBytes) s = .next { s with hw := h.settle }) ∧
    (∀ (opcode : Byte), exec (.hostBadOpcode opcode) s =
      .next { s with hw := Hw.settle (s.hw.badOpcode opcode.toNat) }) ∧
    (exec .mbxDoorbell s =
      .next { s with hw := Hw.settle s.hw.doorbell }) ∧
    (∀ (port : Port) (ip : Word) (udp : Nat) (keyId : Word) (counter : BitVec 64) (tagOk : Bool) (cmd : Cmd), exec (.netCmdReceive port ip udp keyId counter tagOk cmd) s =
      .next { s with hw := Hw.settle (s.hw.netCmd port ip.toNat udp keyId.toNat counter.toNat tagOk cmd) }) ∧
    (∀ (port : Port) (ip : Word) (udp : Nat) (msg : EnrolMsg), exec (.netSessionOpen port ip udp msg) s =
      .next { s with hw := Hw.settle (s.hw.sessionOpen port ip.toNat udp msg) }) ∧
    (exec .commandComplete s =
      .next { s with hw := Hw.settle s.hw.paramsDone.commandComplete }) ∧
    (exec .mbxTimeout s =
      .next { s with hw := Hw.settle s.hw.mbxTimeout }) ∧
    (exec .debugRelock s =
      .next { s with hw := Hw.settle s.hw.debugLock }) ∧
    (exec .debugLifetimeEnd s =
      .next { s with hw := Hw.settle s.hw.debugLifetimeEnd }) ∧
    (∀ (ball : Fin 1444) (value : Word), exec (.pinmuxWrite ball value) s =
      .next { s with hw := Hw.settle (s.hw.pinmuxWrite (0x400C0000 + 4 * ball.val) value.toNat 0x0A) }) ∧
    (∀ (m : Master) (size : Size) (addr : Word) (value : BitVec 64) (h : Hw), (s.hw.masterWrite m.toNat size addr.toNat value.toNat) = some h →
      exec (.registerWrite m size addr value) s = .next { s with hw := h.settle }) ∧
    (∀ (m : Master) (addr : Word) (write : Bool), exec (.regAccessTimeout m addr write) s =
      .next { s with hw := Hw.settle (s.hw.regTimeout m.toNat addr.toNat write) }) ∧
    (∀ (m : Fin 25) (write lock unlock : Bool) (addr : Word) (beats : Nat) (data : List Byte), exec (.xbarBurstRequest m write lock unlock addr beats data) s =
      .next { s with hw := Hw.settle (Hw.remoteSend 4 (s.hw.burstRequest m.val write lock unlock addr.toNat beats data)) }) ∧
    (∀ (t : Fin 51), exec (.xbarPieceGrant t) s =
      .next { s with hw := Hw.settle (Hw.remoteSend 4 (s.hw.pieceGrant t.val)) }) ∧
    (∀ (t : Fin 51) (ecc : Option Bool) (h : Hw), (s.hw.pieceResponse t.val ecc) = some h →
      exec (.xbarPieceResponse t ecc) s = .next { s with hw := h.settle }) ∧
    (∀ (t : Fin 51), exec (.lockBreak t) s =
      .next { s with hw := Hw.settle (s.hw.lockBreak t.val) }) ∧
    (∀ (t : Fin 51) (m : Fin 25), exec (.lockRetry t m) s =
      .next { s with hw := Hw.settle (s.hw.lockRetry t.val m.val) }) ∧
    (∀ (t : Fin 51) (m : Fin 25), exec (.lockWaitExpire t m) s =
      .next { s with hw := Hw.settle (s.hw.lockWaitExpire t.val m.val) }) ∧
    (∀ (m : Fin 25), exec (.masterResetDuringBurst m) s =
      .next { s with hw := Hw.settle (s.hw.masterReset m.val) }) ∧
    (∀ (w : Fin 16) (tag : Nat), exec (.windowTimeout w tag) s =
      .next { s with hw := Hw.settle (Hw.remoteSend 4 (s.hw.windowTimeout w.val tag)) }) ∧
    (∀ (w : Fin 16), exec (.winStatClear w) s =
      .next { s with hw := Hw.settle (s.hw.winStatClear w.val) }) ∧
    (∀ (c : Fin 16) (m : Master) (value : Word), exec (.dmaChEnable c m value) s =
      .next { s with hw := Hw.settle (s.hw.dmaCfgWrite c.val m.toNat value.toNat) }) ∧
    (∀ (c : Fin 16), exec (.dmaDoorbell c) s =
      .next { s with hw := Hw.settle (s.hw.dmaDoorbell c.val) }) ∧
    (∀ (c : Fin 16) (err : Bool), exec (.dmaDescFetch c err) s =
      .next { s with hw := Hw.settle (s.hw.dmaDescFetch c.val err) }) ∧
    (∀ (c : Fin 16) (outcome : Fin 4) (torn broken : Bool) (ecc : Option Ecc), exec (.dmaDescComplete c outcome torn broken ecc) s =
      .next { s with hw := Hw.settle (s.hw.dmaDescComplete c.val outcome.val torn broken ecc) }) ∧
    (∀ (c : Fin 16), exec (.dmaAbort c) s =
      .next { s with hw := Hw.settle (s.hw.dmaAbort c.val) })

/-- Each of the Proed commands completes: it answers the next state in which its own operation has run on the hardware
and the fault unit has recorded what it raised, with the queue as it was. REG_WRITE: where the register writes change
no reserved field. -/
def Obligations.ProedComplete : Prop :=
  ∀ s : State,
    (exec .sysInfo s =
      .next { s with hw := Hw.settle s.hw.sysInfo }) ∧
    (exec .sysStatus s =
      .next { s with hw := Hw.settle s.hw.sysStatus }) ∧
    (∀ (scope : Nat), exec (.sysReset scope) s =
      .next { s with hw := Hw.settle (s.hw.sysReset scope) }) ∧
    (∀ (offset total : Nat), exec (.planLoad offset total) s =
      .next { s with hw := Hw.settle (s.hw.planLoad offset total) }) ∧
    (exec .planCheck s =
      .next { s with hw := Hw.settle s.hw.planCheck }) ∧
    (∀ (earliest : Option Nat), exec (.planCommit earliest) s =
      .next { s with hw := Hw.settle (s.hw.planCommit earliest) }) ∧
    (∀ (recId : Nat) (engine : Nat) (core : Fin 10), exec (.planMove recId engine core) s =
      .next { s with hw := Hw.settle (s.hw.planMove recId engine core.val) }) ∧
    (∀ (r : Range), exec (.dealRead r) s =
      .next { s with hw := Hw.settle (s.hw.dealRead r) }) ∧
    (∀ (mtype mver : Nat), exec (.moduleInfo mtype mver) s =
      .next { s with hw := Hw.settle (s.hw.moduleInfo mtype mver) }) ∧
    (∀ (p : ParamArg) (cm : Option CommitAt), exec (.paramSet p cm) s =
      .next { s with hw := Hw.settle (s.hw.paramSet [p] cm false) }) ∧
    (∀ (recId index : Nat) (paramId : Word), exec (.paramGet recId index paramId) s =
      .next { s with hw := Hw.settle (s.hw.paramGet recId index paramId.toNat) }) ∧
    (∀ (ps : List ParamArg) (cm : Option CommitAt), exec (.paramSetMulti ps cm) s =
      .next { s with hw := Hw.settle (s.hw.paramSet ps cm true) }) ∧
    (∀ (path : Nat) (bank : Bool) (sets : List (List Word)), exec (.coefLoad path bank sets) s =
      .next { s with hw := Hw.settle (s.hw.coefLoad path bank sets) }) ∧
    (∀ (recId : Nat) (paths : Range) (c : CommitAt), exec (.bankSwap recId paths c) s =
      .next { s with hw := Hw.settle (s.hw.bankSwap recId paths c) }) ∧
    (∀ (r : Range), exec (.meterSnap r) s =
      .next { s with hw := Hw.settle (s.hw.meterSnap r) }) ∧
    (∀ (r : Range), exec (.meterHold r) s =
      .next { s with hw := Hw.settle (s.hw.meterHold r) }) ∧
    (∀ (r : Range) (what : Word), exec (.meterClear r what) s =
      .next { s with hw := Hw.settle (s.hw.meterClear r what.toNat) }) ∧
    (∀ (recId : Nat) (kind : Nat) (r : Range), exec (.measRead recId kind r) s =
      .next { s with hw := Hw.settle (s.hw.measRead recId kind r) }) ∧
    (exec .timeStatus s =
      .next { s with hw := Hw.settle s.hw.timeStatus }) ∧
    (exec .timeRetime s =
      .next { s with hw := Hw.settle s.hw.timeRetime }) ∧
    (exec .clkStatus s =
      .next { s with hw := Hw.settle s.hw.clkStatus }) ∧
    (∀ (r : Range), exec (.streamStatus r) s =
      .next { s with hw := Hw.settle (s.hw.streamStatus r) }) ∧
    (∀ (r : Range), exec (.sinkStatus r) s =
      .next { s with hw := Hw.settle (s.hw.sinkStatus r) }) ∧
    (exec .tableStatus s =
      .next { s with hw := Hw.settle s.hw.tableStatus }) ∧
    (∀ (e : Enrol), exec (.tableEnrol e) s =
      .next { s with hw := Hw.settle (s.hw.tableEnrol e) }) ∧
    (exec .twinStatus s =
      .next { s with hw := Hw.settle s.hw.twinStatus }) ∧
    (exec .twinSwitch s =
      .next { s with hw := Hw.settle s.hw.twinSwitch }) ∧
    (exec .faultRead s =
      .next { s with hw := Hw.settle s.hw.faultRead }) ∧
    (∀ (what : Word), exec (.faultClear what) s =
      .next { s with hw := Hw.settle (s.hw.faultClearCmd what.toNat) }) ∧
    (∀ (r : Range), exec (.traceRead r) s =
      .next { s with hw := Hw.settle (s.hw.traceRead r) }) ∧
    (exec .traceCollect s =
      .next { s with hw := Hw.settle s.hw.traceCollect }) ∧
    (exec .traceRelease s =
      .next { s with hw := Hw.settle s.hw.traceRelease }) ∧
    (∀ (bytes : List Byte), exec (.traceMark bytes) s =
      .next { s with hw := Hw.settle (s.hw.traceMark bytes) }) ∧
    (∀ (mode : Nat) (mask : Word) (force : Nat), exec (.bistRun mode mask force) s =
      .next { s with hw := Hw.settle (s.hw.bistRun mode mask.toNat force) }) ∧
    (∀ (image : List Byte), exec (.fwUpdate image) s =
      .next { s with hw := Hw.settle (s.hw.fwUpdate image) }) ∧
    (exec .certRead s =
      .next { s with hw := Hw.settle s.hw.certRead }) ∧
    (exec .debugChallenge s =
      .next { s with hw := Hw.settle s.hw.debugChallenge }) ∧
    (∀ (pub : List Byte) (lifetime : Nat) (sig : List Byte), exec (.debugUnlock pub lifetime sig) s =
      .next { s with hw := Hw.settle (s.hw.debugUnlock pub lifetime sig) }) ∧
    (∀ (addr : Word) (count : Nat), exec (.regRead addr count) s =
      .next { s with hw := Hw.settle (s.hw.regReadCmd addr.toNat count) }) ∧
    (∀ (addr : Word) (words : List Word) (h : Hw), (s.hw.regWriteCmd addr.toNat words) = some h →
      exec (.regWrite addr words) s = .next { s with hw := h.settle }) ∧
    (∀ (pub : List Byte), exec (.ownerKeyProgram pub) s =
      .next { s with hw := Hw.settle (s.hw.ownerKey pub) }) ∧
    (∀ (keyId : Word) (key : List Byte), exec (.netKeySet keyId key) s =
      .next { s with hw := Hw.settle (s.hw.netKeySet keyId.toNat key) })

/-- Each of the plan, deal, table, house, enrolment and key commands completes: it answers the next state in which its
own operation has run on the hardware and the fault unit has recorded what it raised, with the queue as it was. -/
def Obligations.DealTableComplete : Prop :=
  ∀ s : State,
    (∀ (share : Share), exec (.prepare share) s =
      .next { s with hw := Hw.settle (s.hw.prepare share) }) ∧
    (∀ (engine : Nat) (digest : Word), exec (.ready engine digest) s =
      .next { s with hw := Hw.settle (s.hw.ready engine) }) ∧
    (∀ (engine : Nat) (reason : Nat), exec (.unready engine reason) s =
      .next { s with hw := Hw.settle (s.hw.unready engine reason) }) ∧
    (exec .prepareDeadline s =
      .next { s with hw := Hw.settle s.hw.prepareDeadline }) ∧
    (∀ (number : Nat), exec (.commit number) s =
      .next { s with hw := Hw.settle (s.hw.commit number) }) ∧
    (∀ (number : Nat), exec (.abort number) s =
      .next { s with hw := Hw.settle (s.hw.abort number) }) ∧
    (∀ (engine : Nat) (stage : Nat), exec (.ack engine stage) s =
      .next { s with hw := Hw.settle (s.hw.ack engine stage) }) ∧
    (exec .prepareTimeout s =
      .next { s with hw := Hw.settle s.hw.prepareTimeout }) ∧
    (exec .stagePush s =
      .next { s with hw := Hw.settle s.hw.stagePush }) ∧
    (exec .liveRedealWarmEnd s =
      .next { s with hw := Hw.settle s.hw.moveWarmEnd }) ∧
    (exec .testSeatRotate s =
      .next { s with hw := Hw.settle (s.hw.seatRotate).seatTest }) ∧
    (∀ (c : Ctrl) (links : List (Nat × Nat)), exec (.topo c links) s =
      .next { s with hw := Hw.settle (s.hw.topoRx c links) }) ∧
    (exec .topoSend s =
      .next { s with hw := Hw.settle s.hw.topoSend }) ∧
    (∀ (c : Ctrl) (cmd : Cmd), exec (.proedCmd c cmd) s =
      .next { s with hw := Hw.settle (s.hw.proedCmd c cmd) }) ∧
    (∀ (c : Ctrl) (status : BitVec 16) (seq : BitVec 16), exec (.proedRsp c status seq) s =
      .next { s with hw := Hw.settle (s.hw.proedRspRx c status.toNat seq.toNat) }) ∧
    (∀ (c : Ctrl) (role twin : Nat) (epoch : Word) (mtype : Nat) (counter : Nat), exec (.staleRole c role twin epoch mtype counter) s =
      .next { s with hw := Hw.settle (s.hw.staleRx c role twin epoch.toNat mtype counter) }) ∧
    (exec .tableBeatSend s =
      .next { s with hw := Hw.settle s.hw.beatSend }) ∧
    (∀ (c : Ctrl), exec (.tableBeat c) s =
      .next { s with hw := Hw.settle (s.hw.beatRx c) }) ∧
    (∀ (c : Ctrl) (sysState : Word) (deal : Nat) (digest : Word), exec (.beatAck c sysState deal digest) s =
      .next { s with hw := Hw.settle (s.hw.beatAck c sysState.toNat deal digest) }) ∧
    (exec .tableFreeze s =
      .next { s with hw := Hw.settle s.hw.tableFreeze }) ∧
    (∀ (engine : Nat), exec (.beatAckTimeout engine) s =
      .next { s with hw := Hw.settle (s.hw.beatAckTimeout engine) }) ∧
    (∀ (c : Ctrl), exec (.healthPoll c) s =
      .next { s with hw := Hw.settle (s.hw.healthPoll c) }) ∧
    (∀ (c : Ctrl), exec (.healthRsp c) s =
      .next { s with hw := Hw.settle (s.hw.healthRsp c) }) ∧
    (∀ (engine : Nat), exec (.healthPollTimeout engine) s =
      .next { s with hw := Hw.settle (s.hw.healthPollTimeout engine) }) ∧
    (∀ (c : Ctrl) (subject cls : Nat) (stream : Word) (count t64 : Nat), exec (.faultReport c subject cls stream count t64) s =
      .next { s with hw := Hw.settle (s.hw.faultReportRx c subject cls stream.toNat count t64) }) ∧
    (∀ (subject cls : Nat) (stream : Word), exec (.reportWindowClose subject cls stream) s =
      .next { s with hw := Hw.settle (s.hw.windowClose subject cls stream.toNat) }) ∧
    (exec .causeSummarySend s =
      .next { s with hw := Hw.settle s.hw.summarySend }) ∧
    (∀ (c : Ctrl) (cause : Cause), exec (.causeSummary c cause) s =
      .next { s with hw := Hw.settle (s.hw.summaryRx c cause) }) ∧
    (∀ (c : Ctrl), exec (.traceReq c) s =
      .next { s with hw := Hw.settle (s.hw.traceReq c) }) ∧
    (∀ (c : Ctrl) (records : List (List Byte)), exec (.traceData c records) s =
      .next { s with hw := Hw.settle (s.hw.traceData c records) }) ∧
    (∀ (link : Fin 13) (id : HouseId), exec (.announce link id) s =
      .next { s with hw := Hw.settle (s.hw.announceRx link.val id) }) ∧
    (exec .announceSend s =
      .next { s with hw := Hw.settle s.hw.announceSend }) ∧
    (exec .houseElectionTimeout s =
      .next { s with hw := Hw.settle s.hw.electionTimeout }) ∧
    (∀ (link : Fin 13) (id : HouseId), exec (.houseBeat link id) s =
      .next { s with hw := Hw.settle (s.hw.houseBeatRx link.val id) }) ∧
    (exec .houseBeatSend s =
      .next { s with hw := Hw.settle s.hw.houseBeatSend }) ∧
    (exec .tableWithdrawEnd s =
      .next { s with hw := Hw.settle s.hw.withdrawEnd }) ∧
    (∀ (link : Fin 13) (m : EnrolMsg), exec (.enrolHello link m) s =
      .next { s with hw := Hw.settle (s.hw.enrolHello link.val m) }) ∧
    (∀ (link : Fin 13) (m : EnrolMsg), exec (.enrolReply link m) s =
      .next { s with hw := Hw.settle (s.hw.enrolReply link.val m) }) ∧
    (∀ (link : Fin 13) (sig : List Byte) (seat : Nat) (tableIdx : Fin 16) (keyId : Word) (key : List Byte), exec (.enrolFinish link sig seat tableIdx keyId key) s =
      .next { s with hw := Hw.settle (s.hw.enrolFinish link.val sig seat tableIdx.val keyId.toNat key) }) ∧
    (∀ (link : Fin 13) (tagOk : Bool), exec (.enrolDone link tagOk) s =
      .next { s with hw := Hw.settle (s.hw.enrolled1 link.val tagOk) }) ∧
    (∀ (link : Fin 13), exec (.enrolTimeout link) s =
      .next { s with hw := Hw.settle (s.hw.enrolTimeout link.val) }) ∧
    (∀ (c : Ctrl) (linkIdx : Nat), exec (.peerSeen c linkIdx) s =
      .next { s with hw := Hw.settle (s.hw.peerSeen c linkIdx) }) ∧
    (∀ (c : Ctrl), exec (.imageReq c) s =
      .next { s with hw := Hw.settle (s.hw.imageReq c) }) ∧
    (∀ (off : Nat) (bytes : List Byte), exec (.imageData off bytes) s =
      .next { s with hw := Hw.settle (s.hw.imageData off bytes) }) ∧
    (exec .gnogoLoadRetry s =
      .next { s with hw := Hw.settle s.hw.gnogoLoadRetry }) ∧
    (exec .tableKeyRotate s =
      .next { s with hw := Hw.settle s.hw.keyRotate }) ∧
    (exec .tableKeyActivate s =
      .next { s with hw := Hw.settle s.hw.keyActivate }) ∧
    (∀ (engine : Nat), exec (.pairwiseRekey engine) s =
      .next { s with hw := Hw.settle (s.hw.pairRekey engine) })

/-- Each of the network port, PTP, time unit, serial lane and Gnogo link commands completes: it answers the next state
in which its own operation has run on the hardware and the fault unit has recorded what it raised, with the queue as
it was. -/
def Obligations.NetTimeLinkComplete : Prop :=
  ∀ s : State,
    (∀ (port : Port) (f : Frame), exec (.netFrameReceive port f) s =
      .next { s with hw := Hw.settle (s.hw.netFrame port f) }) ∧
    (∀ (port : Port), exec (.netLinkDown port) s =
      .next { s with hw := Hw.settle (s.hw.netLinkDown port) }) ∧
    (∀ (port : Port) (q : Fin 8) (launch len : Nat), exec (.txEnqueue port q launch len) s =
      .next { s with hw := Hw.settle (s.hw.txEnqueue port q.val launch len) }) ∧
    (∀ (port : Port), exec (.txFrameStart port) s =
      .next { s with hw := Hw.settle (s.hw.txFrameStart port) }) ∧
    (∀ (port : Port), exec (.slotCycleStart port) s =
      .next { s with hw := Hw.settle (s.hw.slotCycleStart port) }) ∧
    (∀ (port : Port), exec (.slotSwapReq port) s =
      .next { s with hw := Hw.settle (s.hw.slotSwapReq port) }) ∧
    (∀ (port : Port) (msg : PtpMsg), exec (.ptpMessage port msg) s =
      .next { s with hw := Hw.settle (s.hw.ptpMessage port msg) }) ∧
    (∀ (port : Port), exec (.ptpAnnounceTimeout port) s =
      .next { s with hw := Hw.settle (s.hw.ptpTimeout port) }) ∧
    (∀ (port : Port) (kind : PtpSend), exec (.ptpMessageSend port kind) s =
      .next { s with hw := Hw.settle (s.hw.ptpSend port kind) }) ∧
    (∀ (ns : Word), exec (.servoMeasurement ns) s =
      .next { s with hw := Hw.settle (s.hw.servoMeasure ns.toNat).clkSync }) ∧
    (exec .servoMeasTimeout s =
      .next { s with hw := Hw.settle s.hw.servoTimeout.clkSync }) ∧
    (∀ (hold : Bool), exec (.servoHold hold) s =
      .next { s with hw := Hw.settle (s.hw.servoHold hold).clkSync }) ∧
    (∀ (en : Bool), exec (.servoEnable en) s =
      .next { s with hw := Hw.settle (s.hw.servoEnable en).clkSync }) ∧
    (exec .retimeStep s =
      .next { s with hw := Hw.settle s.hw.retimeStep.clkSync }) ∧
    (exec .retimeFlush s =
      .next { s with hw := Hw.settle s.hw.retimeFlush }) ∧
    (exec .retimeEnd s =
      .next { s with hw := Hw.settle s.hw.retimeEnd }) ∧
    (∀ (i : Fin 32) (value : Word), exec (.timerArm i value) s =
      .next { s with hw := Hw.settle (s.hw.timerArm i.val value.toNat) }) ∧
    (∀ (i : Fin 32), exec (.eventTimerFire i) s =
      .next { s with hw := Hw.settle ((s.hw.timerFire i.val).groupTimer i.val) }) ∧
    (∀ (j : Fin 16) (rise : Bool), exec (.captureEdge j rise) s =
      .next { s with hw := Hw.settle (s.hw.captureEdge j.val rise) }) ∧
    (∀ (j : Fin 16), exec (.capturePop j) s =
      .next { s with hw := Hw.settle (s.hw.capturePop j.val) }) ∧
    (∀ (n : Fin 8) (state : BitVec 2), exec (.laneStateReq n state) s =
      .next { s with hw := Hw.settle (s.hw.laneStateReq n.val state.toNat 0x0A) }) ∧
    (∀ (n : Fin 8), exec (.laneStateDone n) s =
      .next { s with hw := Hw.settle (s.hw.laneStateDone n.val) }) ∧
    (∀ (n : Fin 8) (errFree : BitVec 16), exec (.laneEqSweepDone n errFree) s =
      .next { s with hw := Hw.settle (s.hw.laneEqDone n.val errFree.toNat) }) ∧
    (∀ (k : Fin 13) (value : Word), exec (.gnogoLinkEnable k value) s =
      .next { s with hw := Hw.settle (s.hw.linkEnable k.val value.toNat) }) ∧
    (∀ (l : Link) (engineId : BitVec 16) (linkIdx : Byte) (receivedOk : Bool), exec (.train l engineId linkIdx receivedOk) s =
      .next { s with hw := Hw.settle (s.hw.trainRx l engineId.toNat linkIdx.toNat receivedOk) }) ∧
    (∀ (k : Fin 13), exec (.trainSend k) s =
      .next { s with hw := Hw.settle (s.hw.trainSend k.val) }) ∧
    (∀ (k : Fin 13), exec (.gnogoLinkDown k) s =
      .next { s with hw := Hw.settle (s.hw.gnogoDown k.val) }) ∧
    (∀ (l : Link) (dst : Nat) (hops : Nat) (brizu : List Byte), exec (.gnogoBlock l dst hops brizu) s =
      .next { s with hw := Hw.settle (s.hw.gnogoBlock l dst hops brizu) }) ∧
    (∀ (l : Link) (dst src tag : Nat) (beats : Nat) (off : Nat), exec (.wreq l dst src tag beats off) s =
      .next { s with hw := Hw.settle (s.hw.wreq l dst src tag beats off) }) ∧
    (∀ (l : Link) (dst src tag : Nat) (err : Bool) (data : List Byte), exec (.wrsp l dst src tag err data) s =
      .next { s with hw := Hw.settle (s.hw.wrsp l dst src tag err data) }) ∧
    (∀ (l : Link) (vc0 vc1 vc2 : Nat), exec (.credit l vc0 vc1 vc2) s =
      .next { s with hw := Hw.settle (s.hw.creditRx l vc0 vc1 vc2) }) ∧
    (∀ (k : Fin 13), exec (.gnogoCreditSend k) s =
      .next { s with hw := Hw.settle (s.hw.creditSend k.val) }) ∧
    (∀ (l : Link) (expected : BitVec 16), exec (.nak l expected) s =
      .next { s with hw := Hw.settle (s.hw.nakRx l expected.toNat) }) ∧
    (∀ (k : Fin 13), exec (.gnogoRetransmitTimeout k) s =
      .next { s with hw := Hw.settle (s.hw.retransmitTimeout k.val) }) ∧
    (∀ (l : Link) (reply : Bool) (t1 t2 t3 : Nat), exec (.ldm l reply t1 t2 t3) s =
      .next { s with hw := Hw.settle (s.hw.ldmRx l reply t1 t2 t3) }) ∧
    (∀ (k : Fin 13), exec (.ldmRequestSend k) s =
      .next { s with hw := Hw.settle (s.hw.ldmSend k.val) }) ∧
    (∀ (n : Fin 8) (fec : Bool), exec (.blockLockRegain n fec) s =
      .next { s with hw := Hw.settle (s.hw.blockLock n.val fec) }) ∧
    (∀ (n : Fin 8) (gained : Bool) (errs : Nat), exec (.prbsSync n gained errs) s =
      .next { s with hw := Hw.settle (s.hw.prbsSync n.val gained errs) })

/-- Each of the audio port, rate converter, reference, media clock, amplifier and boost commands completes: it answers
the next state in which its own operation has run on the hardware and the fault unit has recorded what it raised, with
the queue as it was. -/
def Obligations.PortClockAmpComplete : Prop :=
  ∀ s : State,
    (∀ (n : Fin 32) (value : Word), exec (.sapEnable n value) s =
      .next { s with hw := Hw.settle (s.hw.sapCtrl n.val value.toNat 0x0A) }) ∧
    (∀ (n : Fin 32) (edge : Nat) (valid : Bool) (slots : List Word), exec (.sapFrame n edge valid slots) s =
      .next { s with hw := Hw.settle (s.hw.sapFrame n.val edge valid slots) }) ∧
    (∀ (n : Fin 32), exec (.sapClkStop n) s =
      .next { s with hw := Hw.settle (s.hw.sapStop n.val) }) ∧
    (∀ (n : Fin 32) (rate : BitVec 4), exec (.sapRateChange n rate) s =
      .next { s with hw := Hw.settle (s.hw.sapRate n.val rate.toNat) }) ∧
    (∀ (n : Fin 32), exec (.sapSlotSwap n) s =
      .next { s with hw := Hw.settle (s.hw.sapSwapReq n.val) }) ∧
    (∀ (g : Fin 8), exec (.sapGroupArm g) s =
      .next { s with hw := Hw.settle (s.hw.groupArm g.val) }) ∧
    (∀ (g : Fin 8), exec (.sapGroupStart g) s =
      .next { s with hw := Hw.settle (s.hw.groupStart g.val) }) ∧
    (∀ (i : Fin 8) (edge : Nat) (z : Bool) (par1 par2 v1 v2 c1 c2 u1 u2 : Bool) (s1 s2 : BitVec 24), exec (.aesRxFrame i edge z par1 par2 v1 v2 c1 c2 u1 u2 s1 s2) s =
      .next { s with hw := Hw.settle (s.hw.aesFrame i.val edge z par1 par2 v1 v2 c1 c2 u1 u2 s1.toNat s2.toNat) }) ∧
    (∀ (i : Fin 8), exec (.aesRxBlock i) s =
      .next { s with hw := Hw.settle (s.hw.aesBlock i.val) }) ∧
    (∀ (i : Fin 8), exec (.aesClkStop i) s =
      .next { s with hw := Hw.settle (s.hw.aesStop i.val) }) ∧
    (∀ (j : Fin 8), exec (.aesTxFrame j) s =
      .next { s with hw := Hw.settle (s.hw.aesTx j.val) }) ∧
    (∀ (j : Fin 8), exec (.aesTxCsSwap j) s =
      .next { s with hw := Hw.settle (s.hw.aesTxSwapReq j.val) }) ∧
    (∀ (c : Fin 128) (value : Word), exec (.asrcEnable c value) s =
      .next { s with hw := Hw.settle (s.hw.asrcCtrl c.val value.toNat) }) ∧
    (∀ (c : Fin 128) (ratio : Word), exec (.asrcLock c ratio) s =
      .next { s with hw := Hw.settle (s.hw.asrcLock c.val ratio.toNat) }) ∧
    (∀ (c : Fin 128) (ratio : Word), exec (.asrcRange c ratio) s =
      .next { s with hw := Hw.settle (s.hw.asrcRange c.val ratio.toNat) }) ∧
    (∀ (refs : List RefSample), exec (.refMeasure refs) s =
      .next { s with hw := Hw.settle (s.hw.refMeasure refs).clkWaiting }) ∧
    (∀ (r : Fin 15), exec (.refLost r) s =
      .next { s with hw := Hw.settle (s.hw.refLost r.val).clkWaiting }) ∧
    (∀ (r : Fin 15), exec (.refWtrExpire r) s =
      .next { s with hw := Hw.settle (s.hw.refWtrExpire r.val) }) ∧
    (exec .refDwellEnd s =
      .next { s with hw := Hw.settle s.hw.refDwellEnd }) ∧
    (∀ (theta : Int), exec (.refSwitchComplete theta) s =
      .next { s with hw := Hw.settle (s.hw.switchComplete theta) }) ∧
    (exec .holdoverLimit s =
      .next { s with hw := Hw.settle s.hw.holdoverLimit }) ∧
    (exec .dpllUnlock s =
      .next { s with hw := Hw.settle s.hw.dpllUnlock }) ∧
    (∀ (en : Bool), exec (.clkSelectorEnable en) s =
      .next { s with hw := Hw.settle (s.hw.clkCtrl (setBits (BitVec.ofNat 32 s.hw.clkWord) 0 1 (b2n en)).toNat 0x0A) }) ∧
    (∀ (isOpen : Bool), exec (.clkOpenLoop isOpen) s =
      .next { s with hw := Hw.settle (s.hw.clkCtrl (setBits (BitVec.ofNat 32 s.hw.clkWord) 2 1 (b2n isOpen)).toNat 0x0A) }) ∧
    (∀ (en : Bool) (r : BitVec 4), exec (.clkForce en r) s =
      .next { s with hw := Hw.settle (s.hw.clkCtrl (setBits (setBits (BitVec.ofNat 32 s.hw.clkWord) 3 1 (b2n en)) 4 4 r.toNat).toNat 0x0A) }) ∧
    (exec .dpllLock s =
      .next { s with hw := Hw.settle s.hw.dpllLock }) ∧
    (∀ (c : Fin 16) (value : Word), exec (.ampChannelEnable c value) s =
      .next { s with hw := Hw.settle (s.hw.ampCtrl c.val value.toNat) }) ∧
    (∀ (c : Fin 16), exec (.ampStart c) s =
      .next { s with hw := Hw.settle (s.hw.ampStart c.val) }) ∧
    (∀ (c : Fin 16), exec (.ampOpenLoopHoldEnd c) s =
      .next { s with hw := Hw.settle (s.hw.ampHoldEnd c.val) }) ∧
    (∀ (c : Fin 16), exec (.ampCloseLoop c) s =
      .next { s with hw := Hw.settle (s.hw.ampCloseLoop c.val) }) ∧
    (∀ (c : Fin 16), exec (.ampFadeInEnd c) s =
      .next { s with hw := Hw.settle (s.hw.ampFadeInEnd c.val) }) ∧
    (∀ (c : Fin 16), exec (.ampStop c) s =
      .next { s with hw := Hw.settle (s.hw.ampStop c.val) }) ∧
    (∀ (c : Fin 16), exec (.ampStopFadeEnd c) s =
      .next { s with hw := Hw.settle (s.hw.ampStopFadeEnd c.val) }) ∧
    (∀ (c : Fin 16), exec (.ampGatesOff c) s =
      .next { s with hw := Hw.settle (s.hw.ampGatesOff c.val) }) ∧
    (∀ (c : Fin 16), exec (.ampTrip c) s =
      .next { s with hw := Hw.settle (s.hw.ampTrip c.val 1 false) }) ∧
    (∀ (c : Fin 16), exec (.ampDriverFault c) s =
      .next { s with hw := Hw.settle (s.hw.ampTrip c.val 2 false) }) ∧
    (∀ (c : Fin 16), exec (.ampDcTrip c) s =
      .next { s with hw := Hw.settle (s.hw.ampDcTrip c.val) }) ∧
    (∀ (c : Fin 16), exec (.ampRetry c) s =
      .next { s with hw := Hw.settle (s.hw.ampRetry c.val) }) ∧
    (∀ (c : Fin 16), exec (.ampUnlatch c) s =
      .next { s with hw := Hw.settle (s.hw.ampUnlatch c.val) }) ∧
    (∀ (g : Fin 4), exec (.boostOvp g) s =
      .next { s with hw := Hw.settle (s.hw.boostOvp g.val) }) ∧
    (∀ (g : Fin 4), exec (.boostTrack g) s =
      .next { s with hw := Hw.settle (s.hw.boostTrack g.val) }) ∧
    (∀ (g : Fin 4), exec (.boostThermWarn g) s =
      .next { s with hw := Hw.settle (s.hw.thermWarn g.val) }) ∧
    (∀ (g : Fin 4), exec (.boostThermTrip g) s =
      .next { s with hw := Hw.settle (s.hw.thermTrip g.val) }) ∧
    (∀ (g : Fin 4), exec (.boostOvpRelease g) s =
      .next { s with hw := Hw.settle (s.hw.boostOvpEnd g.val) }) ∧
    (∀ (g : Fin 4), exec (.boostThermClear g) s =
      .next { s with hw := Hw.settle (s.hw.thermClear g.val) })

/-- Each of the twin, fault, adaptive voltage, monitor, self-test and test access port commands completes: it answers
the next state in which its own operation has run on the hardware and the fault unit has recorded what it raised, with
the queue as it was. -/
def Obligations.TwinFaultMonitorComplete : Prop :=
  ∀ s : State,
    (∀ (act health : Bool), exec (.twinPeerPin act health) s =
      .next { s with hw := Hw.settle (s.hw.peerPin act health) }) ∧
    (exec .healthFall s =
      .next { s with hw := Hw.settle s.hw.healthLost }) ∧
    (exec .twinClaim s =
      .next { s with hw := Hw.settle s.hw.twinClaim }) ∧
    (exec .twinGateHoldEnd s =
      .next { s with hw := Hw.settle s.hw.gateHoldEnd }) ∧
    (∀ (c : Ctrl) (b : Beat), exec (.twinBeat c b) s =
      .next { s with hw := Hw.settle (s.hw.twinBeat c b) }) ∧
    (exec .twinBeatTimeout s =
      .next { s with hw := Hw.settle s.hw.twinBeatTimeout }) ∧
    (exec .twinTakeover s =
      .next { s with hw := Hw.settle s.hw.twinTakeover }) ∧
    (∀ (c : Ctrl) (hh : TwinHealth), exec (.twinHealth c hh) s =
      .next { s with hw := Hw.settle (s.hw.twinHealthRx c hh) }) ∧
    (exec .twinHealthSend s =
      .next { s with hw := Hw.settle s.hw.twinHealthSend }) ∧
    (∀ (c : Ctrl) (tick cause : Nat), exec (.twinYield c tick cause) s =
      .next { s with hw := Hw.settle (s.hw.twinYield c tick cause) }) ∧
    (∀ (c : Ctrl) (sq : Nat), exec (.twinSwitchReq c sq) s =
      .next { s with hw := Hw.settle (s.hw.switchReq c sq) }) ∧
    (∀ (c : Ctrl) (sq : Nat), exec (.twinSwitchAck c sq) s =
      .next { s with hw := Hw.settle (s.hw.switchAck c sq) }) ∧
    (exec .twinSwitchAtTick s =
      .next { s with hw := Hw.settle s.hw.twinSwitchTick }) ∧
    (∀ (c : Ctrl) (recId off len : Nat), exec (.twinSyncReq c recId off len) s =
      .next { s with hw := Hw.settle (s.hw.syncReq c recId off len) }) ∧
    (∀ (c : Ctrl) (recId off len : Nat) (data : List Byte) (last : Bool), exec (.twinSyncData c recId off len data last) s =
      .next { s with hw := Hw.settle (s.hw.syncData c recId off len data last) }) ∧
    (∀ (source : BitVec 8) (code : Byte) (context : BitVec 64), exec (.faultEvent source code context) s =
      .next { s with hw := Hw.settle (s.hw.faultEvent source.toNat code.toNat context.toNat) }) ∧
    (∀ (r : Fin 8), exec (.shadowWindowClose r) s =
      .next { s with hw := Hw.settle (s.hw.shadowClose r.val) }) ∧
    (∀ (conditionsClear : Bool) (boostOk : BitVec 4), exec (.quietPeriodEnd conditionsClear boostOk) s =
      .next { s with hw := Hw.settle (s.hw.quietEnd conditionsClear boostOk.toNat) }) ∧
    (∀ (core : Fin 10) (pass : Bool), exec (.recoveryTestDone core pass) s =
      .next { s with hw := Hw.settle (s.hw.testDone core.val pass) }) ∧
    (∀ (complete : Bool), exec (.scrubPeriodEnd complete) s =
      .next { s with hw := Hw.settle (s.hw.scrubEnd complete) }) ∧
    (∀ (peg : Bool), exec (.watchdogExpire peg) s =
      .next { s with hw := Hw.settle (s.hw.watchdog peg) }) ∧
    (∀ (bent : Fin 2) (low high : Bool) (fault : Bool), exec (.avsSample bent low high fault) s =
      .next { s with hw := Hw.settle (s.hw.avsSample bent.val low high fault) }) ∧
    (∀ (bent : Fin 2) (mv : Nat) (fault : Bool), exec (.avsVoutCheck bent mv fault) s =
      .next { s with hw := Hw.settle (s.hw.avsVout bent.val fault) }) ∧
    (∀ (bent : Fin 2), exec (.bentAvs bent) s =
      .next { s with hw := Hw.settle (s.hw.bentAvs bent.val) }) ∧
    (∀ (rail : Fin 14) (mv : Nat), exec (.monSupply rail mv) s =
      .next { s with hw := Hw.settle (s.hw.monSupply rail.val mv) }) ∧
    (∀ (t16 : Int), exec (.monTj t16) s =
      .next { s with hw := Hw.settle (s.hw.monTj t16) }) ∧
    (∀ (loss : List Nat), exec (.ageingMeasure loss) s =
      .next { s with hw := Hw.settle (s.hw.ageing loss) }) ∧
    (∀ (loss : List Nat), exec (.ageingMeasureNow loss) s =
      .next { s with hw := Hw.settle (s.hw.ageingNow loss) }) ∧
    (∀ (m : Master) (mode : Bool), exec (.bistStart m mode) s =
      .next { s with hw := Hw.settle (s.hw.bistStart mode m.toNat) }) ∧
    (∀ (items : List BistItem) (aborted : Bool), exec (.bistDone items aborted) s =
      .next { s with hw := Hw.settle (s.hw.bistDone items aborted) }) ∧
    (exec .bypass s =
      .next { s with hw := Hw.settle (s.hw.tapIr .bypass 0) }) ∧
    (exec .idcode s =
      .next { s with hw := Hw.settle (s.hw.tapIr .idcode idcodeWord) }) ∧
    (∀ (cells : List Bool), exec (.samplePreload cells) s =
      .next { s with hw := Hw.settle (s.hw.tapSample cells) }) ∧
    (exec .extest s =
      .next { s with hw := Hw.settle (s.hw.tapIr .extest 0) }) ∧
    (exec .clamp s =
      .next { s with hw := Hw.settle (s.hw.tapIr .clamp 0) }) ∧
    (exec .highz s =
      .next { s with hw := Hw.settle (s.hw.tapIr .highz 0) }) ∧
    (∀ (write : Bool) (off : BitVec 12) (value : Word), exec (.tapBistAccess write off value) s =
      .next { s with hw := Hw.settle (s.hw.tapBist write off.toNat value.toNat) }) ∧
    (exec .tapEngineReset s =
      .next { s with hw := Hw.settle s.hw.tapReset }) ∧
    (exec .trstNReset s =
      .next { s with hw := Hw.settle s.hw.trst })

/-- TRUSS_STORE, TRUSS_STEP, REG_WRITE and XBAR_PIECE_RESPONSE complete. TRUSS_STORE of a core that runs, with every active
lane's address in its space and in memory: the words of active lanes that do not overlap stand in memory in little-endian
order, every other byte stays, the core holds the pointer after its post-modify and is one bundle further, and the registers
stay. TRUSS_STEP runs the bundle of a halted task, here one with an execute slot alone or an immediate bundle, and clears
TRUSS_CTRL.step; it does nothing else where no halted task is. REG_WRITE of words in memory stores them in little-endian order
and answers S_OK; of a register it makes the register bus write, where that changes no reserved field and steps no core; a
locked debug window answers S_LOCKED. XBAR_PIECE_RESPONSE of a piece in memory stores its bytes or returns them to its master;
with no piece in flight it does nothing. -/
def Obligations.StoreStepWritePiece : Prop :=
  ∀ s : State, s.hw.quiet = true →
    (∀ (n : Fin 10) (m : MemArgs) (o : MemOp) (md : PtrMode) (place : Nat → Nat),
      s.hw.bare n.val = true → s.nonePosted → memDec m = some o →
      ptrMode ((s.hw.core n.val).lg o.ptr) = some md →
      let c := s.hw.core n.val
      (∀ i ∈ c.active 0, o.space.ok (c.laneAddr o md i) = true ∧
        s.hw.storePlace n.val o.space i (c.laneAddr o md i) = some (place i)) →
      ∃ t, exec (.trussStore n m) s = .next t ∧
        ((∀ i ∈ c.active 0, ∀ j ∈ c.active 0, i ≠ j → place i + 4 ≤ place j ∨ place j + 4 ≤ place i) →
          ∀ i ∈ c.active 0, ∀ k < 4, t.hw.rd8 (place i + k) = BitVec.ofNat 8 ((c.vg o.v i).toNat / 256 ^ k)) ∧
        (∀ x, (∀ i ∈ c.active 0, x < place i ∨ place i + 4 ≤ x) → t.hw.rd8 x = s.hw.rd8 x) ∧
        t.hw.core n.val = (s.hw.ran n.val (c.pp o.ptr
          (if o.post = .none then c.pg o.ptr else ptrPost md (c.pg o.ptr) (c.postAmount o.post)))).core n.val ∧
        t.hw.regs = s.hw.regs ∧ t.pending = s.pending) ∧
    (∀ n : Fin 10, (s.hw.core n.val).halted = false ∨ (s.hw.core n.val).entry = none → s.nonePosted →
      exec (.trussStep n) s = .next { s with hw :=
        ((s.hw.s1 (Reg.TRUSS_CTRL_step n.val)).s0 (Reg.TRUSS_CTRL_step n.val)).drive }) ∧
    (∀ (n : Fin 10) (i : Nat) (b : Bundle), s.nonePosted →
      (s.hw.core n.val).halted = true → (s.hw.core n.val).entry = some i → (s.hw.core n.val).trapped = false →
      (s.hw.core n.val).pend = [] → (s.hw.core n.val).loops = [] →
      (s.hw.core n.val).cycles + 1 < (s.hw.tlEntry n.val i).budget →
      decBundle (s.hw.rdN (0x21080000 + n.val * 0x100000 + 8 * (s.hw.core n.val).pc) 8) = some b →
      (∀ x : XOp, b = .exec x none none → (∀ p ∈ x.ptrs, (ptrMode ((s.hw.core n.val).lg p)).isSome = true) →
        exec (.trussStep n) s = .next { s with hw :=
          (((s.hw.s1 (Reg.TRUSS_CTRL_step n.val)).ran n.val (x.run (s.hw.core n.val))).s0
            (Reg.TRUSS_CTRL_step n.val)).drive }) ∧
      (∀ (d : Nat) (w : Word), b = .imm d w → d < 0x10 →
        exec (.trussStep n) s = .next { s with hw :=
          (((s.hw.s1 (Reg.TRUSS_CTRL_step n.val)).ran n.val ((s.hw.core n.val).pp d w)).s0
            (Reg.TRUSS_CTRL_step n.val)).drive })) ∧
    (∀ (r : MbxRun) (a : Word) (ws : List Word), s.hw.mbx.run = some r → r.opcode = 0xC02 → r.result = none →
      let answer : Nat → Hw → Hw := fun status h =>
        { h with mbx := { s.hw.mbx with run := some { r with result := some (status, []) } } }
      (s.hw.g Reg.SYS_DEBUG_unlocked = 0 →
        exec (.regWrite a ws) s = .next { s with hw := (answer 0x14 s.hw).drive }) ∧
      (s.hw.g Reg.SYS_DEBUG_unlocked ≠ 0 → a.toNat % 4 = 0 →
        (∀ k < ws.length, s.hw.place 0x0A false (a.toNat + 4 * k) = .mem (a.toNat + 4 * k)) →
        ∃ t, exec (.regWrite a ws) s = .next t ∧ t.hw.mbx = (answer 0 s.hw).mbx ∧
          (∀ (k : Nat) (hk : k < ws.length), ∀ j < 4,
            t.hw.rd8 (a.toNat + 4 * k + j) = BitVec.ofNat 8 (ws[k].toNat / 256 ^ j)) ∧
          (∀ x, x < a.toNat ∨ a.toNat + 4 * ws.length ≤ x → t.hw.rd8 x = s.hw.rd8 x) ∧ t.hw.regs = s.hw.regs) ∧
      (∀ (w : Word) (b : Nat), ws = [w] → s.hw.g Reg.SYS_DEBUG_unlocked ≠ 0 → a.toNat % 4 = 0 →
        s.hw.place 0x0A false a.toNat = .reg b → s.hw.stalls b = false → s.hw.rsvBad b w.toNat = false →
        stepsCore b w.toNat = false → b ≠ 0x40200000 →
        exec (.regWrite a ws) s = .next { s with hw := ((s.hw.regRule b w.toNat 0x0A).result 0 []).settle })) ∧
    (∀ (n : Fin 51) (ecc : Option Bool),
      ((s.hw.arb n.val).inFlight = none → exec (.xbarPieceResponse n ecc) s = .next { s with hw := s.hw.drive }) ∧
      (∀ (p : Piece) (b : Nat), (s.hw.arb n.val).inFlight = some p → n.val ≠ 0x32 → p.len ≠ 0 →
        s.hw.place p.master p.dealer p.addr = .mem b →
        (p.write = true → exec (.xbarPieceResponse n ecc) s = .next { s with hw :=
          (Hw.remoteSend 4 ((s.hw.wrBytes b p.data).pieceOk n.val p [])).settle }) ∧
        (p.write = false → ecc = none → exec (.xbarPieceResponse n ecc) s = .next { s with hw :=
          (Hw.remoteSend 4 (s.hw.pieceOk n.val p (s.hw.rdBytes b p.len))).settle })))
end

