-- ==== Sys2Proof/Laws/State.lean ====
section
/-! SUPPORT. What each update of the hardware leaves of each field: one lemma a field an update. -/

namespace Sys2Proof.Machine

@[simp] theorem Hw.p_t64 (h : Hw) (f : RF) (v : Nat) : (h.p f v).t64 = h.t64 := rfl
@[simp] theorem Hw.p_sub (h : Hw) (f : RF) (v : Nat) : (h.p f v).sub = h.sub := rfl
@[simp] theorem Hw.p_pins (h : Hw) (f : RF) (v : Nat) : (h.p f v).pins = h.pins := rfl
@[simp] theorem Hw.p_mem (h : Hw) (f : RF) (v : Nat) : (h.p f v).mem = h.mem := rfl
@[simp] theorem Hw.p_flash (h : Hw) (f : RF) (v : Nat) : (h.p f v).flash = h.flash := rfl
@[simp] theorem Hw.p_otp (h : Hw) (f : RF) (v : Nat) : (h.p f v).otp = h.otp := rfl
@[simp] theorem Hw.p_ring (h : Hw) (f : RF) (v : Nat) : (h.p f v).ring = h.ring := rfl
@[simp] theorem Hw.p_cores (h : Hw) (f : RF) (v : Nat) : (h.p f v).cores = h.cores := rfl
@[simp] theorem Hw.p_rails (h : Hw) (f : RF) (v : Nat) : (h.p f v).rails = h.rails := rfl
@[simp] theorem Hw.p_flt (h : Hw) (f : RF) (v : Nat) : (h.p f v).flt = h.flt := rfl
@[simp] theorem Hw.p_kin (h : Hw) (f : RF) (v : Nat) : (h.p f v).kin = h.kin := rfl
@[simp] theorem Hw.p_kout (h : Hw) (f : RF) (v : Nat) : (h.p f v).kout = h.kout := rfl
@[simp] theorem Hw.p_epoch (h : Hw) (f : RF) (v : Nat) : (h.p f v).epoch = h.epoch := rfl
@[simp] theorem Hw.p_bufs (h : Hw) (f : RF) (v : Nat) : (h.p f v).bufs = h.bufs := rfl
@[simp] theorem Hw.p_join (h : Hw) (f : RF) (v : Nat) : (h.p f v).join = h.join := rfl
@[simp] theorem Hw.p_mods (h : Hw) (f : RF) (v : Nat) : (h.p f v).mods = h.mods := rfl
@[simp] theorem Hw.p_deal (h : Hw) (f : RF) (v : Nat) : (h.p f v).deal = h.deal := rfl
@[simp] theorem Hw.p_posted (h : Hw) (f : RF) (v : Nat) : (h.p f v).posted = h.posted := rfl
@[simp] theorem Hw.p_asrcBlk (h : Hw) (f : RF) (v : Nat) : (h.p f v).asrcBlk = h.asrcBlk := rfl
@[simp] theorem Hw.p_xbar (h : Hw) (f : RF) (v : Nat) : (h.p f v).xbar = h.xbar := rfl
@[simp] theorem Hw.p_dma (h : Hw) (f : RF) (v : Nat) : (h.p f v).dma = h.dma := rfl
@[simp] theorem Hw.p_sent (h : Hw) (f : RF) (v : Nat) : (h.p f v).sent = h.sent := rfl
@[simp] theorem Hw.p_time (h : Hw) (f : RF) (v : Nat) : (h.p f v).time = h.time := rfl
@[simp] theorem Hw.p_mac (h : Hw) (f : RF) (v : Nat) : (h.p f v).mac = h.mac := rfl
@[simp] theorem Hw.p_links (h : Hw) (f : RF) (v : Nat) : (h.p f v).links = h.links := rfl
@[simp] theorem Hw.p_lanes (h : Hw) (f : RF) (v : Nat) : (h.p f v).lanes = h.lanes := rfl
@[simp] theorem Hw.p_table (h : Hw) (f : RF) (v : Nat) : (h.p f v).table = h.table := rfl
@[simp] theorem Hw.p_ports (h : Hw) (f : RF) (v : Nat) : (h.p f v).ports = h.ports := rfl
@[simp] theorem Hw.p_clk (h : Hw) (f : RF) (v : Nat) : (h.p f v).clk = h.clk := rfl
@[simp] theorem Hw.p_sill (h : Hw) (f : RF) (v : Nat) : (h.p f v).sill = h.sill := rfl
@[simp] theorem Hw.p_twin (h : Hw) (f : RF) (v : Nat) : (h.p f v).twin = h.twin := rfl
@[simp] theorem Hw.p_boot (h : Hw) (f : RF) (v : Nat) : (h.p f v).boot = h.boot := rfl
@[simp] theorem Hw.p_mbx (h : Hw) (f : RF) (v : Nat) : (h.p f v).mbx = h.mbx := rfl
@[simp] theorem Hw.p_tap (h : Hw) (f : RF) (v : Nat) : (h.p f v).tap = h.tap := rfl
@[simp] theorem Hw.p_outs (h : Hw) (f : RF) (v : Nat) : (h.p f v).outs = h.outs := rfl
@[simp] theorem Hw.p_fresh (h : Hw) (f : RF) (v : Nat) : (h.p f v).fresh = h.fresh := rfl

@[simp] theorem Hw.wr8_t64 (h : Hw) (a : Nat) (v : Byte) : (h.wr8 a v).t64 = h.t64 := rfl
@[simp] theorem Hw.wr8_sub (h : Hw) (a : Nat) (v : Byte) : (h.wr8 a v).sub = h.sub := rfl
@[simp] theorem Hw.wr8_pins (h : Hw) (a : Nat) (v : Byte) : (h.wr8 a v).pins = h.pins := rfl
@[simp] theorem Hw.wr8_regs (h : Hw) (a : Nat) (v : Byte) : (h.wr8 a v).regs = h.regs := rfl
@[simp] theorem Hw.wr8_flash (h : Hw) (a : Nat) (v : Byte) : (h.wr8 a v).flash = h.flash := rfl
@[simp] theorem Hw.wr8_otp (h : Hw) (a : Nat) (v : Byte) : (h.wr8 a v).otp = h.otp := rfl
@[simp] theorem Hw.wr8_ring (h : Hw) (a : Nat) (v : Byte) : (h.wr8 a v).ring = h.ring := rfl
@[simp] theorem Hw.wr8_cores (h : Hw) (a : Nat) (v : Byte) : (h.wr8 a v).cores = h.cores := rfl
@[simp] theorem Hw.wr8_rails (h : Hw) (a : Nat) (v : Byte) : (h.wr8 a v).rails = h.rails := rfl
@[simp] theorem Hw.wr8_flt (h : Hw) (a : Nat) (v : Byte) : (h.wr8 a v).flt = h.flt := rfl
@[simp] theorem Hw.wr8_kin (h : Hw) (a : Nat) (v : Byte) : (h.wr8 a v).kin = h.kin := rfl
@[simp] theorem Hw.wr8_kout (h : Hw) (a : Nat) (v : Byte) : (h.wr8 a v).kout = h.kout := rfl
@[simp] theorem Hw.wr8_epoch (h : Hw) (a : Nat) (v : Byte) : (h.wr8 a v).epoch = h.epoch := rfl
@[simp] theorem Hw.wr8_bufs (h : Hw) (a : Nat) (v : Byte) : (h.wr8 a v).bufs = h.bufs := rfl
@[simp] theorem Hw.wr8_join (h : Hw) (a : Nat) (v : Byte) : (h.wr8 a v).join = h.join := rfl
@[simp] theorem Hw.wr8_mods (h : Hw) (a : Nat) (v : Byte) : (h.wr8 a v).mods = h.mods := rfl
@[simp] theorem Hw.wr8_deal (h : Hw) (a : Nat) (v : Byte) : (h.wr8 a v).deal = h.deal := rfl
@[simp] theorem Hw.wr8_posted (h : Hw) (a : Nat) (v : Byte) : (h.wr8 a v).posted = h.posted := rfl
@[simp] theorem Hw.wr8_asrcBlk (h : Hw) (a : Nat) (v : Byte) : (h.wr8 a v).asrcBlk = h.asrcBlk := rfl
@[simp] theorem Hw.wr8_xbar (h : Hw) (a : Nat) (v : Byte) : (h.wr8 a v).xbar = h.xbar := rfl
@[simp] theorem Hw.wr8_dma (h : Hw) (a : Nat) (v : Byte) : (h.wr8 a v).dma = h.dma := rfl
@[simp] theorem Hw.wr8_sent (h : Hw) (a : Nat) (v : Byte) : (h.wr8 a v).sent = h.sent := rfl
@[simp] theorem Hw.wr8_time (h : Hw) (a : Nat) (v : Byte) : (h.wr8 a v).time = h.time := rfl
@[simp] theorem Hw.wr8_mac (h : Hw) (a : Nat) (v : Byte) : (h.wr8 a v).mac = h.mac := rfl
@[simp] theorem Hw.wr8_links (h : Hw) (a : Nat) (v : Byte) : (h.wr8 a v).links = h.links := rfl
@[simp] theorem Hw.wr8_lanes (h : Hw) (a : Nat) (v : Byte) : (h.wr8 a v).lanes = h.lanes := rfl
@[simp] theorem Hw.wr8_table (h : Hw) (a : Nat) (v : Byte) : (h.wr8 a v).table = h.table := rfl
@[simp] theorem Hw.wr8_ports (h : Hw) (a : Nat) (v : Byte) : (h.wr8 a v).ports = h.ports := rfl
@[simp] theorem Hw.wr8_clk (h : Hw) (a : Nat) (v : Byte) : (h.wr8 a v).clk = h.clk := rfl
@[simp] theorem Hw.wr8_sill (h : Hw) (a : Nat) (v : Byte) : (h.wr8 a v).sill = h.sill := rfl
@[simp] theorem Hw.wr8_twin (h : Hw) (a : Nat) (v : Byte) : (h.wr8 a v).twin = h.twin := rfl
@[simp] theorem Hw.wr8_boot (h : Hw) (a : Nat) (v : Byte) : (h.wr8 a v).boot = h.boot := rfl
@[simp] theorem Hw.wr8_mbx (h : Hw) (a : Nat) (v : Byte) : (h.wr8 a v).mbx = h.mbx := rfl
@[simp] theorem Hw.wr8_tap (h : Hw) (a : Nat) (v : Byte) : (h.wr8 a v).tap = h.tap := rfl
@[simp] theorem Hw.wr8_outs (h : Hw) (a : Nat) (v : Byte) : (h.wr8 a v).outs = h.outs := rfl
@[simp] theorem Hw.wr8_fresh (h : Hw) (a : Nat) (v : Byte) : (h.wr8 a v).fresh = h.fresh := rfl

@[simp] theorem Hw.wrBytes_t64 (h : Hw) (a : Nat) (bs : List Byte) : (h.wrBytes a bs).t64 = h.t64 := rfl
@[simp] theorem Hw.wrBytes_sub (h : Hw) (a : Nat) (bs : List Byte) : (h.wrBytes a bs).sub = h.sub := rfl
@[simp] theorem Hw.wrBytes_pins (h : Hw) (a : Nat) (bs : List Byte) : (h.wrBytes a bs).pins = h.pins := rfl
@[simp] theorem Hw.wrBytes_regs (h : Hw) (a : Nat) (bs : List Byte) : (h.wrBytes a bs).regs = h.regs := rfl
@[simp] theorem Hw.wrBytes_flash (h : Hw) (a : Nat) (bs : List Byte) : (h.wrBytes a bs).flash = h.flash := rfl
@[simp] theorem Hw.wrBytes_otp (h : Hw) (a : Nat) (bs : List Byte) : (h.wrBytes a bs).otp = h.otp := rfl
@[simp] theorem Hw.wrBytes_ring (h : Hw) (a : Nat) (bs : List Byte) : (h.wrBytes a bs).ring = h.ring := rfl
@[simp] theorem Hw.wrBytes_cores (h : Hw) (a : Nat) (bs : List Byte) : (h.wrBytes a bs).cores = h.cores := rfl
@[simp] theorem Hw.wrBytes_rails (h : Hw) (a : Nat) (bs : List Byte) : (h.wrBytes a bs).rails = h.rails := rfl
@[simp] theorem Hw.wrBytes_flt (h : Hw) (a : Nat) (bs : List Byte) : (h.wrBytes a bs).flt = h.flt := rfl
@[simp] theorem Hw.wrBytes_kin (h : Hw) (a : Nat) (bs : List Byte) : (h.wrBytes a bs).kin = h.kin := rfl
@[simp] theorem Hw.wrBytes_kout (h : Hw) (a : Nat) (bs : List Byte) : (h.wrBytes a bs).kout = h.kout := rfl
@[simp] theorem Hw.wrBytes_epoch (h : Hw) (a : Nat) (bs : List Byte) : (h.wrBytes a bs).epoch = h.epoch := rfl
@[simp] theorem Hw.wrBytes_bufs (h : Hw) (a : Nat) (bs : List Byte) : (h.wrBytes a bs).bufs = h.bufs := rfl
@[simp] theorem Hw.wrBytes_join (h : Hw) (a : Nat) (bs : List Byte) : (h.wrBytes a bs).join = h.join := rfl
@[simp] theorem Hw.wrBytes_mods (h : Hw) (a : Nat) (bs : List Byte) : (h.wrBytes a bs).mods = h.mods := rfl
@[simp] theorem Hw.wrBytes_deal (h : Hw) (a : Nat) (bs : List Byte) : (h.wrBytes a bs).deal = h.deal := rfl
@[simp] theorem Hw.wrBytes_posted (h : Hw) (a : Nat) (bs : List Byte) : (h.wrBytes a bs).posted = h.posted := rfl
@[simp] theorem Hw.wrBytes_asrcBlk (h : Hw) (a : Nat) (bs : List Byte) : (h.wrBytes a bs).asrcBlk = h.asrcBlk := rfl
@[simp] theorem Hw.wrBytes_xbar (h : Hw) (a : Nat) (bs : List Byte) : (h.wrBytes a bs).xbar = h.xbar := rfl
@[simp] theorem Hw.wrBytes_dma (h : Hw) (a : Nat) (bs : List Byte) : (h.wrBytes a bs).dma = h.dma := rfl
@[simp] theorem Hw.wrBytes_sent (h : Hw) (a : Nat) (bs : List Byte) : (h.wrBytes a bs).sent = h.sent := rfl
@[simp] theorem Hw.wrBytes_time (h : Hw) (a : Nat) (bs : List Byte) : (h.wrBytes a bs).time = h.time := rfl
@[simp] theorem Hw.wrBytes_mac (h : Hw) (a : Nat) (bs : List Byte) : (h.wrBytes a bs).mac = h.mac := rfl
@[simp] theorem Hw.wrBytes_links (h : Hw) (a : Nat) (bs : List Byte) : (h.wrBytes a bs).links = h.links := rfl
@[simp] theorem Hw.wrBytes_lanes (h : Hw) (a : Nat) (bs : List Byte) : (h.wrBytes a bs).lanes = h.lanes := rfl
@[simp] theorem Hw.wrBytes_table (h : Hw) (a : Nat) (bs : List Byte) : (h.wrBytes a bs).table = h.table := rfl
@[simp] theorem Hw.wrBytes_ports (h : Hw) (a : Nat) (bs : List Byte) : (h.wrBytes a bs).ports = h.ports := rfl
@[simp] theorem Hw.wrBytes_clk (h : Hw) (a : Nat) (bs : List Byte) : (h.wrBytes a bs).clk = h.clk := rfl
@[simp] theorem Hw.wrBytes_sill (h : Hw) (a : Nat) (bs : List Byte) : (h.wrBytes a bs).sill = h.sill := rfl
@[simp] theorem Hw.wrBytes_twin (h : Hw) (a : Nat) (bs : List Byte) : (h.wrBytes a bs).twin = h.twin := rfl
@[simp] theorem Hw.wrBytes_boot (h : Hw) (a : Nat) (bs : List Byte) : (h.wrBytes a bs).boot = h.boot := rfl
@[simp] theorem Hw.wrBytes_mbx (h : Hw) (a : Nat) (bs : List Byte) : (h.wrBytes a bs).mbx = h.mbx := rfl
@[simp] theorem Hw.wrBytes_tap (h : Hw) (a : Nat) (bs : List Byte) : (h.wrBytes a bs).tap = h.tap := rfl
@[simp] theorem Hw.wrBytes_outs (h : Hw) (a : Nat) (bs : List Byte) : (h.wrBytes a bs).outs = h.outs := rfl
@[simp] theorem Hw.wrBytes_fresh (h : Hw) (a : Nat) (bs : List Byte) : (h.wrBytes a bs).fresh = h.fresh := rfl

@[simp] theorem Hw.clearMem_t64 (h : Hw) (a n : Nat) : (h.clearMem a n).t64 = h.t64 := rfl
@[simp] theorem Hw.clearMem_sub (h : Hw) (a n : Nat) : (h.clearMem a n).sub = h.sub := rfl
@[simp] theorem Hw.clearMem_pins (h : Hw) (a n : Nat) : (h.clearMem a n).pins = h.pins := rfl
@[simp] theorem Hw.clearMem_regs (h : Hw) (a n : Nat) : (h.clearMem a n).regs = h.regs := rfl
@[simp] theorem Hw.clearMem_flash (h : Hw) (a n : Nat) : (h.clearMem a n).flash = h.flash := rfl
@[simp] theorem Hw.clearMem_otp (h : Hw) (a n : Nat) : (h.clearMem a n).otp = h.otp := rfl
@[simp] theorem Hw.clearMem_ring (h : Hw) (a n : Nat) : (h.clearMem a n).ring = h.ring := rfl
@[simp] theorem Hw.clearMem_cores (h : Hw) (a n : Nat) : (h.clearMem a n).cores = h.cores := rfl
@[simp] theorem Hw.clearMem_rails (h : Hw) (a n : Nat) : (h.clearMem a n).rails = h.rails := rfl
@[simp] theorem Hw.clearMem_flt (h : Hw) (a n : Nat) : (h.clearMem a n).flt = h.flt := rfl
@[simp] theorem Hw.clearMem_kin (h : Hw) (a n : Nat) : (h.clearMem a n).kin = h.kin := rfl
@[simp] theorem Hw.clearMem_kout (h : Hw) (a n : Nat) : (h.clearMem a n).kout = h.kout := rfl
@[simp] theorem Hw.clearMem_epoch (h : Hw) (a n : Nat) : (h.clearMem a n).epoch = h.epoch := rfl
@[simp] theorem Hw.clearMem_bufs (h : Hw) (a n : Nat) : (h.clearMem a n).bufs = h.bufs := rfl
@[simp] theorem Hw.clearMem_join (h : Hw) (a n : Nat) : (h.clearMem a n).join = h.join := rfl
@[simp] theorem Hw.clearMem_mods (h : Hw) (a n : Nat) : (h.clearMem a n).mods = h.mods := rfl
@[simp] theorem Hw.clearMem_deal (h : Hw) (a n : Nat) : (h.clearMem a n).deal = h.deal := rfl
@[simp] theorem Hw.clearMem_posted (h : Hw) (a n : Nat) : (h.clearMem a n).posted = h.posted := rfl
@[simp] theorem Hw.clearMem_asrcBlk (h : Hw) (a n : Nat) : (h.clearMem a n).asrcBlk = h.asrcBlk := rfl
@[simp] theorem Hw.clearMem_xbar (h : Hw) (a n : Nat) : (h.clearMem a n).xbar = h.xbar := rfl
@[simp] theorem Hw.clearMem_dma (h : Hw) (a n : Nat) : (h.clearMem a n).dma = h.dma := rfl
@[simp] theorem Hw.clearMem_sent (h : Hw) (a n : Nat) : (h.clearMem a n).sent = h.sent := rfl
@[simp] theorem Hw.clearMem_time (h : Hw) (a n : Nat) : (h.clearMem a n).time = h.time := rfl
@[simp] theorem Hw.clearMem_mac (h : Hw) (a n : Nat) : (h.clearMem a n).mac = h.mac := rfl
@[simp] theorem Hw.clearMem_links (h : Hw) (a n : Nat) : (h.clearMem a n).links = h.links := rfl
@[simp] theorem Hw.clearMem_lanes (h : Hw) (a n : Nat) : (h.clearMem a n).lanes = h.lanes := rfl
@[simp] theorem Hw.clearMem_table (h : Hw) (a n : Nat) : (h.clearMem a n).table = h.table := rfl
@[simp] theorem Hw.clearMem_ports (h : Hw) (a n : Nat) : (h.clearMem a n).ports = h.ports := rfl
@[simp] theorem Hw.clearMem_clk (h : Hw) (a n : Nat) : (h.clearMem a n).clk = h.clk := rfl
@[simp] theorem Hw.clearMem_sill (h : Hw) (a n : Nat) : (h.clearMem a n).sill = h.sill := rfl
@[simp] theorem Hw.clearMem_twin (h : Hw) (a n : Nat) : (h.clearMem a n).twin = h.twin := rfl
@[simp] theorem Hw.clearMem_boot (h : Hw) (a n : Nat) : (h.clearMem a n).boot = h.boot := rfl
@[simp] theorem Hw.clearMem_mbx (h : Hw) (a n : Nat) : (h.clearMem a n).mbx = h.mbx := rfl
@[simp] theorem Hw.clearMem_tap (h : Hw) (a n : Nat) : (h.clearMem a n).tap = h.tap := rfl
@[simp] theorem Hw.clearMem_outs (h : Hw) (a n : Nat) : (h.clearMem a n).outs = h.outs := rfl
@[simp] theorem Hw.clearMem_fresh (h : Hw) (a n : Nat) : (h.clearMem a n).fresh = h.fresh := rfl

@[simp] theorem Hw.setCore_t64 (h : Hw) (n : Nat) (c : Truss) : (h.setCore n c).t64 = h.t64 := rfl
@[simp] theorem Hw.setCore_sub (h : Hw) (n : Nat) (c : Truss) : (h.setCore n c).sub = h.sub := rfl
@[simp] theorem Hw.setCore_pins (h : Hw) (n : Nat) (c : Truss) : (h.setCore n c).pins = h.pins := rfl
@[simp] theorem Hw.setCore_regs (h : Hw) (n : Nat) (c : Truss) : (h.setCore n c).regs = h.regs := rfl
@[simp] theorem Hw.setCore_mem (h : Hw) (n : Nat) (c : Truss) : (h.setCore n c).mem = h.mem := rfl
@[simp] theorem Hw.setCore_flash (h : Hw) (n : Nat) (c : Truss) : (h.setCore n c).flash = h.flash := rfl
@[simp] theorem Hw.setCore_otp (h : Hw) (n : Nat) (c : Truss) : (h.setCore n c).otp = h.otp := rfl
@[simp] theorem Hw.setCore_ring (h : Hw) (n : Nat) (c : Truss) : (h.setCore n c).ring = h.ring := rfl
@[simp] theorem Hw.setCore_rails (h : Hw) (n : Nat) (c : Truss) : (h.setCore n c).rails = h.rails := rfl
@[simp] theorem Hw.setCore_flt (h : Hw) (n : Nat) (c : Truss) : (h.setCore n c).flt = h.flt := rfl
@[simp] theorem Hw.setCore_kin (h : Hw) (n : Nat) (c : Truss) : (h.setCore n c).kin = h.kin := rfl
@[simp] theorem Hw.setCore_kout (h : Hw) (n : Nat) (c : Truss) : (h.setCore n c).kout = h.kout := rfl
@[simp] theorem Hw.setCore_epoch (h : Hw) (n : Nat) (c : Truss) : (h.setCore n c).epoch = h.epoch := rfl
@[simp] theorem Hw.setCore_bufs (h : Hw) (n : Nat) (c : Truss) : (h.setCore n c).bufs = h.bufs := rfl
@[simp] theorem Hw.setCore_join (h : Hw) (n : Nat) (c : Truss) : (h.setCore n c).join = h.join := rfl
@[simp] theorem Hw.setCore_mods (h : Hw) (n : Nat) (c : Truss) : (h.setCore n c).mods = h.mods := rfl
@[simp] theorem Hw.setCore_deal (h : Hw) (n : Nat) (c : Truss) : (h.setCore n c).deal = h.deal := rfl
@[simp] theorem Hw.setCore_posted (h : Hw) (n : Nat) (c : Truss) : (h.setCore n c).posted = h.posted := rfl
@[simp] theorem Hw.setCore_asrcBlk (h : Hw) (n : Nat) (c : Truss) : (h.setCore n c).asrcBlk = h.asrcBlk := rfl
@[simp] theorem Hw.setCore_xbar (h : Hw) (n : Nat) (c : Truss) : (h.setCore n c).xbar = h.xbar := rfl
@[simp] theorem Hw.setCore_dma (h : Hw) (n : Nat) (c : Truss) : (h.setCore n c).dma = h.dma := rfl
@[simp] theorem Hw.setCore_sent (h : Hw) (n : Nat) (c : Truss) : (h.setCore n c).sent = h.sent := rfl
@[simp] theorem Hw.setCore_time (h : Hw) (n : Nat) (c : Truss) : (h.setCore n c).time = h.time := rfl
@[simp] theorem Hw.setCore_mac (h : Hw) (n : Nat) (c : Truss) : (h.setCore n c).mac = h.mac := rfl
@[simp] theorem Hw.setCore_links (h : Hw) (n : Nat) (c : Truss) : (h.setCore n c).links = h.links := rfl
@[simp] theorem Hw.setCore_lanes (h : Hw) (n : Nat) (c : Truss) : (h.setCore n c).lanes = h.lanes := rfl
@[simp] theorem Hw.setCore_table (h : Hw) (n : Nat) (c : Truss) : (h.setCore n c).table = h.table := rfl
@[simp] theorem Hw.setCore_ports (h : Hw) (n : Nat) (c : Truss) : (h.setCore n c).ports = h.ports := rfl
@[simp] theorem Hw.setCore_clk (h : Hw) (n : Nat) (c : Truss) : (h.setCore n c).clk = h.clk := rfl
@[simp] theorem Hw.setCore_sill (h : Hw) (n : Nat) (c : Truss) : (h.setCore n c).sill = h.sill := rfl
@[simp] theorem Hw.setCore_twin (h : Hw) (n : Nat) (c : Truss) : (h.setCore n c).twin = h.twin := rfl
@[simp] theorem Hw.setCore_boot (h : Hw) (n : Nat) (c : Truss) : (h.setCore n c).boot = h.boot := rfl
@[simp] theorem Hw.setCore_mbx (h : Hw) (n : Nat) (c : Truss) : (h.setCore n c).mbx = h.mbx := rfl
@[simp] theorem Hw.setCore_tap (h : Hw) (n : Nat) (c : Truss) : (h.setCore n c).tap = h.tap := rfl
@[simp] theorem Hw.setCore_outs (h : Hw) (n : Nat) (c : Truss) : (h.setCore n c).outs = h.outs := rfl
@[simp] theorem Hw.setCore_fresh (h : Hw) (n : Nat) (c : Truss) : (h.setCore n c).fresh = h.fresh := rfl

@[simp] theorem Hw.idle_pins (h : Hw) : h.idle.pins = h.pins := rfl
@[simp] theorem Hw.idle_regs (h : Hw) : h.idle.regs = h.regs := rfl
@[simp] theorem Hw.idle_mem (h : Hw) : h.idle.mem = h.mem := rfl
@[simp] theorem Hw.idle_flash (h : Hw) : h.idle.flash = h.flash := rfl
@[simp] theorem Hw.idle_otp (h : Hw) : h.idle.otp = h.otp := rfl
@[simp] theorem Hw.idle_ring (h : Hw) : h.idle.ring = h.ring := rfl
@[simp] theorem Hw.idle_cores (h : Hw) : h.idle.cores = h.cores := rfl
@[simp] theorem Hw.idle_rails (h : Hw) : h.idle.rails = h.rails := rfl
@[simp] theorem Hw.idle_flt (h : Hw) : h.idle.flt = h.flt := rfl
@[simp] theorem Hw.idle_kin (h : Hw) : h.idle.kin = h.kin := rfl
@[simp] theorem Hw.idle_kout (h : Hw) : h.idle.kout = h.kout := rfl
@[simp] theorem Hw.idle_epoch (h : Hw) : h.idle.epoch = h.epoch := rfl
@[simp] theorem Hw.idle_bufs (h : Hw) : h.idle.bufs = h.bufs := rfl
@[simp] theorem Hw.idle_join (h : Hw) : h.idle.join = h.join := rfl
@[simp] theorem Hw.idle_mods (h : Hw) : h.idle.mods = h.mods := rfl
@[simp] theorem Hw.idle_deal (h : Hw) : h.idle.deal = h.deal := rfl
@[simp] theorem Hw.idle_posted (h : Hw) : h.idle.posted = h.posted := rfl
@[simp] theorem Hw.idle_asrcBlk (h : Hw) : h.idle.asrcBlk = h.asrcBlk := rfl
@[simp] theorem Hw.idle_xbar (h : Hw) : h.idle.xbar = h.xbar := rfl
@[simp] theorem Hw.idle_dma (h : Hw) : h.idle.dma = h.dma := rfl
@[simp] theorem Hw.idle_sent (h : Hw) : h.idle.sent = h.sent := rfl
@[simp] theorem Hw.idle_time (h : Hw) : h.idle.time = h.time := rfl
@[simp] theorem Hw.idle_mac (h : Hw) : h.idle.mac = h.mac := rfl
@[simp] theorem Hw.idle_links (h : Hw) : h.idle.links = h.links := rfl
@[simp] theorem Hw.idle_lanes (h : Hw) : h.idle.lanes = h.lanes := rfl
@[simp] theorem Hw.idle_table (h : Hw) : h.idle.table = h.table := rfl
@[simp] theorem Hw.idle_ports (h : Hw) : h.idle.ports = h.ports := rfl
@[simp] theorem Hw.idle_clk (h : Hw) : h.idle.clk = h.clk := rfl
@[simp] theorem Hw.idle_sill (h : Hw) : h.idle.sill = h.sill := rfl
@[simp] theorem Hw.idle_twin (h : Hw) : h.idle.twin = h.twin := rfl
@[simp] theorem Hw.idle_boot (h : Hw) : h.idle.boot = h.boot := rfl
@[simp] theorem Hw.idle_mbx (h : Hw) : h.idle.mbx = h.mbx := rfl
@[simp] theorem Hw.idle_tap (h : Hw) : h.idle.tap = h.tap := rfl
@[simp] theorem Hw.idle_outs (h : Hw) : h.idle.outs = h.outs := rfl
@[simp] theorem Hw.idle_fresh (h : Hw) : h.idle.fresh = h.fresh := rfl

@[simp] theorem Hw.drive_t64 (h : Hw) : h.drive.t64 = h.t64 := rfl
@[simp] theorem Hw.drive_sub (h : Hw) : h.drive.sub = h.sub := rfl
@[simp] theorem Hw.drive_pins (h : Hw) : h.drive.pins = h.pins := rfl
@[simp] theorem Hw.drive_regs (h : Hw) : h.drive.regs = h.regs := rfl
@[simp] theorem Hw.drive_mem (h : Hw) : h.drive.mem = h.mem := rfl
@[simp] theorem Hw.drive_flash (h : Hw) : h.drive.flash = h.flash := rfl
@[simp] theorem Hw.drive_otp (h : Hw) : h.drive.otp = h.otp := rfl
@[simp] theorem Hw.drive_ring (h : Hw) : h.drive.ring = h.ring := rfl
@[simp] theorem Hw.drive_cores (h : Hw) : h.drive.cores = h.cores := rfl
@[simp] theorem Hw.drive_rails (h : Hw) : h.drive.rails = h.rails := rfl
@[simp] theorem Hw.drive_flt (h : Hw) : h.drive.flt = h.flt := rfl
@[simp] theorem Hw.drive_kin (h : Hw) : h.drive.kin = h.kin := rfl
@[simp] theorem Hw.drive_kout (h : Hw) : h.drive.kout = h.kout := rfl
@[simp] theorem Hw.drive_epoch (h : Hw) : h.drive.epoch = h.epoch := rfl
@[simp] theorem Hw.drive_bufs (h : Hw) : h.drive.bufs = h.bufs := rfl
@[simp] theorem Hw.drive_join (h : Hw) : h.drive.join = h.join := rfl
@[simp] theorem Hw.drive_mods (h : Hw) : h.drive.mods = h.mods := rfl
@[simp] theorem Hw.drive_deal (h : Hw) : h.drive.deal = h.deal := rfl
@[simp] theorem Hw.drive_asrcBlk (h : Hw) : h.drive.asrcBlk = h.asrcBlk := rfl
@[simp] theorem Hw.drive_xbar (h : Hw) : h.drive.xbar = h.xbar := rfl
@[simp] theorem Hw.drive_dma (h : Hw) : h.drive.dma = h.dma := rfl
@[simp] theorem Hw.drive_sent (h : Hw) : h.drive.sent = h.sent := rfl
@[simp] theorem Hw.drive_time (h : Hw) : h.drive.time = h.time := rfl
@[simp] theorem Hw.drive_mac (h : Hw) : h.drive.mac = h.mac := rfl
@[simp] theorem Hw.drive_links (h : Hw) : h.drive.links = h.links := rfl
@[simp] theorem Hw.drive_lanes (h : Hw) : h.drive.lanes = h.lanes := rfl
@[simp] theorem Hw.drive_table (h : Hw) : h.drive.table = h.table := rfl
@[simp] theorem Hw.drive_ports (h : Hw) : h.drive.ports = h.ports := rfl
@[simp] theorem Hw.drive_clk (h : Hw) : h.drive.clk = h.clk := rfl
@[simp] theorem Hw.drive_sill (h : Hw) : h.drive.sill = h.sill := rfl
@[simp] theorem Hw.drive_twin (h : Hw) : h.drive.twin = h.twin := rfl
@[simp] theorem Hw.drive_boot (h : Hw) : h.drive.boot = h.boot := rfl
@[simp] theorem Hw.drive_mbx (h : Hw) : h.drive.mbx = h.mbx := rfl
@[simp] theorem Hw.drive_tap (h : Hw) : h.drive.tap = h.tap := rfl
@[simp] theorem Hw.drive_fresh (h : Hw) : h.drive.fresh = h.fresh := rfl

@[simp] theorem Hw.p_regs (h : Hw) (f : RF) (v : Nat) : (h.p f v).regs = h.regs.put (RFkey f) (v % 2 ^ f.w) := rfl
@[simp] theorem Hw.wr8_mem (h : Hw) (a : Nat) (v : Byte) : (h.wr8 a v).mem = h.mem.set memDefault a v := rfl
@[simp] theorem Hw.wrBytes_mem (h : Hw) (a : Nat) (bs : List Byte) : (h.wrBytes a bs).mem = wrList h.mem a bs := rfl
@[simp] theorem Hw.setCore_cores (h : Hw) (n : Nat) (c : Truss) : (h.setCore n c).cores = h.cores.put n c := rfl
@[simp] theorem Hw.drive_outs (h : Hw) : h.drive.outs = h.levels := rfl
@[simp] theorem Hw.drive_posted (h : Hw) : h.drive.posted = [] := rfl
@[simp] theorem Hw.drive_levels (h : Hw) : h.drive.levels = h.levels := rfl
@[simp] theorem Hw.idle_levels (h : Hw) : h.idle.levels = h.levels := rfl

end Sys2Proof.Machine
end

