-- ==== Sys2Proof/Laws/Tab.lean ====
section
/-! SUPPORT. What reading a sparse table gives after a write, and that writing keeps the canonical form. -/

namespace Sys2Proof

theorem Tab.get_put_same {α : Type} (d : α) (t : Tab α) (n : Nat) (v : α) : (t.put n v).get d n = v := by
  induction t with
  | nil => simp [Tab.put, Tab.get]
  | cons e t ih =>
    obtain ⟨k, w⟩ := e
    simp only [Tab.put]
    split
    · simp [Tab.get]
    · split
      · simp [Tab.get]
      · next h => simp [Tab.get, Ne.symm h, ih]

theorem Tab.get_put_ne {α : Type} (d : α) (t : Tab α) (n m : Nat) (v : α) (h : m ≠ n) :
    (t.put n v).get d m = t.get d m := by
  induction t with
  | nil => simp [Tab.put, Tab.get, Ne.symm h]
  | cons e t ih =>
    obtain ⟨k, w⟩ := e
    simp only [Tab.put]
    split
    · simp [Tab.get, Ne.symm h]
    · split
      · next h' => subst h'; simp [Tab.get, Ne.symm h]
      · simp [Tab.get, ih]

theorem Tab.put_put {α : Type} (t : Tab α) (n : Nat) (v w : α) : (t.put n v).put n w = t.put n w := by
  induction t with
  | nil => simp [Tab.put]
  | cons e t ih =>
    obtain ⟨k, u⟩ := e
    simp only [Tab.put]
    split
    · simp [Tab.put]
    · next h =>
      split
      · simp [Tab.put]
      · next h' => simp [Tab.put, h, h', ih]

theorem Tab.find?_put_same {α : Type} (t : Tab α) (n : Nat) (v : α) : (t.put n v).find? n = some v := by
  induction t with
  | nil => simp [Tab.put, Tab.find?]
  | cons e t ih =>
    obtain ⟨k, w⟩ := e
    simp only [Tab.put]
    split
    · simp [Tab.find?]
    · split
      · simp [Tab.find?]
      · next h => simp [Tab.find?, Ne.symm h, ih]

theorem Tab.find?_put_ne {α : Type} (t : Tab α) (n m : Nat) (v : α) (h : m ≠ n) : (t.put n v).find? m = t.find? m := by
  induction t with
  | nil => simp [Tab.put, Tab.find?, Ne.symm h]
  | cons e t ih =>
    obtain ⟨k, w⟩ := e
    simp only [Tab.put]
    split
    · simp [Tab.find?, Ne.symm h]
    · split
      · next h' => subst h'; simp [Tab.find?, Ne.symm h]
      · simp [Tab.find?, ih]

/-- Filtering by key: a kept key reads as before, and a dropped one as the default. -/
theorem Tab.get_filter {α : Type} (d : α) (q : Nat → Bool) (t : Tab α) (n : Nat) :
    Tab.get d (t.filter (fun e => q e.1)) n = if q n then t.get d n else d := by
  induction t with
  | nil => simp [Tab.get]
  | cons e t ih =>
    obtain ⟨k, w⟩ := e
    by_cases hk : k = n
    · subst hk
      by_cases hq : q k <;> simp_all [Tab.get]
    · by_cases hq : q k <;> simp_all [Tab.get]

theorem Tab.get_del {α : Type} (d : α) (t : Tab α) (n m : Nat) :
    (t.del n).get d m = if m = n then d else t.get d m := by
  have := Tab.get_filter d (fun k => k != n) t m
  simp only [Tab.del]
  rw [this]
  by_cases h : m = n <;> simp [h]

theorem Tab.get_set_same {α : Type} [DecidableEq α] (d : α) (t : Tab α) (n : Nat) (v : α) : (t.set d n v).get d n = v := by
  simp only [Tab.set]
  split
  · next h => simp [Tab.get_del, h]
  · exact Tab.get_put_same d t n v

theorem Tab.get_set_ne {α : Type} [DecidableEq α] (d : α) (t : Tab α) (n m : Nat) (v : α) (h : m ≠ n) :
    (t.set d n v).get d m = t.get d m := by
  simp only [Tab.set]
  split
  · simp [Tab.get_del, h]
  · exact Tab.get_put_ne d t n m v h

theorem Tab.above_of_le {α : Type} {k n : Nat} {t : Tab α} (h : Tab.above k t = true) (hn : n ≤ k) :
    Tab.above n t = true := by
  cases t with
  | nil => rfl
  | cons e t => simp only [Tab.above, decide_eq_true_eq] at *; omega

theorem Tab.wf_cons {α : Type} [DecidableEq α] (d : α) (k : Nat) (w : α) (t : Tab α) :
    Tab.wf d ((k, w) :: t) = true ↔ Tab.above k t = true ∧ w ≠ d ∧ Tab.wf d t = true := by
  simp only [Tab.wf, Tab.sorted, List.all_cons, Bool.and_eq_true, bne_iff_ne]
  tauto

theorem Tab.sorted_of_wf {α : Type} [DecidableEq α] {d : α} {t : Tab α} (h : Tab.wf d t = true) :
    Tab.sorted t = true := by
  simp only [Tab.wf, Bool.and_eq_true] at h
  exact h.1

theorem Tab.above_put {α : Type} {t : Tab α} {k n : Nat} (v : α) (h : k < n) (ha : Tab.above k t = true) :
    Tab.above k (t.put n v) = true := by
  cases t with
  | nil => simpa [Tab.put, Tab.above] using h
  | cons e t =>
    obtain ⟨j, w⟩ := e
    simp only [Tab.above, decide_eq_true_eq] at ha
    simp only [Tab.put]
    split
    · simpa [Tab.above] using h
    · split
      · simpa [Tab.above] using h
      · simpa [Tab.above] using ha

theorem Tab.wf_put {α : Type} [DecidableEq α] (d : α) {t : Tab α} (n : Nat) (v : α) (hv : v ≠ d)
    (h : Tab.wf d t = true) : Tab.wf d (t.put n v) = true := by
  induction t with
  | nil => exact (Tab.wf_cons d n v []).2 ⟨rfl, hv, rfl⟩
  | cons e t ih =>
    obtain ⟨k, w⟩ := e
    have h0 := h
    obtain ⟨ha, hw, ht⟩ := (Tab.wf_cons d k w t).1 h
    simp only [Tab.put]
    split
    · next hk => exact (Tab.wf_cons d n v _).2 ⟨by simpa [Tab.above] using hk, hv, h0⟩
    · split
      · next hk =>
        subst hk
        exact (Tab.wf_cons d n v t).2 ⟨ha, hv, ht⟩
      · next h1 h2 => exact (Tab.wf_cons d k w _).2 ⟨Tab.above_put v (by omega) ha, hw, ih ht⟩

theorem Tab.above_filter {α : Type} (p : Nat × α → Bool) {t : Tab α} {k : Nat} (hs : Tab.sorted t = true)
    (ha : Tab.above k t = true) : Tab.above k (t.filter p) = true := by
  induction t with
  | nil => rfl
  | cons e t ih =>
    obtain ⟨j, w⟩ := e
    simp only [Tab.sorted, Bool.and_eq_true] at hs
    simp only [Tab.above, decide_eq_true_eq] at ha
    simp only [List.filter_cons]
    split
    · simpa [Tab.above] using ha
    · exact ih hs.2 (Tab.above_of_le hs.1 (Nat.le_of_lt ha))

theorem Tab.wf_filter {α : Type} [DecidableEq α] (d : α) (p : Nat × α → Bool) {t : Tab α} (h : Tab.wf d t = true) :
    Tab.wf d (t.filter p) = true := by
  induction t with
  | nil => exact h
  | cons e t ih =>
    obtain ⟨k, w⟩ := e
    obtain ⟨ha, hw, ht⟩ := (Tab.wf_cons d k w t).1 h
    simp only [List.filter_cons]
    split
    · exact (Tab.wf_cons d k w _).2 ⟨Tab.above_filter p (Tab.sorted_of_wf ht) ha, hw, ih ht⟩
    · exact ih ht

theorem Tab.wf_set {α : Type} [DecidableEq α] (d : α) {t : Tab α} (n : Nat) (v : α) (h : Tab.wf d t = true) :
    Tab.wf d (t.set d n v) = true := by
  simp only [Tab.set]
  split
  · exact Tab.wf_filter d _ h
  · next hv => exact Tab.wf_put d n v hv h

end Sys2Proof
end

