-- ==== Sys2Proof/Laws/Regs.lean ====
section
/-! SUPPORT. What reading a register field gives after a field is set. -/

namespace Sys2Proof.Machine

theorem Hw.g_p_same (h : Hw) (f : RF) (v : Nat) : (h.p f v).g f = v % 2 ^ f.w := Tab.get_put_same _ _ _ _

theorem Hw.g_p_ne (h : Hw) (f f' : RF) (v : Nat) (hk : RFkey f' ≠ RFkey f) : (h.p f v).g f' = h.g f' :=
  Tab.get_put_ne _ _ _ _ _ hk

theorem Hw.b_p_ne (h : Hw) (f f' : RF) (v : Nat) (hk : RFkey f' ≠ RFkey f) : (h.p f v).b f' = h.b f' := by
  simp only [Hw.b, Hw.g_p_ne h f f' v hk]

theorem Hw.g_s1_same (h : Hw) (f : RF) (hw : 0 < f.w) : (h.s1 f).g f = 1 := by
  have : 1 < 2 ^ f.w := Nat.one_lt_two_pow (by omega)
  simp only [Hw.s1, Hw.g_p_same]
  exact Nat.mod_eq_of_lt this

theorem Hw.g_s0_same (h : Hw) (f : RF) : (h.s0 f).g f = 0 := by simp [Hw.s0, Hw.g_p_same]

theorem Hw.g_s1_ne (h : Hw) (f f' : RF) (hk : RFkey f' ≠ RFkey f) : (h.s1 f).g f' = h.g f' := Hw.g_p_ne h f f' 1 hk

theorem Hw.g_s0_ne (h : Hw) (f f' : RF) (hk : RFkey f' ≠ RFkey f) : (h.s0 f).g f' = h.g f' := Hw.g_p_ne h f f' 0 hk

/-- A field of the drive pins is no register. -/
@[simp] theorem Hw.drive_g (h : Hw) (f : RF) : h.drive.g f = h.g f := rfl
@[simp] theorem Hw.drive_b (h : Hw) (f : RF) : h.drive.b f = h.b f := rfl
@[simp] theorem Hw.drive_rd8 (h : Hw) (a : Nat) : h.drive.rd8 a = h.rd8 a := rfl
@[simp] theorem Hw.drive_core (h : Hw) (n : Nat) : h.drive.core n = h.core n := rfl
@[simp] theorem Hw.p_rd8 (h : Hw) (f : RF) (v a : Nat) : (h.p f v).rd8 a = h.rd8 a := rfl
@[simp] theorem Hw.p_core (h : Hw) (f : RF) (v n : Nat) : (h.p f v).core n = h.core n := rfl

theorem Hw.core_setCore_same (h : Hw) (n : Nat) (c : Truss) : (h.setCore n c).core n = c := Tab.get_put_same _ _ _ _

theorem Hw.core_setCore_ne (h : Hw) (n m : Nat) (c : Truss) (hm : m ≠ n) : (h.setCore n c).core m = h.core m :=
  Tab.get_put_ne _ _ _ _ _ hm

end Sys2Proof.Machine
end

