-- ==== Sys2Proof/Laws/Mem.lean ====
section
/-! SUPPORT. Every memory operation keeps the canonical form; a read after a write gives the bytes written, and every other
byte as before. -/

namespace Sys2Proof.Machine

theorem Memory.wf_wrList (m : Tab Byte) (a : Nat) (bs : List Byte) (h : Memory.wf m = true) :
    Memory.wf (wrList m a bs) = true := by
  induction bs generalizing m a with
  | nil => exact h
  | cons b t ih => exact ih _ _ (Tab.wf_set _ _ _ h)

theorem Hw.wf_wr8 (h : Hw) (a : Nat) (v : Byte) (hm : Memory.wf h.mem = true) : Memory.wf (h.wr8 a v).mem = true :=
  Tab.wf_set _ _ _ hm

theorem Hw.wf_wrBytes (h : Hw) (a : Nat) (bs : List Byte) (hm : Memory.wf h.mem = true) :
    Memory.wf (h.wrBytes a bs).mem = true := Memory.wf_wrList _ _ _ hm

theorem Hw.wf_wrN (h : Hw) (a n v : Nat) (hm : Memory.wf h.mem = true) : Memory.wf (h.wrN a n v).mem = true :=
  Hw.wf_wrBytes _ _ _ hm

theorem Hw.wf_wr32 (h : Hw) (a : Nat) (v : Word) (hm : Memory.wf h.mem = true) : Memory.wf (h.wr32 a v).mem = true :=
  Hw.wf_wrN _ _ _ _ hm

theorem Hw.wf_keepMem (h : Hw) (q : Nat → Bool) (hm : Memory.wf h.mem = true) : Memory.wf (h.keepMem q).mem = true :=
  Tab.wf_filter _ _ hm

theorem Hw.wf_clearMem (h : Hw) (a n : Nat) (hm : Memory.wf h.mem = true) : Memory.wf (h.clearMem a n).mem = true :=
  Tab.wf_filter _ _ hm

theorem Hw.reset_storesOk : State.reset.hw.storesOk = true := rfl

theorem wrList_get_below (m : Tab Byte) (a : Nat) (bs : List Byte) (x : Nat) (hx : x < a) :
    (wrList m a bs).get memDefault x = m.get memDefault x := by
  induction bs generalizing m a with
  | nil => rfl
  | cons b t ih =>
    simp only [wrList]
    rw [ih _ _ (by omega), Tab.get_set_ne _ _ _ _ _ (by omega)]

theorem wrList_get_above (m : Tab Byte) (a : Nat) (bs : List Byte) (x : Nat) (hx : a + bs.length ≤ x) :
    (wrList m a bs).get memDefault x = m.get memDefault x := by
  induction bs generalizing m a with
  | nil => rfl
  | cons b t ih =>
    simp only [List.length_cons] at hx
    simp only [wrList]
    rw [ih _ _ (by omega), Tab.get_set_ne _ _ _ _ _ (by omega)]

/-- A byte outside the bytes stored reads as before. -/
theorem Hw.rd8_wrBytes_other (h : Hw) (a : Nat) (bs : List Byte) (x : Nat) (hx : x < a ∨ a + bs.length ≤ x) :
    (h.wrBytes a bs).rd8 x = h.rd8 x := by
  rcases hx with hx | hx
  · exact wrList_get_below _ _ _ _ hx
  · exact wrList_get_above _ _ _ _ hx

/-- The byte at offset i of the bytes stored reads as the i-th of them. -/
theorem Hw.rd8_wrBytes_stored (h : Hw) (a : Nat) (bs : List Byte) (i : Nat) (hi : i < bs.length) :
    (h.wrBytes a bs).rd8 (a + i) = bs[i] := by
  have key : ∀ (m : Tab Byte) (a i : Nat) (bs : List Byte) (hi : i < bs.length),
      (wrList m a bs).get memDefault (a + i) = bs[i] := by
    intro m a i bs
    induction bs generalizing m a i with
    | nil => intro hi; simp at hi
    | cons b t ih =>
      intro hi
      simp only [wrList]
      cases i with
      | zero =>
        rw [wrList_get_below _ _ _ _ (by omega)]
        simpa using Tab.get_set_same _ m a b
      | succ i =>
        have := ih (m.set memDefault a b) (a + 1) i (by simpa using hi)
        rw [show a + 1 + i = a + (i + 1) by omega] at this
        simpa using this
  exact key _ _ _ _ hi

end Sys2Proof.Machine
end

