-- ==== Sys2Proof/Laws/Settle.lean ====
section
/-! SUPPORT. The end of a command. -/

namespace Sys2Proof.Machine

theorem Hw.recordAll_empty (n : Nat) (h : Hw) (hq : h.flt.queue = []) : Hw.recordAll n h = h := by
  cases n <;> simp [Hw.recordAll, hq]

theorem Hw.quiet_iff (h : Hw) :
    h.quiet = true ↔ h.flt.queue = [] ∧ h.flt.holds = [] ∧ h.twin.diverged = 0 ∧ h.nothingDue = true := by
  simp [Hw.quiet, and_assoc]

/-- A fold in which no element acts. -/
theorem foldl_keeps {α β : Type} (f : β → α → β) (b : β) (l : List α) (h : ∀ a ∈ l, f b a = b) : l.foldl f b = b := by
  induction l with
  | nil => rfl
  | cons a t ih =>
    rw [List.foldl_cons, h a (by simp)]
    exact ih (fun x hx => h x (by simp [hx]))

/-- Where nothing waits on T64, no retune ends, no DAC input falls to zero and no poll goes out. -/
theorem Hw.due_nothing (h : Hw) (hd : h.nothingDue = true) :
    h.retuneDue = h ∧ h.muteDue = h ∧ h.pollsDue = h := by
  simp only [Hw.nothingDue, Bool.and_eq_true, List.all_eq_true] at hd
  obtain ⟨⟨hr, ha⟩, hp⟩ := hd
  refine ⟨?_, ?_, ?_⟩
  · refine foldl_keeps _ _ _ (fun b hb => ?_)
    have := hr b hb
    split
    · rename_i hc
      simp only [hc, Option.all_some, decide_eq_true_eq] at this
      exact if_neg (by omega)
    · rfl
  · have key : h.sill.amps.map (fun (e : Nat × AmpSt) =>
        (e.1, if e.2.mute.muting && decide (e.2.muteAt + ceilDiv (muteF h.fs * 1000000000) h.fs ≤ h.t64) then
          { e.2 with dac := 0, mute := { e.2.mute with pos := max e.2.mute.pos (muteF h.fs) } } else e.2))
        = h.sill.amps := by
      refine (List.map_congr_left ?_).trans (List.map_id _)
      rintro ⟨i, a⟩ he
      have := ha _ he
      simp only [id]
      split
      · rename_i hc
        simp only [Bool.and_eq_true, decide_eq_true_eq] at hc
        simp only [hc.1, Bool.not_true, Bool.false_or, Bool.or_eq_true, Bool.and_eq_true, decide_eq_true_eq] at this
        rcases this with ⟨h1, h2⟩ | h2
        · rw [Nat.max_eq_left h2, ← h1]
        · omega
      · rfl
    simp only [Hw.muteDue, key]
  · have key : h.table.members.filter (fun m => m.pollDue.any (· ≤ h.t64)) = [] := by
      rw [List.filter_eq_nil_iff]
      intro m hm
      have := hp m hm
      cases hc : m.pollDue with
      | none => simp
      | some t => simp_all
    simp only [Hw.pollsDue, key, List.foldl_nil]

/-- Where nothing waits, the end of a command changes the output pins alone. -/
theorem Hw.settle_quiet (h : Hw) (hq : h.quiet = true) : h.settle = h.drive := by
  obtain ⟨h1, h2, h3, h4⟩ := (Hw.quiet_iff h).1 hq
  obtain ⟨d1, d2, d3⟩ := h.due_nothing h4
  have hr : h.releaseHolds = h := by simp [Hw.releaseHolds, h2]
  have hd : h.divergeTest = h := by simp [Hw.divergeTest, h3]
  simp [Hw.settle, hr, hd, d1, d2, d3, Hw.recordAll_empty _ _ h1]

/-- A state that waits for nothing is quiet at every later time. -/
theorem Hw.still_advance (h : Hw) (hs : h.still = true) (t : Nat) : (h.advanceTo t).quiet = true := by
  have hq : h.flt.queue = [] ∧ h.flt.holds = [] ∧ h.twin.diverged = 0 ∧ h.nothingDue = true := by
    simp only [Hw.still, Bool.and_eq_true] at hs
    exact (Hw.quiet_iff h).1 hs.1.1.1
  simp only [Hw.still, Bool.and_eq_true, List.all_eq_true] at hs
  obtain ⟨⟨⟨-, hr⟩, ha⟩, hp⟩ := hs
  unfold Hw.advanceTo
  split
  · refine (Hw.quiet_iff _).2 ⟨hq.1, hq.2.1, hq.2.2.1, ?_⟩
    simp only [Hw.nothingDue, Bool.and_eq_true, List.all_eq_true]
    refine ⟨⟨?_, ?_⟩, ?_⟩
    · intro b hb
      have := hr b hb
      simp only [Hw.rail] at this ⊢
      simp_all
    · intro e he
      have := ha e he
      simp_all
    · intro m hm
      have := hp m hm
      simp_all
  · exact (Hw.quiet_iff h).2 hq

@[simp] theorem Hw.settle_outs (h : Hw) : h.settle.outs = h.settle.levels := rfl

/-- A command whose effect leaves the hardware quiet answers that effect with its pins driven. -/
theorem done_quiet (s : State) (h : Hw) (hq : h.quiet = true) : done s h = .next { s with hw := h.drive } := by
  simp [done, Hw.settle_quiet h hq]

theorem doneIf_some (s : State) (o : Option Hw) (h : Hw) (ho : o = some h) : doneIf s o = done s h := by
  subst ho; rfl

theorem done_cases {s t : State} {h : Hw} (hd : done s h = .next t) : t = { s with hw := h.settle } := by
  simp only [done, Host.Outcome.next.injEq] at hd
  exact hd.symm

theorem doneIf_cases {s t : State} {o : Option Hw} (hd : doneIf s o = .next t) :
    ∃ h, o = some h ∧ t = { s with hw := h.settle } := by
  cases o with
  | none => simp [doneIf] at hd
  | some h => exact ⟨h, rfl, done_cases hd⟩

end Sys2Proof.Machine
end

