-- ==== Sys2Proof/Laws/Step.lean ====
section
/-! SUPPORT. What a command and a step can do. -/

namespace Sys2Proof.Machine

/-- A command that answers a next state keeps the queue and ends with the fault unit's work done. -/
theorem exec_cases {c : Instr} {s t : State} (he : exec c s = .next t) :
    ∃ h : Hw, t = { s with hw := h.settle } := by
  cases c
  all_goals first
    | exact ⟨_, done_cases he⟩
    | (obtain ⟨h, _, ht⟩ := doneIf_cases he; exact ⟨h, ht⟩)

theorem step_empty (s : State) (hp : s.pending = []) : step s = .next { s with hw := s.hw.idle } := by
  simp [step, hp]

theorem step_cons (c : Instr) (cs : List Instr) (s : State) (hp : s.pending = c :: cs) :
    step s = exec c { s with pending := cs } := by
  simp [step, hp]

end Sys2Proof.Machine
end

