-- ==== Sys2Proof/Tests/Slice0.lean ====
section
/-! SUPPORT. The model's own tests: ill-formed commands refused, single effects on small states, and for every statement
with hypotheses a state and operands that meet them. -/

namespace Sys2Proof.Tests

open Sys2Proof.Machine

/-! ### Ill-formed commands -/

def kitty : InKitty :=
  { cfg :=
      { src := .brizu [.a]
        streamId := 1
        chans := 2
        fmt := 0
        depth := 4
        d := 0
        hold := some 0
        spec := false
        gmac := false
        own := false
        base := 0x10100000
        lining := 0 } }

/-- A control message of no sender in particular. -/
def ctrl0 : Ctrl := ⟨⟨0, true, 0, 0, 0⟩, 0, 0, 0, 0, 0, 0, 0, 0, true⟩

def lk : Link := ⟨0, true, 0, 0, 0⟩

def shareZero : Share :=
  { number := 0
    rate := 1
    blk := 0
    switchAt := 0
    digest := 0
    mem := []
    shadow := []
    staging := []
    stages := []
    atSwitch := []
    inKitties := []
    outKitties := []
    tasks := []
    rx := []
    buses := []
    taps := []
    limiters := []
    filters := []
    exports := []
    carriers := [] }

theorem wf_flit_current : wellFormed (.flitReceive true (.senseAmp 0 65536 0)) = false := by decide
theorem wf_flit_rail : wellFormed (.flitReceive true (.senseBoost 0 65536 0)) = false := by decide
theorem wf_flit_vin : wellFormed (.flitReceive true (.senseBoost 0 0 65536)) = false := by decide
theorem wf_cmd_port : wellFormed (.netCmdReceive .a 0 65536 0 0 true ⟨0, 0, 0, 0, 0, true, []⟩) = false := by decide
theorem wf_cmd_tag_length : wellFormed (.netCmdReceive .a 0 0 0 0 true ⟨0, 0, 0, 0, 256, true, []⟩) = false := by decide
theorem wf_session_port : wellFormed (.netSessionOpen .a 0 65536 ⟨[], [], [], []⟩) = false := by decide
theorem wf_reset_scope : wellFormed (.sysReset 256) = false := by decide
theorem wf_plan_offset : wellFormed (.planLoad (2 ^ 32) 0) = false := by decide
theorem wf_plan_total : wellFormed (.planLoad 0 (2 ^ 32)) = false := by decide
theorem wf_plan_commit : wellFormed (.planCommit (some (2 ^ 64))) = false := by decide
theorem wf_deal_read_first : wellFormed (.dealRead ⟨2 ^ 32, 0⟩) = false := by decide
theorem wf_deal_read_count : wellFormed (.dealRead ⟨0, 2 ^ 32⟩) = false := by decide
theorem wf_module_type : wellFormed (.moduleInfo 65536 0) = false := by decide
theorem wf_module_version : wellFormed (.moduleInfo 0 65536) = false := by decide
theorem wf_coef_path : wellFormed (.coefLoad (2 ^ 32) false [[]]) = false := by decide
theorem wf_coef_empty : wellFormed (.coefLoad 0 false []) = false := by decide
theorem wf_coef_sets : wellFormed (.coefLoad 0 false [[], [], [], []]) = false := by decide
theorem wf_mark_length : wellFormed (.traceMark []) = false := by decide
theorem wf_bist_run_mode : wellFormed (.bistRun 256 0 0) = false := by decide
theorem wf_debug_period : wellFormed (.debugUnlock (List.replicate 64 0) (2 ^ 32) (List.replicate 64 0)) = false := by decide
theorem wf_debug_key : wellFormed (.debugUnlock [] 0 (List.replicate 64 0)) = false := by decide
theorem wf_debug_signature : wellFormed (.debugUnlock (List.replicate 64 0) 0 []) = false := by decide
theorem wf_reg_read_none : wellFormed (.regRead 0 0) = false := by decide
theorem wf_reg_read_many : wellFormed (.regRead 0 257) = false := by decide
theorem wf_reg_write_none : wellFormed (.regWrite 0 []) = false := by decide
theorem wf_owner_key : wellFormed (.ownerKeyProgram []) = false := by decide
theorem wf_net_key : wellFormed (.netKeySet 0 []) = false := by decide
theorem wf_ready_engine : wellFormed (.ready 65536 0) = false := by decide
theorem wf_unready_engine : wellFormed (.unready 65536 0) = false := by decide
theorem wf_unready_reason : wellFormed (.unready 0 65536) = false := by decide
theorem wf_commit_number : wellFormed (.commit (2 ^ 32)) = false := by decide
theorem wf_abort_number : wellFormed (.abort (2 ^ 32)) = false := by decide
theorem wf_ack_engine : wellFormed (.ack 65536 0) = false := by decide
theorem wf_ack_stage : wellFormed (.ack 0 16) = false := by decide
theorem wf_image_offset : wellFormed (.imageData (2 ^ 32) []) = false := by decide
theorem wf_plan_move_record : wellFormed (.planMove (2 ^ 32) 0 0) = false := by decide
theorem wf_plan_move_engine : wellFormed (.planMove 0 65536 0) = false := by decide
theorem wf_param_record : wellFormed (.paramSet ⟨2 ^ 32, 0, 0, [0]⟩ none) = false := by decide
theorem wf_param_index : wellFormed (.paramSet ⟨0, 65536, 0, [0]⟩ none) = false := by decide
theorem wf_param_empty : wellFormed (.paramSet ⟨0, 0, 0, []⟩ none) = false := by decide
theorem wf_param_commit : wellFormed (.paramSet ⟨0, 0, 0, [0]⟩ (some ⟨2 ^ 64, false, 0⟩)) = false := by decide
theorem wf_param_scarf : wellFormed (.paramSet ⟨0, 0, 0, [0]⟩ (some ⟨0, false, 1025⟩)) = false := by decide
theorem wf_get_record : wellFormed (.paramGet (2 ^ 32) 0 0) = false := by decide
theorem wf_get_index : wellFormed (.paramGet 0 65536 0) = false := by decide
theorem wf_multi_empty : wellFormed (.paramSetMulti [] none) = false := by decide
theorem wf_bank_record : wellFormed (.bankSwap (2 ^ 32) ⟨0, 0⟩ ⟨0, false, 0⟩) = false := by decide
theorem wf_bank_range : wellFormed (.bankSwap 0 ⟨2 ^ 32, 0⟩ ⟨0, false, 0⟩) = false := by decide
theorem wf_bank_scarf : wellFormed (.bankSwap 0 ⟨0, 0⟩ ⟨0, false, 1025⟩) = false := by decide
theorem wf_snap_count : wellFormed (.meterSnap ⟨0, 2049⟩) = false := by decide
theorem wf_hold_range : wellFormed (.meterHold ⟨2 ^ 32, 0⟩) = false := by decide
theorem wf_clear_range : wellFormed (.meterClear ⟨0, 2 ^ 32⟩ 0) = false := by decide
theorem wf_meas_record : wellFormed (.measRead (2 ^ 32) 0 ⟨0, 0⟩) = false := by decide
theorem wf_meas_kind : wellFormed (.measRead 0 256 ⟨0, 0⟩) = false := by decide
theorem wf_stream_range : wellFormed (.streamStatus ⟨2 ^ 32, 0⟩) = false := by decide
theorem wf_sink_range : wellFormed (.sinkStatus ⟨0, 2 ^ 32⟩) = false := by decide
theorem wf_trace_range : wellFormed (.traceRead ⟨2 ^ 32, 0⟩) = false := by decide
theorem wf_enrol_seat : wellFormed (.tableEnrol ⟨0, 0, [(32, List.replicate 16 0)]⟩) = false := by decide
theorem wf_enrol_serial : wellFormed (.tableEnrol ⟨0, 0, [(1, [])]⟩) = false := by decide
theorem wf_bist_force : wellFormed (.bistRun 0 0 256) = false := by decide
theorem wf_share_number : wellFormed (.prepare { shareZero with number := 2 ^ 32 }) = false := by decide
theorem wf_share_switch : wellFormed (.prepare { shareZero with switchAt := 2 ^ 64 }) = false := by decide
theorem wf_share_stages : wellFormed (.prepare { shareZero with stages := List.replicate 17 (0, []) }) = false := by decide
theorem wf_burst_none : wellFormed (.xbarBurstRequest 0 false false false 0 0 []) = false := by decide
theorem wf_burst_data : wellFormed (.xbarBurstRequest 0 true false false 0 1 []) = false := by decide
theorem wf_tx_launch : wellFormed (.txEnqueue .a 0 (2 ^ 64) 64) = false := by decide
theorem wf_tx_short : wellFormed (.txEnqueue .a 0 0 63) = false := by decide
theorem wf_tx_long : wellFormed (.txEnqueue .a 0 0 9217) = false := by decide
theorem wf_block_dst : wellFormed (.gnogoBlock lk 65536 0 []) = false := by decide
theorem wf_block_hops : wellFormed (.gnogoBlock lk 0 256 []) = false := by decide
theorem wf_wreq_dst : wellFormed (.wreq lk 65536 0 0 1 0) = false := by decide
theorem wf_wreq_src : wellFormed (.wreq lk 0 65536 0 1 0) = false := by decide
theorem wf_wreq_tag : wellFormed (.wreq lk 0 0 (2 ^ 32) 1 0) = false := by decide
theorem wf_wreq_offset : wellFormed (.wreq lk 0 0 0 1 (2 ^ 32)) = false := by decide
theorem wf_wrsp_dst : wellFormed (.wrsp lk 65536 0 0 false []) = false := by decide
theorem wf_wrsp_src : wellFormed (.wrsp lk 0 65536 0 false []) = false := by decide
theorem wf_wrsp_tag : wellFormed (.wrsp lk 0 0 (2 ^ 32) false []) = false := by decide
theorem wf_credit_one : wellFormed (.credit lk 65536 0 0) = false := by decide
theorem wf_credit_two : wellFormed (.credit lk 0 65536 0) = false := by decide
theorem wf_credit_three : wellFormed (.credit lk 0 0 65536) = false := by decide
theorem wf_ldm_one : wellFormed (.ldm lk false (2 ^ 80) 0 0) = false := by decide
theorem wf_ldm_two : wellFormed (.ldm lk false 0 (2 ^ 80) 0) = false := by decide
theorem wf_ldm_three : wellFormed (.ldm lk false 0 0 (2 ^ 80)) = false := by decide
theorem wf_proed_tag : wellFormed (.proedCmd ⟨lk, 0, 0, 0, 0, 0, 0, 0, 0, true⟩ ⟨0, 0, 0, 0, 256, true, []⟩) = false := by decide
theorem wf_finish_sig : wellFormed (.enrolFinish 0 [] 0 0 0 (List.replicate 16 0)) = false := by decide
theorem wf_finish_seat : wellFormed (.enrolFinish 0 (List.replicate 64 0) 32 0 0 (List.replicate 16 0)) = false := by decide
theorem wf_finish_key : wellFormed (.enrolFinish 0 (List.replicate 64 0) 0 0 0 []) = false := by decide
theorem wf_sap_edge : wellFormed (.sapFrame 0 (2 ^ 64) true []) = false := by decide
theorem wf_sap_slots : wellFormed (.sapFrame 0 0 true (List.replicate 33 0)) = false := by decide
theorem wf_aes_edge : wellFormed (.aesRxFrame 0 (2 ^ 64) false false false false false false false false false 0 0) = false := by decide
theorem wf_refs_many : wellFormed (.refMeasure (List.replicate 16 ⟨0, false, 0, 0⟩)) = false := by decide
theorem wf_bist_item : wellFormed (.bistDone [⟨32, 0, 0, 0, 0, 0⟩] false) = false := by decide
theorem wf_share_depth : wellFormed (.prepare { shareZero with inKitties := [(0, { kitty.cfg with depth := 3 })] }) = false := by
  decide
theorem wf_share_deep : wellFormed (.prepare { shareZero with inKitties := [(0, { kitty.cfg with depth := 65 })] }) = false := by
  decide
theorem wf_cause_subject : wellFormed (.causeSummary ctrl0 ⟨65536, 0, 0, 0, 0, 0, 0, 0⟩) = false := by decide
theorem wf_cause_class : wellFormed (.causeSummary ctrl0 ⟨0, 256, 0, 0, 0, 0, 0, 0⟩) = false := by decide
theorem wf_cause_count : wellFormed (.causeSummary ctrl0 ⟨0, 0, 0, 0, 2 ^ 32, 0, 0, 0⟩) = false := by decide
theorem wf_cause_first : wellFormed (.causeSummary ctrl0 ⟨0, 0, 0, 0, 0, 2 ^ 64, 0, 0⟩) = false := by decide
theorem wf_cause_last : wellFormed (.causeSummary ctrl0 ⟨0, 0, 0, 0, 0, 0, 2 ^ 64, 0⟩) = false := by decide
theorem wf_cause_state : wellFormed (.causeSummary ctrl0 ⟨0, 0, 0, 0, 0, 0, 0, 3⟩) = false := by decide
theorem wf_cmd_body (b : List Byte) (h : 8192 < b.length) : wellFormed (.proedCmd ⟨lk, 0, 0, 0, 0, 0, 0, 0, 0, true⟩ ⟨0, 0, 0, 0, 0, true, b⟩) = false := by
  simp [wellFormed, cmdFits]
  omega
theorem wf_multi_long (ps : List ParamArg) (h : 64 < ps.length) : wellFormed (.paramSetMulti ps none) = false := by
  simp [wellFormed]
  omega
theorem wf_param_long (v : List Byte) (h : 256 < v.length) : wellFormed (.paramSet ⟨0, 0, 0, v⟩ none) = false := by
  simp [wellFormed, paramOk]
  omega
theorem wf_coef_long (x : List Word) (h : 4096 < x.length) : wellFormed (.coefLoad 0 false [x]) = false := by
  simp [wellFormed, u]
  omega
theorem wf_fw_long (b : List Byte) (h : 0x3FF000 < b.length) : wellFormed (.fwUpdate b) = false := by
  simp [wellFormed]
  omega
theorem wf_image_long (b : List Byte) (h : 65536 < b.length) : wellFormed (.imageData 0 b) = false := by
  simp [wellFormed, u]
  omega
theorem wf_reg_write_many (w : List Word) (h : 256 < w.length) : wellFormed (.regWrite 0 w) = false := by
  simp [wellFormed]
  omega

theorem wf_share : wellFormed (.prepare shareZero) = true := by decide

/-- The table gives no command a word. -/
theorem test_no_words : decodeTableWord 64 0x0123456789ABCDEF = none := rfl

/-! ### Helpers -/

/-- A state of the given hardware with no command waiting. -/
def on (h : Hw) : State := { State.reset with hw := h }

def hw0 : Hw := State.reset.hw

/-- Reset with register fields set. -/
def withRegs (l : List (RF × Nat)) : Hw := l.foldl (fun h e => h.p e.1 e.2) hw0

/-- Core 0 with Q0 at ones. -/
def core0 : Truss := ({} : Truss).qp 0 0xFFFFFFFF

def onCore0 (c : Truss) : Hw := hw0.setCore 0 c

/-- The engine out of reset. -/
def awake : Hw := { hw0 with boot := { hw0.boot with held := false } }

def running (op : Nat) (body : List Byte) : MbxRun :=
  { door := 0
    opcode := op
    seq := 0
    accepted := 0
    limit := 0
    body := body }

def serves (r : MbxRun) : Hw := { hw0 with mbx := { hw0.mbx with run := some r } }

def frame (vid : BitVec 12) : Frame :=
  { fcsOk := true
    fecOk := true
    length := 64
    tag := some (vid, 0)
    kind := .arp }

/-! ### Single effects, with the values of the manual's rules worked by hand -/

theorem test_add_wraps :
    (EKind.add.run (eOp (.e 2 0 1 0 0)) ((core0.vp 0 7 0xFFFFFFFF).vp 1 7 2)).vg 2 7 = 1 := by decide

theorem test_add_saturates :
    let c := EKind.add.run (eOp (.e 2 0 1 0 1)) ((core0.vp 0 7 0x7FFFFFFF).vp 1 7 1)
    c.vg 2 7 = 0x7FFFFFFF ∧ bitOf c.st.toNat 0 = true := by decide

theorem test_sub_wide_immediate :
    (EKind.sub.run (eOp (.ew 2 0 0 0x0FFF)) (core0.vp 0 3 5)).vg 2 3 = 6 := by decide

theorem test_neg_least : (EKind.neg.run (eOp (.e 1 0 0 0 1)) (core0.vp 0 0 0x80000000)).vg 1 0 = 0x7FFFFFFF := by decide

theorem test_shl_by_32 :
    (EKind.shl.run (eOp (.e 2 0 1 0 0)) ((core0.vp 0 31 1).vp 1 31 32)).vg 2 31 = 0 := by decide

theorem test_shra_fills : (EKind.shra.run (eOp (.e 2 0 1 0 0)) ((core0.vp 0 1 0x80000000).vp 1 1 40)).vg 2 1 = 0xFFFFFFFF := by
  decide

theorem test_mac_signed :
    (EKind.mac.run (eOp (.e 3 0 1 0 0)) (((core0.vp 0 4 0xFFFFFFFF).vp 1 4 3).ap 3 4 10)).ag 3 4 = 7 := by decide

theorem test_mac_limits :
    let c := EKind.mac.run (eOp (.e 3 0 1 0 0)) (((core0.vp 0 4 1).vp 1 4 1).ap 3 4 0x7FFFFFFFFFFFFFFFFFFF)
    c.ag 3 4 = 0x7FFFFFFFFFFFFFFFFFFF ∧ bitOf c.st.toNat 1 = true := by decide

theorem test_bexp_zero : (EKind.bexp.run (eOp (.e 1 0 0 0 0)) core0).vg 1 9 = 31 := by decide

theorem test_bexp_one : (EKind.bexp.run (eOp (.e 1 0 0 0 0)) (core0.vp 0 9 1)).vg 1 9 = 30 := by decide +kernel

theorem test_inactive_lane_keeps :
    (EKind.add.run (eOp (.e 2 0 1 1 0)) ((core0.vp 0 7 1).vp 2 7 9)).vg 2 7 = 9 := by decide

theorem test_fadd : (EKind.fadd.run (eOp (.e 2 0 1 0 0)) ((core0.vp 0 0 0x3F800000).vp 1 0 0x3F800000)).vg 2 0 = 0x40000000 := by
  decide

theorem test_fmul_tie_to_even :
    (F32.mul ⟨0, false⟩ false 0x3F800001 0x3F800001).w = 0x3F800002 := by decide

theorem test_cmp_less : ((EKind.cmp.run (eOp (.e 1 0 1 0 2)) (core0.vp 1 0 1)).qg 1).toNat = 1 := by decide

theorem test_circular_wraps : ptrPost (.circular 10) 0x19 3 = 0x12 := by decide

theorem test_reversed : ptrAddr (.reversed 3) 4 4 = 2 := by decide

theorem test_unity_gain : mixTerm (2 ^ 28) (2 ^ 20) = 2 ^ 30 := by decide

theorem test_media_index : ({ hw0 with deal := { hw0.deal with rate := 1 } } : Hw).media 1000000000 = 48000 := by decide

theorem test_media_instant : ({ hw0 with deal := { hw0.deal with rate := 1 } } : Hw).instant 1 = 20834 := by decide

theorem test_bytes_little_endian : (hw0.wr32 0x10000000 0x11223344).rd8 0x10000000 = 0x44 := by decide

theorem test_written_default_leaves_no_cell : ((hw0.wr8 0x10000000 5).wr8 0x10000000 0).mem = [] := by decide

theorem test_host_misaligned : (awake.hostRead 2 1).mbx.hostTokens = [0x5A] := by rfl

/-! ### What the statements assume can hold -/

theorem wit_IdleStep : State.reset.pending = [] ∧ -(2 ^ 40 : Int) ≤ State.reset.hw.time.rate := by decide

theorem wit_PinsKept : (State.reset.pinsFollow ∧ State.reset.nonePosted) ∧ ∃ t, step State.reset = .next t :=
  ⟨⟨rfl, rfl⟩, ⟨_, rfl⟩⟩

theorem wit_QueueShrinks : ∃ t, step { State.reset with pending := [.bypass, .clamp] } = .next t := ⟨_, rfl⟩

theorem wit_ClockPins_unshown : ∃ t, exec .powerOn State.reset = .next t ∧ t.hw.clk.shown = false := ⟨_, rfl, rfl⟩

theorem wit_ClockPins_shown :
    ∃ t, exec .bypass (on { withRegs [(Reg.CLK_STAT_state, 2)] with clk := { hw0.clk with shown := true } }) = .next t ∧
      t.hw.clk.shown = true ∧ t.hw.g Reg.CLK_STAT_state = 2 := ⟨_, rfl, rfl, rfl⟩

theorem wit_ClockPins_record :
    ∃ t r, exec .bypass State.reset = .next t ∧ t.hw.ring.postFreeze ≠ 0 ∧
      (t.hw.trace 7 []).ring.recs.find? t.hw.ring.writeIdx = some r ∧ t.hw.g Reg.CLK_STAT_state ≠ 2 :=
  ⟨_, _, rfl, by decide, rfl, by decide⟩

theorem wit_ClockPins_locked :
    ∃ t r, exec .bypass (on (withRegs [(Reg.CLK_STAT_state, 2), (Reg.TIME_STAT_state, 2)])) = .next t ∧
      t.hw.ring.postFreeze ≠ 0 ∧ (t.hw.trace 7 []).ring.recs.find? t.hw.ring.writeIdx = some r ∧
      t.hw.g Reg.CLK_STAT_state = 2 ∧ t.hw.g Reg.TIME_STAT_state = 2 :=
  ⟨_, _, rfl, by decide, rfl, rfl, rfl⟩

theorem wit_FaultPin_high :
    ∃ t, exec .bypass (on (withRegs [(Reg.MBX_STATUS_ready, 1), (Reg.SYS_STATE_state, 2)])) = .next t ∧
      t.hw.outs.faultN = true := ⟨_, rfl, by decide⟩

theorem wit_HostIrqPin_low :
    ∃ t, exec .bypass (on (withRegs [(Reg.HOST_IRQ_STAT_fault, 1), (Reg.HOST_IRQ_EN_fault, 1)])) = .next t ∧
      t.hw.outs.hostIrqN = false := ⟨_, rfl, by decide⟩

theorem wit_SafeGates_safe : ∃ t, exec .bypass State.reset = .next t ∧ t.hw.sill.safe = true := ⟨_, rfl, rfl⟩

theorem wit_SafeGates_extest : ∃ t, exec .extest State.reset = .next t ∧ t.hw.tap.ir = .extest := ⟨_, rfl, rfl⟩

theorem wit_SafeGates_clamp : ∃ t, exec .clamp State.reset = .next t ∧ t.hw.tap.ir = .clamp := ⟨_, rfl, rfl⟩

theorem wit_SafeGates_highz : ∃ t, exec .highz State.reset = .next t ∧ t.hw.tap.ir = .highz := ⟨_, rfl, rfl⟩

theorem wit_ReservedWriteStops :
    hw0.place 0x0A false 0x40010004 = .reg 0x40010004 ∧ hw0.rsvBad 0x40010004 0x100 = true := by decide

/-- What MemoryWrite assumes of a size, an address, and the byte it names. -/
def memoryWriteAssumes (size : Size) (a : Word) (n b : Nat) : Prop :=
  (size = .b8 ∧ n = 1 ∨ size = .b16 ∧ n = 2 ∨ size = .b32 ∧ n = 4 ∨ size = .b64 ∧ n = 8) ∧ a.toNat % n = 0 ∧
    hw0.place 0x0A false a.toNat = .mem b ∧ hw0.quiet = true ∧ (on hw0).nonePosted

theorem wit_MemoryWrite_b8 : memoryWriteAssumes .b8 0x20000001 1 0x20000001 :=
  ⟨by decide, by decide, by decide, rfl, rfl⟩

theorem wit_MemoryWrite_b16 : memoryWriteAssumes .b16 0x10000002 2 0x10000002 :=
  ⟨by decide, by decide, by decide, rfl, rfl⟩

theorem wit_MemoryWrite_b32 : memoryWriteAssumes .b32 0x21000004 4 0x21000004 :=
  ⟨by decide, by decide, by decide, rfl, rfl⟩

theorem wit_MemoryWrite_b64 : memoryWriteAssumes .b64 0x383FFFF8 8 0x383FFFF8 :=
  ⟨by decide, by decide, by decide, rfl, rfl⟩

theorem wit_HostWriteBuffer :
    awake.boot.held = false ∧ awake.quiet = true ∧ (on awake).nonePosted ∧ awake.g Reg.MBX_STATUS_busy = 0 ∧
      (0x13FC : BitVec 24).toNat % 4 = 0 ∧ (0x1FFFC : BitVec 24).toNat % 4 = 0 ∧
      (0x1000 ≤ (0x13FC : BitVec 24).toNat ∧ (0x13FC : BitVec 24).toNat + 4 * [(7 : Word)].length ≤ 0x1400) ∧
      (0x10000 ≤ (0x1FFFC : BitVec 24).toNat ∧ (0x1FFFC : BitVec 24).toNat + 4 * [(7 : Word)].length ≤ 0x20000) :=
  ⟨rfl, rfl, rfl, rfl, by decide, by decide, by decide, by decide⟩

theorem wit_HostReadBack :
    (on awake).hw.boot.held = false ∧ awake.quiet = true ∧ (on awake).nonePosted ∧ awake.g Reg.MBX_STATUS_busy = 0 ∧
      (0x13FC : BitVec 24).toNat % 4 = 0 ∧ (0x1000 ≤ (0x13FC : BitVec 24).toNat ∧ (0x13FC : BitVec 24).toNat < 0x1400) ∧
      ∃ t, exec (.hostWrite 0x13FC [7] 0) (on awake) = .next t := ⟨rfl, rfl, rfl, rfl, by decide, by decide, _, rfl⟩

theorem wit_HostReadBack_bulk :
    (0x10000 ≤ (0x10000 : BitVec 24).toNat ∧ (0x10000 : BitVec 24).toNat < 0x20000) ∧
      ∃ t, exec (.hostWrite 0x10000 [7] 0) (on awake) = .next t := ⟨by decide, _, rfl⟩

theorem wit_HostUnmapped : awake.hostPlace 0x1800 = .unmapped ∧ awake.hostPlace 0x800000 = .unmapped ∧
    awake.boot.held = false ∧ (on awake).nonePosted := ⟨by decide, by decide, rfl, rfl⟩

theorem wit_DoorbellRejected :
    let h := withRegs [(Reg.MBX_STATUS_ready, 1), (Reg.MBX_STATUS_rejected, 1)]
    h.quiet = true ∧ h.g Reg.MBX_STATUS_ready ≠ 0 ∧ h.g Reg.MBX_STATUS_rejected ≠ 0 := by decide

theorem wit_PinmuxFixedBall : ¬(184 ≤ (183 : Fin 1444).val ∧ (183 : Fin 1444).val ≤ 347) ∧
    ¬(184 ≤ (348 : Fin 1444).val ∧ (348 : Fin 1444).val ≤ 347) := by decide

theorem wit_HostMuteOn : hw0.quiet = true ∧ (1 : Word).toNat % 2 = 1 := by decide

theorem wit_ResetPinKeeps :
    (Reg.FAULT_STICKY_bit 7).addr ∈ (List.range 8).map (fun k => (Reg.FAULT_STICKY_bit k).addr) ∧
      Reg.FAULT_HIST0_t64 63 ∈ hist32 63 ∧ Reg.FAULT_FIRST7_valid ∈ first32 ∧ Reg.FAULT_RECOV_count.lo < 32 := by decide

theorem wit_ResetReleaseStraps : (on hw0).hw.quiet = true := by decide

theorem wit_HealthFalls : (on hw0).hw.still = true ∧ hw0.fit = false := by decide

theorem wit_TestPort : (on hw0).hw.quiet = true := by decide

theorem wit_MediaIndex : 3 * 1000000000 ≤ 62500 * hw0.fs ∨ 3 * 1000000000 ≤ 90000 * hw0.fs := by decide

theorem wit_ServoRecord : hw0.quiet = true ∧ hw0.ring.postFreeze ≠ 0 ∧ hw0.g Reg.TIME_STAT_state ≠ 2 := by decide

theorem wit_FrameCheckFails :
    let h : Hw := { hw0 with kin := [(5, kitty)] }
    h.quiet = true ∧ h.inK (5 : Fin 4096).val = some kitty ∧ kitty.cfg.spec = false ∧ kitty.cfg.lining = 0 := by decide

theorem wit_ChangePushQueues_push :
    let h := withRegs [(Reg.JOIN_CHG_TGT_kind, 10), (Reg.JOIN_CHG_CTL_law, 1)]
    h.quiet = true ∧ h.g Reg.JOIN_CHG_TGT_kind = 10 ∧ h.join.queue.length < 1024 ∧ h.g Reg.JOIN_CHG_CTL_law ≠ 0 := by decide

theorem wit_ChangePushQueues_full (q : Queued) :
    let h := withRegs [(Reg.JOIN_CHG_TGT_kind, 1)]
    let h' : Hw := { h with join := { h.join with queue := List.replicate 1024 q } }
    h'.quiet = true ∧ h'.g Reg.JOIN_CHG_TGT_kind = 1 ∧ 1024 ≤ h'.join.queue.length :=
  ⟨rfl, rfl, Nat.le_of_eq List.length_replicate.symm⟩

theorem wit_ChangePushQueues_reserved :
    (withRegs [(Reg.JOIN_CHG_TGT_kind, 0)]).g Reg.JOIN_CHG_TGT_kind = 0 ∧
      10 < (withRegs [(Reg.JOIN_CHG_TGT_kind, 11)]).g Reg.JOIN_CHG_TGT_kind := by decide

theorem wit_MixTerm_sample : 0 < hw0.bs := by decide

theorem wit_MixTerm_extremes :
    ∀ e ∈ [((-(2 ^ 31), -(2 ^ 23)) : Int × Int), (2 ^ 31 - 1, 2 ^ 23 - 1)],
      -(2 ^ 31) ≤ e.1 ∧ e.1 < 2 ^ 31 ∧ -(2 ^ 23) ≤ e.2 ∧ e.2 < 2 ^ 23 := by decide

theorem wit_ExecuteSlotCompletes :
    (onCore0 core0).quiet = true ∧ (onCore0 core0).bare 0 = true ∧ EKind.mpy.legal (eOp (.e 7 0 1 0 0)) = true ∧
      WKind.ldi.legal (wOp ⟨1, 0, 0, 0, 0, 0xFFFF⟩) = true ∧ EKind.mpy.legal (eOp (.e 8 0 1 0 0)) = false := by decide

theorem wit_ExecuteSlotCompletes_mode :
    let h := onCore0 (core0.lp 3 0x00F00000)
    let x := wOp ⟨1, 3, 0, 0, 0, 0⟩
    h.quiet = true ∧ h.bare 0 = true ∧ WKind.fromp.legal x = true ∧
      (∃ p ∈ (XOp.w .fromp x).ptrs, ptrMode ((h.core 0).lg p) = none) := by decide

theorem wit_ESlotFrame : EKind.cmp.legal (eOp (.e 3 0 1 0 15)) = true ∧ (7 : Nat) ∉ ({} : Truss).active 0 ∧
    ((6 ≤ 8 ∧ 8 < 9) ∨ (16 ≤ 8 ∧ 8 < 32)) := by decide

theorem wit_IntegerLanes : 31 ∈ core0.active (0 : BitVec 2).toNat := by decide

theorem wit_AccumulateSaturates :
    EKind.mac.legal (eOp (.e 7 0 1 0 15)) = true ∧ 0 ∈ core0.active (0 : BitVec 2).toNat := by decide

theorem wit_BexpCounts : 31 ∈ core0.active (0 : BitVec 2).toNat ∧ (core0.qg 3 &&& core0.qg 0) = 0 := by decide

theorem wit_ImmediateBundle : hw0.bare 0 = true ∧ hw0.quiet = true ∧ (0x0F : BitVec 6).toNat < 0x10 ∧
    (0x10 ≤ (0x10 : BitVec 6).toNat ∧ (0x1F : BitVec 6).toNat < 0x20) ∧
    (0x20 ≤ (0x20 : BitVec 6).toNat ∧ (0x2F : BitVec 6).toNat < 0x30) ∧ 0x30 ≤ (0x30 : BitVec 6).toNat := by decide

theorem wit_AddressRange_high :
    let h := onCore0 (core0.pp 0 0x10000)
    h.bare 0 = true ∧ memDec (.ma 0 1 0 2 0) = some ⟨.x, 1, 0, .broadcast, .none⟩ ∧
      ptrMode ((h.core 0).lg 0) = some .linear ∧ 31 ∈ (h.core 0).active 0 ∧
      2 ^ Space.x.bits ≤ (h.core 0).laneAddr ⟨.x, 1, 0, .broadcast, .none⟩ .linear 31 := by decide

theorem wit_AddressRange_far :
    let h := onCore0 (core0.pp 0 0x10000002)
    h.bare 0 = true ∧ memDec (.ma 3 1 0 2 0) = some ⟨.far, 1, 0, .broadcast, .none⟩ ∧
      (h.core 0).laneAddr ⟨.far, 1, 0, .broadcast, .none⟩ .linear 0 % 4 ≠ 0 := by decide

theorem wit_TrapRecords : hw0.quiet = true ∧ hw0.masked 9 = false ∧ hw0.bare 9 = true ∧ (7 : BitVec 5).toNat < 0x0C ∧
    (7 : BitVec 5).toNat ≠ 8 := by decide

theorem wit_TrapRecords_brk :
    let h := withRegs [(Reg.SYS_DEBUG_unlocked, 1)]
    h.bare 9 = true ∧ h.masked 9 = false ∧ h.g Reg.SYS_DEBUG_unlocked ≠ 0 ∧ (0x0B : BitVec 5).toNat = 0x0B := by decide

theorem wit_StickyBeforeQueue_full :
    let h : Hw := { hw0 with flt := { hw0.flt with queue := List.replicate 16 ⟨0, 0, 0, 0, 0⟩ } }
    h.masked 255 = false ∧ h.flt.queue.length = 16 := by decide

theorem wit_StickyBeforeQueue_free : hw0.masked 0 = false ∧ hw0.flt.queue.length < 16 := by decide

def dmaBusy (state pend : Nat) : Hw :=
  withRegs [(Reg.DMA_CH_CFG_en 15, 1), (Reg.DMA_CH_CFG_mode 15, 1), (Reg.DMA_CH_STAT_state 15, state),
    (Reg.DMA_CH_STAT_pend 15, pend)]

theorem wit_DmaDoorbellHeld_first :
    (dmaBusy 1 0).quiet = true ∧ (dmaBusy 1 0).g (Reg.DMA_CH_CFG_en 15) ≠ 0 ∧ (dmaBusy 1 0).g (Reg.DMA_CH_CFG_mode 15) = 1 ∧
      (dmaBusy 1 0).g (Reg.DMA_CH_STAT_state 15) = 1 ∧ (dmaBusy 1 0).g (Reg.DMA_CH_STAT_pend 15) = 0 := by decide

theorem wit_DmaDoorbellHeld_second :
    (dmaBusy 2 1).quiet = true ∧ (dmaBusy 2 1).g (Reg.DMA_CH_CFG_en 15) ≠ 0 ∧ (dmaBusy 2 1).g (Reg.DMA_CH_CFG_mode 15) = 1 ∧
      (dmaBusy 2 1).g (Reg.DMA_CH_STAT_state 15) = 2 ∧ (dmaBusy 2 1).g (Reg.DMA_CH_STAT_pend 15) = 1 := by decide

theorem wit_DmaDoorbellHeld_merged :
    ((dmaBusy 2 1).dmaArrive 15 true).xbar.dmaAt.find? 15 = some ((dmaBusy 2 1).t64, true) ∧
      (dmaBusy 2 1).xbar.dmaAt.find? 15 ≠ some ((dmaBusy 2 1).t64, true) := by decide

theorem wit_ServoDisabled : hw0.quiet = true := by decide

theorem wit_TimerArmed :
    hw0.quiet = true ∧ hw0.g (Reg.TIME_TMR_CTRL_pin (31 : Fin 32).val) = bitsOf (2 : Word).toNat 3 1 ∧ (31 : Fin 32) ≠ 0 := by decide

def captured (n : Nat) : Hw :=
  let h := withRegs [(Reg.TIME_CAP_CTRL_edge 15, 3), (Reg.PINMUX_BALL_func 184, 2), (Reg.PINMUX_BALL_unit 184, 15),
    (Reg.PINMUX_BALL_active 184, 1)]
  { h with time := { h.time with capt := [(15, List.replicate n (0, true))] } }

theorem wit_CaptureFifo_inactive :
    let h := withRegs [(Reg.TIME_CAP_CTRL_edge 0, 3)]
    h.quiet = true ∧ h.g (Reg.TIME_CAP_CTRL_edge 0) = 3 ∧ h.fnActive 0x02 0 = false := by decide

theorem wit_CaptureFifo_free : (captured 3).quiet = true ∧ (captured 3).g (Reg.TIME_CAP_CTRL_edge 15) = 3 ∧
    (captured 3).fnActive 0x02 15 = true ∧
    ((captured 3).time.capt.get [] 15).length < 4 := by decide

theorem wit_CaptureFifo_full : (captured 4).g (Reg.TIME_CAP_CTRL_edge 15) = 3 ∧ (captured 4).fnActive 0x02 15 = true ∧
    4 ≤ ((captured 4).time.capt.get [] 15).length := by decide

theorem wit_VidDrop :
    let h := withRegs [(Reg.MAC_CTRL_en 0, 1)]
    let f := frame 5
    h.quiet = true ∧ h.g (Reg.MAC_CTRL_en (pn .a)) ≠ 0 ∧ f.fcsOk = true ∧ f.fecOk = true ∧ 64 ≤ f.length ∧
      f.length ≤ h.frameMax (pn .a) ∧ f.kind ≠ .pause ∧ h.vidOk (pn .a) f = false := by decide

theorem wit_TableKeyActive :
    ({ hw0 with table := { hw0.table with nextKey := some ⟨3, [], 100⟩ } } : Hw).still = true ∧
    ({ hw0 with table := { hw0.table with nextKey := some ⟨3, [], 100⟩ } } : Hw).table.nextKey = some ⟨3, [], 100⟩ := ⟨rfl, rfl⟩

theorem wit_OneFieldCommands :
    (withRegs [(Reg.LANE_CTRL_prbs_chk 7, 1)]).quiet = true ∧
      (withRegs [(Reg.LANE_CTRL_prbs_chk 7, 1)]).g (Reg.LANE_CTRL_prbs_chk (7 : Fin 8).val) ≠ 0 ∧
      (withRegs [(Reg.LANE_CTRL_prbs_chk 7, 1)]).g (Reg.LANE_STAT_prbs_sync (7 : Fin 8).val) = 0 := by decide

theorem wit_OneFieldCommands_sync :
    let h := withRegs [(Reg.LANE_CTRL_prbs_chk 7, 1), (Reg.LANE_STAT_prbs_sync 7, 1)]
    h.quiet = true ∧ h.g (Reg.LANE_CTRL_prbs_chk (7 : Fin 8).val) ≠ 0 ∧ h.g (Reg.LANE_STAT_prbs_sync (7 : Fin 8).val) ≠ 0 := by
  decide

theorem wit_OpenLoopHold :
    let h := hw0.setAmp 15 { step := .hold, quick := true }
    h.still = true ∧ (h.ampSt (15 : Fin 16).val).step = .hold := by decide

theorem wit_BistBusy : (withRegs [(Reg.BIST_STAT_state, 1)]).g Reg.BIST_STAT_state = 1 := by decide

theorem wit_CommandsOutOfRange_owner :
    let h : Hw := { serves (running 0x0B05 []) with otp := [(0x30, 1)] }
    h.quiet = true ∧ h.mbx.run = some (running 0x0B05 []) ∧ (running 0x0B05 []).result = none ∧ h.ownerSet = true ∧
      (List.replicate 64 (0 : Byte)).length = 64 := by decide

theorem wit_CommandsOutOfRange_key :
    let h := serves (running 0x0B06 [])
    let h' : Hw := { h with mbx := { h.mbx with netKeys := [⟨1, [], 0⟩, ⟨2, [], 0⟩, ⟨3, [], 0⟩, ⟨4, [], 0⟩] } }
    4 ≤ (h'.mbx.netKeys.filter (fun k => k.keyId != (0x30000005 : Word).toNat)).length ∧
      h'.mbx.run = some (running 0x0B06 []) := by decide

theorem wit_CommandsOutOfRange_plan :
    let h := serves (running 0x0201 [2, 0, 0, 0])
    h.frozenWorker = false ∧ h.bulk.isSome = true ∧ 2097152 < 2097153 := by decide

theorem wit_RailInRange : hw0.quiet = true ∧ 873 ≤ 873 ∧ 873 ≤ 927 ∧ railOk 4 873 = true ∧ railOk 4 927 = true ∧ railOk 4 872 = false ∧ railOk 4 928 = false := by decide

def carriers : Hw :=
  withRegs [(Reg.AMP_CARRIER_en 0, 1), (Reg.AMP_CARRIER_en 1, 1), (Reg.AMP_CARRIER_en 2, 1), (Reg.AMP_CARRIER_freq 0, 693),
    (Reg.AMP_CARRIER_freq 1, 909), (Reg.AMP_CARRIER_freq 2, 1089), (Reg.AMP_CARRIER_guard 0, 10),
    (Reg.AMP_CARRIER_guard 1, 10), (Reg.AMP_CARRIER_guard 2, 10), (Reg.AMP_OSC_f_idle 4, 400), (Reg.AMP_OSC_f_floor 4, 360)]

theorem wit_BandExample_carriers :
    (∀ i < 16, carriers.g (Reg.AMP_CARRIER_en i) = if i < 3 then 1 else 0) ∧ carriers.g (Reg.AMP_CARRIER_freq 0) = 693 ∧
      carriers.g (Reg.AMP_CARRIER_freq 1) = 909 ∧ carriers.g (Reg.AMP_CARRIER_freq 2) = 1089 ∧
      (∀ i < 3, carriers.g (Reg.AMP_CARRIER_guard i) = 10) := by decide

theorem wit_BandExample_channel : carriers.g (Reg.AMP_OSC_f_idle 4) = 400 ∧ carriers.g (Reg.AMP_OSC_f_floor 4) ≤ 360 ∧
    carriers.bandOf 4 = (368, 448) := by decide

theorem wit_AbortDiscards :
    ({ hw0 with deal := { hw0.deal with prepared := some shareZero } } : Hw).deal.prepared = some shareZero ∧ hw0.quiet = true ∧
      shareZero.number = 0 ∧ hw0.deal.committed = false := by decide

theorem wit_TrussComplete_store :
    ∃ h, Hw.runPosted 4096 ((onCore0 core0).onCore 0 (fun h => h.opStore 0 (.ma 0 1 0 0 0))) = some h :=
  Option.isSome_iff_exists.1 (by decide)

theorem wit_TrussComplete_step : ∃ h, Hw.runPosted 4096 ((hw0.s1 (Reg.TRUSS_CTRL_step 0)).trussStep 0) = some h := ⟨_, rfl⟩

theorem wit_HostTransferComplete_write : ∃ h, awake.hostStore 0x1000 [7] 0 = some h := ⟨_, rfl⟩

theorem wit_HostTransferComplete_register :
    ∃ h, (hw0.masterWrite 0x0A .b32 0x40010004 7) = some h := Option.isSome_iff_exists.1 (by decide)

theorem wit_HostTransferComplete_piece : ∃ h, (hw0.pieceResponse 50 none) = some h := ⟨_, rfl⟩

theorem wit_ProedComplete_write : ∃ h, (hw0.regWriteCmd 0x40010004 [7]) = some h := ⟨_, rfl⟩

theorem wit_StoreStepWritePiece_store :
    let h := onCore0 core0
    let o : MemOp := ⟨.x, 1, 0, .contiguous, .none⟩
    h.quiet = true ∧ h.bare 0 = true ∧ (on h).nonePosted ∧ memDec (.ma 0 1 0 0 0) = some o ∧
      ptrMode ((h.core 0).lg 0) = some .linear ∧ ∀ i ∈ (h.core 0).active 0, o.space.ok ((h.core 0).laneAddr o .linear i) = true ∧
        h.storePlace 0 o.space i ((h.core 0).laneAddr o .linear i) = some (0x21000000 + 4 * i) :=
  ⟨rfl, rfl, rfl, by decide, by decide, by decide⟩

theorem wit_StoreStepWritePiece_far :
    let h := onCore0 (core0.pp 0 0x10000000)
    let o : MemOp := ⟨.far, 1, 0, .broadcast, .none⟩
    memDec (.ma 3 1 0 2 0) = some o ∧ ∀ i ∈ (h.core 0).active 0, o.space.ok ((h.core 0).laneAddr o .linear i) = true ∧
      h.storePlace 0 o.space i ((h.core 0).laneAddr o .linear i) = some 0x10000000 := by decide

/-- Core 0 halted in task 0, with a bundle at address 0 and a budget of 100 cycles. -/
def stepping (w : Nat) : Hw :=
  let h := (withRegs [(Reg.TRUSS_TL_ACT2_budget 0 0, 100)]).setCore 0 { core0 with halted := true, entry := some 0 }
  h.wrN 0x21080000 8 w

theorem wit_StoreStepWritePiece_step :
    let h := stepping (0xC000000000000000 + 7)
    h.quiet = true ∧ (h.core 0).halted = true ∧ (h.core 0).entry = some 0 ∧ (h.core 0).cycles + 1 < (h.tlEntry 0 0).budget ∧
      decBundle (h.rdN (0x21080000 + 0 * 0x100000 + 8 * (h.core 0).pc) 8) = some (.imm 0 7) := by decide

theorem wit_StoreStepWritePiece_execute :
    let h := stepping 0
    decBundle (h.rdN (0x21080000 + 0 * 0x100000 + 8 * (h.core 0).pc) 8) = some (.exec .nop none none) := by decide

/-- REG_WRITE is served and the debug window unlocked. -/
def regWriting : Hw := { withRegs [(Reg.SYS_DEBUG_unlocked, 1)] with mbx := { hw0.mbx with run := some (running 0xC02 []) } }

theorem wit_StoreStepWritePiece_write :
    regWriting.quiet = true ∧ regWriting.mbx.run = some (running 0xC02 []) ∧ regWriting.g Reg.SYS_DEBUG_unlocked ≠ 0 ∧
      regWriting.place 0x0A false 0x10000000 = .mem 0x10000000 ∧ regWriting.place 0x0A false 0x40010004 = .reg 0x40010004 ∧
      regWriting.stalls 0x40010004 = false ∧ regWriting.rsvBad 0x40010004 7 = false ∧ stepsCore 0x40010004 7 = false ∧
      hw0.g Reg.SYS_DEBUG_unlocked = 0 := by decide

def aPiece (write : Bool) : Piece :=
  { master := 2
    write := write
    lock := false
    unlock := false
    addr := 0x10000000
    len := 4
    data := [1, 2, 3, 4] }

def pieceFlying (write : Bool) : Hw := hw0.setArb 1 { hw0.arb 1 with inFlight := some (aPiece write) }

theorem wit_StoreStepWritePiece_piece : ∀ w : Bool,
    ((pieceFlying w).arb 1).inFlight = some (aPiece w) ∧ (aPiece w).len ≠ 0 ∧ (aPiece w).write = w ∧
      (pieceFlying w).place (aPiece w).master (aPiece w).dealer (aPiece w).addr = .mem 0x10000000 ∧
      (pieceFlying w).quiet = true := by decide

end Sys2Proof.Tests
end

section
/-! The family of the architecture: the gates in sill safe state and under the drive instructions of the test access
port (R13, R524). -/

namespace Sys2Proof.Machine

theorem Hw.tapDrives_iff (h : Hw) :
    h.tapDrives = true ↔ h.tap.ir = .extest ∨ h.tap.ir = .clamp ∨ h.tap.ir = .highz := by
  simp [Hw.tapDrives, or_assoc]

/-- Every gate level is masked by sill safe state and by the test access port. -/
theorem Hw.levels_gates_low (h : Hw) (hm : h.sill.safe = true ∨ h.tapDrives = true) :
    h.levels.ampGates = [] ∧ h.levels.boostGates = [] := by
  rcases hm with hsafe | htap
  · simp [Hw.levels, hsafe]
  · simp [Hw.levels, htap]

/-- After a command the output pins stand at their levels, whatever they were before it. -/
theorem exec_pinsFollow {c : Instr} {s t : State} (he : exec c s = .next t) : t.pinsFollow := by
  obtain ⟨h, rfl⟩ := exec_cases he
  exact h.settle_outs

/-- Settles O10: a command leaves the pins at the levels of the state that it answers, where the mask stands. -/
theorem safeGates : Obligations.SafeGates := by
  intro c s t he hmask
  have houts : t.hw.outs = t.hw.levels := exec_pinsFollow he
  rw [houts]
  exact t.hw.levels_gates_low (hmask.imp_right t.hw.tapDrives_iff.2)

end Sys2Proof.Machine
end

section
/-! The media sample index and the instants of its samples (R19). -/

namespace Sys2Proof.Machine

/-- The model's rounding up is Mathlib's. -/
theorem ceilDiv_le_iff {a b : Nat} (hb : 0 < b) (m : Nat) : ceilDiv a b ≤ m ↔ a ≤ m * b := by
  rw [ceilDiv, ← Nat.ceilDiv_eq_add_pred_div, ceilDiv_le_iff_le_mul hb, Nat.mul_comm]

theorem rateHz_pos (c : Nat) : 0 < rateHz c := by
  unfold rateHz
  split <;> decide

/-- The instant of an index is the least T64 value that its sample period reaches. -/
theorem Hw.instant_le_iff (h : Hw) (n t : Nat) : h.instant n ≤ t ↔ n * 1000000000 ≤ t * h.fs :=
  ceilDiv_le_iff (rateHz_pos _) t

theorem Hw.le_media_iff (h : Hw) (n t : Nat) : n ≤ h.media t ↔ n * 1000000000 ≤ t * h.fs :=
  Nat.le_div_iff_mul_le (by decide)

/-- Settles O22: index and instant are the two sides of one inequality, n × 10^9 ≤ t × fs. -/
theorem mediaIndex : Obligations.MediaIndex := by
  intro h t n
  have reached : n * 1000000000 ≤ h.instant n * h.fs := (h.instant_le_iff n _).1 le_rfl
  have least : ∀ m, n * 1000000000 ≤ m * h.fs → h.instant n ≤ m := fun m => (h.instant_le_iff n m).2
  have epoch : h.media 0 = 0 := by simp [Hw.media]
  exact ⟨rfl, epoch, reached, least, (h.le_media_iff n t).trans (h.instant_le_iff n t).symm⟩

end Sys2Proof.Machine
end

section
/-! Records of the trace ring while it is not frozen, and the servo status record (R57, R59, R60). -/

namespace Sys2Proof.Machine

/-- A record changes the trace ring alone. -/
theorem Hw.traceAt_frame (h : Hw) (t type : Nat) (conseq : Bool) (payload : List Byte) :
    ∃ r, h.traceAt t type conseq payload = { h with ring := r } := by
  by_cases hf : h.ring.postFreeze = 0
  · exact ⟨_, by simp only [Hw.traceAt, if_pos hf]; rfl⟩
  · exact ⟨_, by simp only [Hw.traceAt, if_neg hf]; rfl⟩

@[simp] theorem Hw.traceAt_ring_rseq (h : Hw) (t type : Nat) (conseq : Bool) (payload : List Byte) :
    (h.traceAt t type conseq payload).ring.rseq = (h.ring.rseq + 1) % 4294967296 := by
  by_cases hf : h.ring.postFreeze = 0 <;> simp [Hw.traceAt, hf]

/-- A ring that is not frozen holds the record in the slot at the write index. -/
theorem Hw.traceAt_stored (h : Hw) (t type : Nat) (conseq : Bool) (payload : List Byte) (hf : h.ring.postFreeze ≠ 0) :
    (h.traceAt t type conseq payload).ring.recs.find? h.ring.writeIdx =
      some { t64 := t, engineId := h.g Reg.GNOGO_ROLE_engine_id, type := type,
             rflags := b2n conseq + 2 * b2n h.uncertain, rseq := h.ring.rseq, payload := padB 16 payload } := by
  simp only [Hw.traceAt, if_neg hf]
  exact Tab.find?_put_same _ _ _

/-- Padding to a length keeps the bytes of a field that lies within it. -/
theorem padB_take_append (n : Nat) (xs ys : List Byte) (hn : xs.length ≤ n) :
    (padB n (xs ++ ys)).take xs.length = xs := by
  simp [padB, List.take_append, hn]

@[simp] theorem leBytes_length (n v : Nat) : (leBytes n v).length = n := by
  induction n generalizing v with
  | zero => rfl
  | succ n ih => simp [leBytes, ih]

theorem Hw.uncertain_of_not_locked (h : Hw) (hs : h.g Reg.TIME_STAT_state ≠ 2) : h.uncertain = true := by
  simp [Hw.uncertain, hs]

/-- The fold that takes the greatest of 0 and a list is an upper bound of it, and 0 or one of its entries. -/
theorem foldl_max_spec (l : List Nat) :
    l.foldl Nat.max 0 ∈ 0 :: l ∧ ∀ b ∈ 0 :: l, b ≤ l.foldl Nat.max 0 :=
  List.max?_eq_some_iff.1 List.max?_cons'

/-- The offsets measured in the second before. -/
def Hw.recentPeaks (h : Hw) : List (Nat × Nat) := h.time.peaks.filter (fun e => h.t64 ≤ e.1 + 1000000000)

theorem Hw.mem_recentPeaks (h : Hw) (e : Nat × Nat) :
    e ∈ h.recentPeaks ↔ e ∈ h.time.peaks ∧ h.t64 ≤ e.1 + 1000000000 := by
  simp [Hw.recentPeaks]

theorem Hw.peakOffset_eq (h : Hw) : h.peakOffset = (h.recentPeaks.map (·.2)).foldl Nat.max 0 := rfl

theorem Hw.le_peakOffset (h : Hw) (e : Nat × Nat) (he : e ∈ h.time.peaks) (ht : h.t64 ≤ e.1 + 1000000000) :
    e.2 ≤ h.peakOffset := by
  have hmem : e.2 ∈ h.recentPeaks.map (·.2) := List.mem_map_of_mem ((h.mem_recentPeaks e).2 ⟨he, ht⟩)
  rw [h.peakOffset_eq]
  exact (foldl_max_spec _).2 _ (List.mem_cons_of_mem _ hmem)

theorem Hw.peakOffset_attained (h : Hw) :
    h.peakOffset = 0 ∨ ∃ e ∈ h.time.peaks, h.t64 ≤ e.1 + 1000000000 ∧ e.2 = h.peakOffset := by
  rw [h.peakOffset_eq]
  rcases List.mem_cons.1 (foldl_max_spec (h.recentPeaks.map (·.2))).1 with hzero | hmem
  · exact .inl hzero
  · obtain ⟨e, he, hmax⟩ := List.mem_map.1 hmem
    obtain ⟨hpeak, hrecent⟩ := (h.mem_recentPeaks e).1 he
    exact .inr ⟨e, hpeak, hrecent, hmax⟩

theorem Hw.servoRecord_frame (h : Hw) : ∃ r, h.servoRecord = { h with ring := r } := h.traceAt_frame _ _ _ _

/-- The bound stands in the first four bytes of the payload (R59). -/
theorem Hw.servoRecord_bound (h : Hw) :
    (padB 16 (leBytes 4 (h.peakOffset + 8) ++ leBytes 1 h.servo)).take 4 = leBytes 4 (h.peakOffset + 8) :=
  padB_take_append 16 (leBytes 4 _) (leBytes 1 _) (by simp)

/-- Settles O23: the record is stored in the slot, and its bound is the maximum of the recent offsets. -/
theorem servoRecord : Obligations.ServoRecord := by
  intro s hq hf
  obtain ⟨ring, hframe⟩ := s.hw.servoRecord_frame
  have hquiet : s.hw.servoRecord.quiet = true := by rw [hframe]; exact hq
  have hflag : s.hw.g Reg.TIME_STAT_state ≠ 2 → bitOf (b2n false + 2 * b2n s.hw.uncertain) 1 = true := by
    intro hs
    rw [s.hw.uncertain_of_not_locked hs]
    decide
  exact ⟨_, _, s.hw.peakOffset, done_quiet s _ hquiet, s.hw.traceAt_stored _ _ _ _ hf, rfl, rfl, rfl,
    s.hw.servoRecord_bound, s.hw.le_peakOffset, s.hw.peakOffset_attained, hflag, s.hw.traceAt_ring_rseq _ _ _ _,
    (congrArg Hw.time hframe :), (congrArg Hw.mem hframe :), (congrArg Hw.regs hframe :)⟩

end Sys2Proof.Machine
end

section
/-! Frames that an input kitty discards (R33, R41). -/

namespace Sys2Proof.Machine

@[simp] theorem Hw.inK_setIn_same (h : Hw) (kid : Nat) (k : InKitty) : (h.setIn kid k).inK kid = some k :=
  Tab.find?_put_same _ _ _

theorem Hw.inK_setIn_ne (h : Hw) (kid j : Nat) (k : InKitty) (hj : j ≠ kid) : (h.setIn kid k).inK j = h.inK j :=
  Tab.find?_put_ne _ _ _ _ hj

@[simp] theorem Hw.setIn_quiet (h : Hw) (kid : Nat) (k : InKitty) : (h.setIn kid k).quiet = h.quiet := rfl

/-- A frame check failure counts FCS_ERR and, where the block names an index, notes its cause. -/
theorem InKitty.discard_cFcs (k : InKitty) (n : Option Nat) :
    k.discard cFcs n = { k with cnt := bump k.cnt cFcs, causes := (k.discard cFcs n).causes } := by
  cases n with
  | none => rfl
  | some m => rfl

/-- With native admission and no lining buffer, a frame that fails the frame check is discarded before anything of it is
parsed. -/
theorem Hw.blockAdmit_badFrame (h : Hw) (kid : Nat) (p : Option Port) (pkt : Packet) (k : InKitty)
    (hk : h.inK kid = some k) (hspec : k.cfg.spec = false) (hlin : k.cfg.lining = 0) :
    h.blockAdmit kid p false pkt = h.setIn kid (k.discard cFcs (h.namedIndex k.cfg pkt)) := by
  simp [Hw.blockAdmit, Hw.admitBlock, Hw.admitNative, hk, hspec, hlin]

/-- Settles O24: the first check of R33 discards the frame. -/
theorem frameCheckFails : Obligations.FrameCheckFails := by
  intro s kid p pkt k hq hk hspec hlin
  have hadmit := s.hw.blockAdmit_badFrame kid.val p pkt k hk hspec hlin
  have hquiet : (s.hw.blockAdmit kid.val p false pkt).quiet = true := by rw [hadmit, Hw.setIn_quiet, hq]
  have hkeeps := k.discard_cFcs (s.hw.namedIndex k.cfg pkt)
  refine ⟨_, _, done_quiet s _ hquiet, ?_, (congrArg InKitty.slots hkeeps :), hkeeps, ?_, ?_, ?_⟩
  · exact hadmit ▸ s.hw.inK_setIn_same kid.val _
  · exact fun j hj => hadmit ▸ s.hw.inK_setIn_ne kid.val j _ hj
  · exact (congrArg Hw.mem hadmit :)
  · exact (congrArg Hw.regs hadmit :)

end Sys2Proof.Machine
end

section
/-! Commands that end by setting register fields, and the completion of the truss commands (R65–R100). -/

namespace Sys2Proof.Machine

@[simp] theorem Hw.p_quiet (h : Hw) (f : RF) (v : Nat) : (h.p f v).quiet = h.quiet := rfl

/-- A command whose effect on quiet hardware is to set one field. -/
theorem done_p (s : State) (hq : s.hw.quiet = true) (f : RF) (v : Nat) :
    done s (s.hw.p f v) = .next { s with hw := (s.hw.p f v).drive } :=
  done_quiet s _ ((s.hw.p_quiet f v).trans hq)

/-- PRBS_SYNC of a lane whose checker is selected: errors count only while it was in sync (R354). -/
theorem Hw.prbsSync_selected (h : Hw) (n : Nat) (gained : Bool) (errs : Nat)
    (hchk : h.g (Reg.LANE_CTRL_prbs_chk n) ≠ 0) :
    h.prbsSync n gained errs =
      (if h.g (Reg.LANE_STAT_prbs_sync n) = 0 then h
       else h.p (Reg.LANE_PRBS_ERR_count n) (h.g (Reg.LANE_PRBS_ERR_count n) + errs)).p
        (Reg.LANE_STAT_prbs_sync n) (if gained then 1 else 0) := by
  by_cases hsync : h.g (Reg.LANE_STAT_prbs_sync n) = 0 <;> simp [Hw.prbsSync, Hw.b, b2n, hchk, hsync]

/-- Settles O42: each command sets its fields and raises nothing. -/
theorem oneFieldCommands : Obligations.OneFieldCommands := by
  intro s hq
  refine ⟨done_p s hq _ _, fun n => done_p s hq _ _, fun n => done_p s hq _ _, fun j => done_p s hq _ _,
    fun p => done_p s hq _ _, fun w => done_p s hq _ _, fun n gained errs hchk => ⟨fun hsync => ?_, fun hsync => ?_⟩⟩
  all_goals
    have hrow := s.hw.prbsSync_selected n.val gained errs hchk
    simp only [hsync, if_true, if_false] at hrow
    exact hrow ▸ done_quiet s _ (by simpa only [hrow, Hw.p_quiet] using hq)

/-- A command that posts register writes completes where none of them changes a reserved field. -/
theorem donePosted_some (s : State) {g h : Hw} (hp : Hw.runPosted 4096 g = some h) :
    donePosted s g = .next { s with hw := h.settle } :=
  doneIf_some s _ h hp

/-- Settles O53: every row answers the state after its own operation; a store and a step also run what they posted. -/
theorem trussComplete : Obligations.TrussComplete := by
  intro s
  refine ⟨fun _ _ _ => rfl, fun _ _ _ hp => donePosted_some s hp, fun _ _ _ => rfl, fun _ _ _ => rfl, fun _ _ _ _ => rfl,
    fun _ _ _ _ => rfl, fun _ => rfl, fun _ => rfl, fun _ _ => rfl, fun _ => rfl, fun _ => rfl,
    fun _ _ _ _ _ _ _ => rfl, fun _ _ => rfl, fun _ _ _ => rfl, fun _ _ _ => rfl, fun _ _ _ _ => rfl, fun _ _ => rfl,
    fun _ _ hp => donePosted_some s hp, fun _ _ => rfl, fun _ => rfl, fun _ _ => rfl, fun _ => rfl, fun _ => rfl⟩

end Sys2Proof.Machine
end

section
/-! Traps of a truss core: what is recorded, the event that is raised, and what stays (R97, R102). -/

namespace Sys2Proof.Machine

theorem RFkey_ne {f f' : RF} (hlo : f.lo < 32) (hlo' : f'.lo < 32) (ha : f'.addr ≠ f.addr) : RFkey f' ≠ RFkey f := by
  simp only [RFkey]
  omega

/-- Setting a field of one register leaves the fields of every other. -/
theorem Hw.g_p_addr (h : Hw) (f f' : RF) (v : Nat) (hlo : f.lo < 32) (hlo' : f'.lo < 32) (ha : f'.addr ≠ f.addr) :
    (h.p f v).g f' = h.g f' := h.g_p_ne f f' v (RFkey_ne hlo hlo' ha)

/-! ### Operations that change registers and the fault unit alone -/

/-- g is h but for its registers and its fault unit. -/
def Hw.RegsFlt (h g : Hw) : Prop := ∃ r x, g = { h with regs := r, flt := x }

theorem Hw.RegsFlt.refl (h : Hw) : h.RegsFlt h := ⟨_, _, rfl⟩

theorem Hw.RegsFlt.p {h g : Hw} (hg : h.RegsFlt g) (f : RF) (v : Nat) : h.RegsFlt (g.p f v) := by
  obtain ⟨r, x, rfl⟩ := hg
  exact ⟨_, _, rfl⟩

theorem Hw.RegsFlt.mem {h g : Hw} (hg : h.RegsFlt g) : g.mem = h.mem := by
  obtain ⟨r, x, rfl⟩ := hg
  rfl

theorem Hw.RegsFlt.t64 {h g : Hw} (hg : h.RegsFlt g) : g.t64 = h.t64 := by
  obtain ⟨r, x, rfl⟩ := hg
  rfl

theorem Hw.RegsFlt.posted {h g : Hw} (hg : h.RegsFlt g) : g.posted = h.posted := by
  obtain ⟨r, x, rfl⟩ := hg
  rfl

theorem Hw.RegsFlt.core {h g : Hw} (hg : h.RegsFlt g) (n : Nat) : g.core n = h.core n := by
  obtain ⟨r, x, rfl⟩ := hg
  rfl

theorem Hw.setBit_cases (h : Hw) (f : RF) (i : Nat) (b : Bool) :
    h.setBit f i b = h ∨ ∃ v, h.setBit f i b = h.p f v := by
  unfold Hw.setBit
  split
  · exact .inl rfl
  · split
    · exact .inr ⟨_, rfl⟩
    · exact .inr ⟨_, rfl⟩

theorem Hw.RegsFlt.setBit {h g : Hw} (hg : h.RegsFlt g) (f : RF) (i : Nat) (b : Bool) : h.RegsFlt (g.setBit f i b) := by
  rcases g.setBit_cases f i b with heq | ⟨v, heq⟩
  · rwa [heq]
  · rw [heq]
    exact hg.p f v

theorem Hw.setBit_flt (h : Hw) (f : RF) (i : Nat) (b : Bool) : (h.setBit f i b).flt = h.flt := by
  rcases h.setBit_cases f i b with heq | ⟨v, heq⟩ <;> rw [heq]
  rfl

theorem Hw.g_setBit_addr (h : Hw) (f f' : RF) (i : Nat) (b : Bool) (hlo : f.lo < 32) (hlo' : f'.lo < 32)
    (ha : f'.addr ≠ f.addr) : (h.setBit f i b).g f' = h.g f' := by
  rcases h.setBit_cases f i b with heq | ⟨v, heq⟩
  · rw [heq]
  · rw [heq, h.g_p_addr f f' v hlo hlo' ha]

theorem Hw.RegsFlt.setRun {h g : Hw} (hg : h.RegsFlt g) (n state : Nat) : h.RegsFlt (g.setRun n state) :=
  (hg.p _ _).setBit _ _ _

theorem Hw.setRun_flt (h : Hw) (n state : Nat) : (h.setRun n state).flt = h.flt := Hw.setBit_flt _ _ _ _

theorem Hw.g_setRun_addr (h : Hw) (n state : Nat) (f : RF) (hlo : f.lo < 32) (hstat : f.addr ≠ 0x40220004 + n * 0x1000)
    (hbent : f.addr ≠ 0x4022A014 + n / 5 * 0x10) : (h.setRun n state).g f = h.g f := by
  have hp := h.g_p_addr (Reg.TRUSS_STATUS_state n) f state (by decide : 0 < 32) hlo hstat
  exact ((h.p _ state).g_setBit_addr (Reg.TRUSS_BENT_STAT_awake (n / 5)) f _ _ (by decide : 13 < 32) hlo hbent).trans hp

/-! ### A fault event -/

/-- An event enters the queue of the fault unit, and the drop of one counts (R476). -/
def Hw.enqueue (h : Hw) (e : FaultEvent) : Hw :=
  let q := insertEvent e h.flt.queue
  let h := { h with flt := { h.flt with queue := q.take 16 } }
  if q.length ≤ 16 then h else (h.inc Reg.FAULT_LOST_count).s1 Reg.FAULT_STAT_ovf

theorem Hw.enqueue_queue (h : Hw) (e : FaultEvent) :
    (h.enqueue e).flt.queue = (insertEvent e h.flt.queue).take 16 := by
  simp only [Hw.enqueue]
  split <;> rfl

theorem Hw.RegsFlt.enqueue {h g : Hw} (hg : h.RegsFlt g) (e : FaultEvent) : h.RegsFlt (g.enqueue e) := by
  obtain ⟨r, x, rfl⟩ := hg
  simp only [Hw.enqueue]
  split <;> exact ⟨_, _, rfl⟩

theorem Hw.g_enqueue_addr (h : Hw) (e : FaultEvent) (f : RF) (hlo : f.lo < 32) (hlost : f.addr ≠ 0x400D0014)
    (hstat : f.addr ≠ 0x400D0004) : (h.enqueue e).g f = h.g f := by
  simp only [Hw.enqueue]
  split
  · rfl
  · exact (Hw.g_p_addr _ Reg.FAULT_STAT_ovf f 1 (by decide) hlo hstat).trans
      (Hw.g_p_addr _ Reg.FAULT_LOST_count f _ (by decide) hlo hlost)

theorem Hw.raise_masked (h : Hw) (source code context stream : Nat) (hm : h.masked source = true) :
    h.raise source code context stream = h := by
  simp only [Hw.raise, hm, if_true]

/-- An event that nothing masks sets its sticky bit and then enters the queue. -/
theorem Hw.raise_unmasked (h : Hw) (source code context stream : Nat) (hm : h.masked source = false) :
    h.raise source code context stream =
      (h.setBit (Reg.FAULT_STICKY_bit (source / 32)) (source % 32) true).enqueue
        ⟨source, code, context, h.t64, stream⟩ := by
  have ht := ((Hw.RegsFlt.refl h).setBit (Reg.FAULT_STICKY_bit (source / 32)) (source % 32) true).t64
  simp only [Hw.raise, hm, Hw.enqueue, ← ht]
  rfl

theorem Hw.RegsFlt.raise {h g : Hw} (hg : h.RegsFlt g) (source code context stream : Nat) :
    h.RegsFlt (g.raise source code context stream) := by
  by_cases hm : g.masked source = true
  · rwa [g.raise_masked _ _ _ _ hm]
  · rw [g.raise_unmasked _ _ _ _ (Bool.eq_false_of_not_eq_true hm)]
    exact (hg.setBit _ _ _).enqueue _

/-- An event writes registers of the fault unit alone. -/
theorem Hw.g_raise_addr (h : Hw) (source code context stream : Nat) (f : RF) (hsrc : source < 256) (hlo : f.lo < 32)
    (ha : f.addr < 0x400D0000 ∨ 0x400E0000 ≤ f.addr) : (h.raise source code context stream).g f = h.g f := by
  by_cases hm : h.masked source = true
  · rw [h.raise_masked _ _ _ _ hm]
  · have hsticky : f.addr ≠ (Reg.FAULT_STICKY_bit (source / 32)).addr := by
      simp only [Reg.FAULT_STICKY_bit]
      omega
    rw [h.raise_unmasked _ _ _ _ (Bool.eq_false_of_not_eq_true hm), Hw.g_enqueue_addr _ _ f hlo (by omega) (by omega),
      h.g_setBit_addr _ f _ _ (by decide : 0 < 32) hlo hsticky]

/-- Whether a source is masked rests on registers of the self-test alone (R522). -/
theorem Hw.masked_p (h : Hw) (f : RF) (v source : Nat) (hlo : f.lo < 32) (ha : 0x40210000 ≤ f.addr) :
    (h.p f v).masked source = h.masked source := by
  have hb : ∀ b : RF, b.lo < 32 → b.addr < 0x40210000 → (h.p f v).g b = h.g b :=
    fun b hblo hba => h.g_p_addr f b v hlo hblo (by omega)
  have hstate := hb Reg.BIST_STAT_state (by decide) (by decide)
  have hmode := hb Reg.BIST_CTRL_mode (by decide) (by decide)
  have hmask := hb Reg.BIST_PMASK_mask (by decide) (by decide)
  have htakes : (h.p f v).quickTakes = h.quickTakes := rfl
  simp only [Hw.masked, Hw.bit, Hw.b, hstate, hmode, hmask, htakes]

/-! ### A trap -/

/-- The registers that a trap of core n sets (R102). -/
def Hw.trapRegs (h : Hw) (n cause : Nat) : Hw :=
  let g := ((((h.p (Reg.TRUSS_TRAP_cause n) cause).p (Reg.TRUSS_TRAP_task n) (h.taskOf n)).s1
    (Reg.TRUSS_TRAP_valid n)).p (Reg.TRUSS_TRAP_PC_pc n) (h.core n).pc)
  (g.p (Reg.TRUSS_TRAP_T64_LO_t64 n) g.t64).p (Reg.TRUSS_TRAP_T64_HI_t64 n) (g.t64 / 2 ^ 32)

theorem Hw.RegsFlt.trapRegs (h : Hw) (n cause : Nat) : h.RegsFlt (h.trapRegs n cause) :=
  ((((((Hw.RegsFlt.refl h).p _ _).p _ _).p _ _).p _ _).p _ _).p _ _

/-- The context that a trap's event carries (R97). -/
def Hw.trapContext (h : Hw) (n cause : Nat) : Nat := cause + (h.core n).pc * 2 ^ 5 + h.taskOf n * 2 ^ 19 + n * 2 ^ 24

/-- The registers of core n's trap are set and its event is raised; what the core does then depends on the cause. -/
def Hw.trapRaised (h : Hw) (n cause : Nat) : Hw := (h.trapRegs n cause).raise n cause (h.trapContext n cause)

theorem Hw.RegsFlt.trapRaised (h : Hw) (n cause : Nat) : h.RegsFlt (h.trapRaised n cause) :=
  (Hw.RegsFlt.trapRegs h n cause).raise _ _ _ _

/-- What a trap of a core without a task does. -/
theorem Hw.trap_eq (h : Hw) (n cause : Nat) (hentry : (h.core n).entry = none) :
    h.trap n cause =
      if cause = tFar || cause = tBudget then h.trapRaised n cause
      else if cause = tBrk then ((h.trapRaised n cause).modCore n (fun c => { c with halted := true })).setRun n 3
      else ((h.trapRaised n cause).modCore n (fun c => { c with trapped := true })).setRun n 3 := by
  simp only [Hw.trap, hentry]
  rfl

/-- After the event, a trap of a core without a task changes at most the core's stop and its run state. -/
theorem Hw.trap_cases (h : Hw) (n cause : Nat) (hentry : (h.core n).entry = none) :
    h.trap n cause = h.trapRaised n cause ∨
    ∃ c, c.v = (h.core n).v ∧ h.trap n cause = ((h.trapRaised n cause).setCore n c).setRun n 3 := by
  have hcore := (Hw.RegsFlt.trapRaised h n cause).core n
  have hv : ((h.trapRaised n cause).core n).v = (h.core n).v := congrArg Truss.v hcore
  rw [h.trap_eq n cause hentry]
  split
  · exact .inl rfl
  · split
    · exact .inr ⟨{ (h.trapRaised n cause).core n with halted := true }, hv, rfl⟩
    · exact .inr ⟨{ (h.trapRaised n cause).core n with trapped := true }, hv, rfl⟩

/-- A trap raises one event and otherwise leaves the fault unit. -/
theorem Hw.trap_flt (h : Hw) (n cause : Nat) (hentry : (h.core n).entry = none) :
    (h.trap n cause).flt = (h.trapRaised n cause).flt := by
  rcases h.trap_cases n cause hentry with heq | ⟨c, -, heq⟩
  · rw [heq]
  · rw [heq, Hw.setRun_flt]
    rfl

theorem Hw.trap_mem (h : Hw) (n cause : Nat) (hentry : (h.core n).entry = none) : (h.trap n cause).mem = h.mem := by
  have hraised := (Hw.RegsFlt.trapRaised h n cause).mem
  rcases h.trap_cases n cause hentry with heq | ⟨c, -, heq⟩
  · rw [heq, hraised]
  · rw [heq, ((Hw.RegsFlt.refl _).setRun n 3).mem, Hw.setCore_mem, hraised]

theorem Hw.trap_posted (h : Hw) (n cause : Nat) (hentry : (h.core n).entry = none) :
    (h.trap n cause).posted = h.posted := by
  have hraised := (Hw.RegsFlt.trapRaised h n cause).posted
  rcases h.trap_cases n cause hentry with heq | ⟨c, -, heq⟩
  · rw [heq, hraised]
  · rw [heq, ((Hw.RegsFlt.refl _).setRun n 3).posted, Hw.setCore_posted, hraised]

/-- A trap leaves the V registers of its core. -/
theorem Hw.trap_core_v (h : Hw) (n cause : Nat) (hentry : (h.core n).entry = none) :
    ((h.trap n cause).core n).v = (h.core n).v := by
  rcases h.trap_cases n cause hentry with heq | ⟨c, hv, heq⟩
  · rw [heq, (Hw.RegsFlt.trapRaised h n cause).core n]
  · rw [heq, ((Hw.RegsFlt.refl _).setRun n 3).core, Hw.core_setCore_same, hv]

/-- After a trap the trap registers of core n hold what the trap set: neither its event nor the core's stop writes them. -/
theorem Hw.g_trap (h : Hw) (n cause : Nat) (f : RF) (hn : n < 10) (hentry : (h.core n).entry = none) (hlo : f.lo < 32)
    (hfirst : 0x40220010 + n * 0x1000 ≤ f.addr) (hlast : f.addr ≤ 0x4022001C + n * 0x1000) :
    (h.trap n cause).g f = (h.trapRegs n cause).g f := by
  have hraised : (h.trapRaised n cause).g f = (h.trapRegs n cause).g f :=
    Hw.g_raise_addr _ _ _ _ _ f (by omega) hlo (by omega)
  rcases h.trap_cases n cause hentry with heq | ⟨c, -, heq⟩
  · rw [heq, hraised]
  · rw [heq, Hw.g_setRun_addr _ n 3 f hlo (by omega) (by omega)]
    exact hraised

/-- The six fields are distinct, so each holds what the trap set it to. -/
theorem Hw.g_trapRegs (h : Hw) (n cause : Nat) :
    (h.trapRegs n cause).g (Reg.TRUSS_TRAP_cause n) = cause % 2 ^ 5 ∧
    (h.trapRegs n cause).g (Reg.TRUSS_TRAP_task n) = h.taskOf n % 2 ^ 5 ∧
    (h.trapRegs n cause).g (Reg.TRUSS_TRAP_valid n) = 1 ∧
    (h.trapRegs n cause).g (Reg.TRUSS_TRAP_PC_pc n) = (h.core n).pc % 2 ^ 14 ∧
    (h.trapRegs n cause).g (Reg.TRUSS_TRAP_T64_LO_t64 n) = h.t64 % 2 ^ 32 ∧
    (h.trapRegs n cause).g (Reg.TRUSS_TRAP_T64_HI_t64 n) = h.t64 / 2 ^ 32 % 2 ^ 32 := by
  refine ⟨?_, ?_, ?_, ?_, ?_, ?_⟩
  all_goals
    simp (disch := simp only [RFkey, Reg.TRUSS_TRAP_cause, Reg.TRUSS_TRAP_task, Reg.TRUSS_TRAP_valid,
      Reg.TRUSS_TRAP_PC_pc, Reg.TRUSS_TRAP_T64_LO_t64, Reg.TRUSS_TRAP_T64_HI_t64]; omega)
      only [Hw.trapRegs, Hw.s1, Hw.g_p_same, Hw.g_p_ne, Hw.p_t64]
    rfl

/-- A trap records its cause, the task index, the bundle address and T64 (R97, R102). -/
theorem Hw.trap_records (h : Hw) (n cause : Nat) (hn : n < 10) (hentry : (h.core n).entry = none) :
    (h.trap n cause).g (Reg.TRUSS_TRAP_cause n) = cause % 2 ^ 5 ∧
    (h.trap n cause).g (Reg.TRUSS_TRAP_task n) = h.taskOf n % 2 ^ 5 ∧
    (h.trap n cause).g (Reg.TRUSS_TRAP_valid n) = 1 ∧
    (h.trap n cause).g (Reg.TRUSS_TRAP_PC_pc n) = (h.core n).pc % 2 ^ 14 ∧
    (h.trap n cause).g (Reg.TRUSS_TRAP_T64_LO_t64 n) = h.t64 % 2 ^ 32 ∧
    (h.trap n cause).g (Reg.TRUSS_TRAP_T64_HI_t64 n) = h.t64 / 2 ^ 32 % 2 ^ 32 := by
  have hkept := fun f => h.g_trap n cause f hn hentry
  obtain ⟨gcause, gtask, gvalid, gpc, glo, ghi⟩ := h.g_trapRegs n cause
  refine ⟨(hkept _ ?_ ?_ ?_).trans gcause, (hkept _ ?_ ?_ ?_).trans gtask, (hkept _ ?_ ?_ ?_).trans gvalid,
    (hkept _ ?_ ?_ ?_).trans gpc, (hkept _ ?_ ?_ ?_).trans glo, (hkept _ ?_ ?_ ?_).trans ghi⟩
  all_goals
    simp [Reg.TRUSS_TRAP_cause, Reg.TRUSS_TRAP_task, Reg.TRUSS_TRAP_valid, Reg.TRUSS_TRAP_PC_pc,
      Reg.TRUSS_TRAP_T64_LO_t64, Reg.TRUSS_TRAP_T64_HI_t64]

theorem Hw.masked_trapRegs (h : Hw) (n cause source : Nat) : (h.trapRegs n cause).masked source = h.masked source := by
  simp (disch := simp only [Reg.TRUSS_TRAP_cause, Reg.TRUSS_TRAP_task, Reg.TRUSS_TRAP_valid, Reg.TRUSS_TRAP_PC_pc,
    Reg.TRUSS_TRAP_T64_LO_t64, Reg.TRUSS_TRAP_T64_HI_t64]; omega) only [Hw.trapRegs, Hw.s1, Hw.masked_p]

/-- The event of a trap is the only one in a queue that was empty. -/
theorem Hw.trap_queue (h : Hw) (n cause : Nat) (hentry : (h.core n).entry = none) (hm : h.masked n = false)
    (hq : h.flt.queue = []) :
    (h.trap n cause).flt.queue = [{ source := n, code := cause, context := h.trapContext n cause, t64 := h.t64 }] := by
  have hunmasked : (h.trapRegs n cause).masked n = false := (h.masked_trapRegs n cause n).trans hm
  have hempty : ((h.trapRegs n cause).setBit (Reg.FAULT_STICKY_bit (n / 32)) (n % 32) true).flt.queue = [] := by
    rw [Hw.setBit_flt]
    exact hq
  rw [h.trap_flt n cause hentry, Hw.trapRaised, Hw.raise_unmasked _ _ _ _ _ hunmasked, Hw.enqueue_queue, hempty,
    (Hw.RegsFlt.trapRegs h n cause).t64]
  rfl

/-! ### A core outside any task -/

theorem Hw.bare_iff (h : Hw) (n : Nat) :
    h.bare n = true ↔ (h.core n).trapped = false ∧ (h.core n).halted = false ∧ (h.core n).gated = false ∧
      (h.core n).pend = [] ∧ (h.core n).entry = none ∧ (h.core n).loops = [] := by
  simp [Hw.bare, and_assoc]

theorem Hw.bare_entry {h : Hw} {n : Nat} (hb : h.bare n = true) : (h.core n).entry = none := by
  obtain ⟨-, -, -, -, hentry, -⟩ := (h.bare_iff n).1 hb
  exact hentry

theorem Hw.haltDue_no_task (h : Hw) (n : Nat) (hentry : (h.core n).entry = none) : h.haltDue n = h := by
  simp [Hw.haltDue, hentry]

/-- A core outside any task executes. -/
theorem Hw.onCore_bare (h : Hw) (n : Nat) (f : Hw → Hw) (hb : h.bare n = true) : h.onCore n f = f h := by
  obtain ⟨htrapped, hhalted, hgated, -, hentry, -⟩ := (h.bare_iff n).1 hb
  simp [Hw.onCore, h.haltDue_no_task n hentry, htrapped, hhalted, hgated]

/-! ### TRUSS_TRAP -/

theorem Hw.budgetStop_no_task (h : Hw) (n : Nat) (hentry : (h.core n).entry = none) : h.budgetStop n = h := by
  simp [Hw.budgetStop, hentry]

/-- Code 0, the reserved codes, and TASK_BUDGET where no task runs name no trap. -/
theorem Hw.trapRow_none (h : Hw) (n cause : Nat) (hentry : (h.core n).entry = none)
    (hc : cause = 0 ∨ cause = 8 ∨ 0x0C ≤ cause) : h.trapRow n cause = h := by
  rcases hc with hzero | hbudget | hreserved
  · simp [Hw.trapRow, hzero]
  · simp [Hw.trapRow, hbudget, tBrk, tBudget, h.budgetStop_no_task n hentry]
  · simp [Hw.trapRow, hreserved]

/-- Every other code traps, BRK while the debug window is unlocked. -/
theorem Hw.trapRow_trap (h : Hw) (n cause : Nat) (hzero : cause ≠ 0) (hlast : cause < 0x0C) (hbudget : cause ≠ 8)
    (hbrk : cause = 0x0B → h.g Reg.SYS_DEBUG_unlocked ≠ 0) : h.trapRow n cause = h.trap n cause := by
  have hopen : ¬(cause = tBrk ∧ h.b Reg.SYS_DEBUG_unlocked = false) := by
    rintro ⟨hcause, hlocked⟩
    exact hbrk hcause (by simpa [Hw.b] using hlocked)
  have hcode : ¬ 0x0C ≤ cause := by omega
  simp [Hw.trapRow, hzero, hcode, hopen, show cause ≠ tBudget from hbudget]

/-- Settles O34: the trap's six registers are distinct, and nothing after them writes them or drops the event. -/
theorem trapRecords : Obligations.TrapRecords := by
  intro s n cause hq hm hb
  have hentry := Hw.bare_entry hb
  have hrow : exec (.trussTrap n cause) s = done s (s.hw.trapRow n.val cause.toNat) :=
    congrArg (done s) (s.hw.onCore_bare n.val (fun h => h.trapRow n.val cause.toNat) hb)
  refine ⟨fun hnone => ?_, fun hzero hlast hbudget hbrk => ⟨s.hw.trap n.val cause.toNat, ?_⟩⟩
  · rw [hrow, s.hw.trapRow_none _ _ hentry hnone, done_quiet s _ hq]
  · have hempty : s.hw.flt.queue = [] := ((Hw.quiet_iff _).1 hq).1
    have hqueue := s.hw.trap_queue n.val cause.toNat hentry hm hempty
    obtain ⟨gcause, gtask, gvalid, gpc, glo, ghi⟩ := s.hw.trap_records n.val cause.toNat n.isLt hentry
    rw [Nat.mod_eq_of_lt cause.isLt] at gcause
    refine ⟨?_, gcause, gtask, gpc, glo, ghi, gvalid, ?_, s.hw.trap_mem _ _ hentry⟩
    · rw [hrow, s.hw.trapRow_trap _ _ hzero hlast hbudget hbrk]
      rfl
    · exact ⟨_, hqueue ▸ List.mem_singleton_self _, rfl, rfl, rfl, rfl⟩

end Sys2Proof.Machine
end

section
/-! Bundles: which one a memory slot alone makes, and an address outside its space (R66, R80, R81). -/

namespace Sys2Proof.Machine

theorem Hw.interlock_nothing_pending (h : Hw) (n : Nat) (all : Bool) (vs : List Nat) (hpend : (h.core n).pend = []) :
    h.interlock n all vs = h := by
  simp [Hw.interlock, hpend]

/-- The pointer registers that a bundle uses have modes in core c. -/
def Truss.ptrsLegal (c : Truss) (b : Bundle) : Prop := ∀ p ∈ b.ptrs, (ptrMode (c.lg p)).isSome = true

theorem Truss.ptrsLegal_any (c : Truss) (b : Bundle) (hptr : c.ptrsLegal b) :
    b.ptrs.any (fun p => (ptrMode (c.lg p)).isNone) = false := by
  rw [List.any_eq_false]
  intro p hp
  simp [Option.isSome_iff_ne_none.1 (hptr p hp)]

/-- An access outside its space traps before any slot of its bundle has acted (R66). -/
theorem Hw.runBundle_outside (h : Hw) (n : Nat) (b : Bundle) (ecc : Option Bool) (m : Bool × MemOp)
    (hpend : (h.core n).pend = []) (hptr : (h.core n).ptrsLegal b) (hm : m ∈ b.mems)
    (hout : ((h.core n).access m).ok = false) : h.runBundle n b ecc = h.trap n tAddr := by
  have hany : (b.mems.map (h.core n).access).any (fun a => !a.ok) = true :=
    List.any_eq_true.2 ⟨_, List.mem_map_of_mem hm, by simp [hout]⟩
  simp only [Hw.runBundle, h.interlock_nothing_pending n _ _ hpend, (h.core n).ptrsLegal_any b hptr, hany]
  rfl

/-- The bundle of a memory slot alone: the execute form for MA and MB, the control form for ML. -/
theorem memBundle_cases (store : Bool) (m : MemArgs) (o : MemOp) (hm : memDec m = some o) :
    ∃ b, memBundle store m = some b ∧ b.mems = [(store, o)] ∧ b.ptrs = [o.ptr] ∧
      (b = .exec .nop (some (store, o)) none ∨ b = .exec .nop none (some (store, o)) ∨
        b = .ctl none (some (store, o))) := by
  cases m with
  | ma => exact ⟨.exec .nop (some (store, o)) none, by simp [memBundle, hm], rfl, rfl, .inl rfl⟩
  | mb => exact ⟨.exec .nop none (some (store, o)), by simp [memBundle, hm], rfl, rfl, .inr (.inl rfl)⟩
  | ml => exact ⟨.ctl none (some (store, o)), by simp [memBundle, hm], rfl, rfl, .inr (.inr rfl)⟩

/-- The addresses of an access whose pointer has a mode. -/
theorem Truss.access_lanes (c : Truss) (store : Bool) (o : MemOp) (md : PtrMode) (hmd : ptrMode (c.lg o.ptr) = some md) :
    (c.access (store, o)).lanes = (c.active 0).map (fun i => (i, c.laneAddr o md i)) := by
  simp [Truss.access, hmd]

theorem Truss.access_ok_iff (c : Truss) (store : Bool) (o : MemOp) (md : PtrMode)
    (hmd : ptrMode (c.lg o.ptr) = some md) :
    (c.access (store, o)).ok = true ↔ ∀ i ∈ c.active 0, o.space.ok (c.laneAddr o md i) = true := by
  have hop : (c.access (store, o)).op = o := rfl
  simp [MemAccess.ok, c.access_lanes store o md hmd, hop]

theorem Space.ok_eq_false (sp : Space) (a : Nat) (hout : 2 ^ sp.bits ≤ a ∨ sp = .far ∧ a % 4 ≠ 0) : sp.ok a = false := by
  rcases hout with hbits | ⟨rfl, halign⟩
  · simp [Space.ok, hbits]
  · simp [Space.ok, halign]

/-- A load or store with an active lane outside the space traps. -/
theorem Hw.opBundle_mem_outside (h : Hw) (n : Nat) (store : Bool) (m : MemArgs) (ecc : Option Bool) (o : MemOp)
    (md : PtrMode) (i : Nat) (hb : h.bare n = true) (hm : memDec m = some o)
    (hmd : ptrMode ((h.core n).lg o.ptr) = some md) (hi : i ∈ (h.core n).active 0)
    (hout : o.space.ok ((h.core n).laneAddr o md i) = false) :
    h.opBundle n (memBundle store m) ecc = h.trap n tAddr := by
  obtain ⟨-, -, -, hpend, -, -⟩ := (h.bare_iff n).1 hb
  obtain ⟨b, hbundle, hmems, hptrs, -⟩ := memBundle_cases store m o hm
  have hptr : (h.core n).ptrsLegal b := by simp [Truss.ptrsLegal, hptrs, hmd]
  have hbad : ((h.core n).access (store, o)).ok = false := by
    rw [← Bool.not_eq_true, Truss.access_ok_iff _ _ _ md hmd]
    exact fun hall => by simp [hall i hi] at hout
  rw [hbundle]
  exact h.runBundle_outside n b ecc (store, o) hpend hptr (by simp [hmems]) hbad

theorem Hw.runPosted_none (f : Nat) (h : Hw) (hp : h.posted = []) : Hw.runPosted f h = some h := by
  cases f <;> simp [Hw.runPosted, hp]

/-- A command that posts no register write answers as any other. -/
theorem donePosted_none (s : State) (h : Hw) (hp : h.posted = []) : donePosted s h = .next { s with hw := h.settle } :=
  donePosted_some s (Hw.runPosted_none 4096 h hp)

/-- Settles O33: the test of the addresses comes before every slot, and the trap it raises stops the bundle. -/
theorem addressRange : Obligations.AddressRange := by
  intro s n m o md i hb hposted hm hmd hi hout
  have hentry := Hw.bare_entry hb
  have htrap := fun store ecc =>
    s.hw.opBundle_mem_outside n.val store m ecc o md i hb hm hmd hi (o.space.ok_eq_false _ hout)
  have hcause := (s.hw.trap_records n.val 0x02 n.isLt hentry).1
  refine ⟨fun ecc => ?_, ?_, hcause, s.hw.trap_mem _ _ hentry, s.hw.trap_core_v _ _ hentry⟩
  · have hrow := (s.hw.onCore_bare n.val (fun h => h.opLoad n.val m ecc) hb).trans (htrap false ecc)
    exact congrArg (done s) hrow
  · have hrow := (s.hw.onCore_bare n.val (fun h => h.opStore n.val m) hb).trans (htrap true none)
    exact (congrArg (donePosted s) hrow).trans
      (donePosted_none s _ ((s.hw.trap_posted n.val 0x02 hentry).trans hposted))

end Sys2Proof.Machine
end

section
/-! Words stored in memory one after another, in little-endian order. -/

namespace Sys2Proof.Machine

theorem leBytes_getElem (n v i : Nat) (hi : i < (leBytes n v).length) :
    (leBytes n v)[i] = BitVec.ofNat 8 (v / 256 ^ i) := by
  induction n generalizing v i with
  | zero => simp [leBytes] at hi
  | succ n ih =>
    cases i with
    | zero => simp [leBytes]
    | succ i =>
      simp only [leBytes, List.getElem_cons_succ, ih, Nat.div_div_eq_div_mul]
      rw [← Nat.pow_succ']

theorem Hw.rd8_wr32_stored (h : Hw) (a : Nat) (w : Word) (k : Nat) (hk : k < 4) :
    (h.wr32 a w).rd8 (a + k) = BitVec.ofNat 8 (w.toNat / 256 ^ k) := by
  have hlen : k < (leBytes 4 w.toNat).length := by simpa using hk
  exact (h.rd8_wrBytes_stored a _ k hlen).trans (leBytes_getElem 4 w.toNat k hlen)

theorem Hw.rd8_wr32_other (h : Hw) (a : Nat) (w : Word) (x : Nat) (hx : x < a ∨ a + 4 ≤ x) :
    (h.wr32 a w).rd8 x = h.rd8 x :=
  h.rd8_wrBytes_other a _ x (by simpa using hx)

/-- Words are stored at their addresses in the order of the list. -/
def Hw.wrWords (h : Hw) (l : List (Nat × Word)) : Hw := l.foldl (fun h e => h.wr32 e.1 e.2) h

theorem Hw.wrWords_cons (h : Hw) (e : Nat × Word) (l : List (Nat × Word)) :
    h.wrWords (e :: l) = (h.wr32 e.1 e.2).wrWords l := rfl

/-- Stored words change memory alone. -/
theorem Hw.wrWords_frame (h : Hw) (l : List (Nat × Word)) : ∃ m, h.wrWords l = { h with mem := m } := by
  induction l generalizing h with
  | nil => exact ⟨_, rfl⟩
  | cons e l ih =>
    obtain ⟨m, hm⟩ := ih (h.wr32 e.1 e.2)
    exact ⟨m, (h.wrWords_cons e l).trans hm⟩

/-- A byte outside every word stored reads as before. -/
theorem Hw.rd8_wrWords_other (h : Hw) (l : List (Nat × Word)) (x : Nat) (hx : ∀ e ∈ l, x < e.1 ∨ e.1 + 4 ≤ x) :
    (h.wrWords l).rd8 x = h.rd8 x := by
  induction l generalizing h with
  | nil => rfl
  | cons e l ih =>
    have htail := ih (h.wr32 e.1 e.2) (fun e' he' => hx e' (List.mem_cons_of_mem e he'))
    rw [h.wrWords_cons, htail, h.rd8_wr32_other _ _ _ (hx e List.mem_cons_self)]

/-- A word that no other of the list overlaps stands in memory. -/
theorem Hw.rd8_wrWords_stored (h : Hw) (l : List (Nat × Word)) (a : Nat) (w : Word) (k : Nat) (hk : k < 4)
    (hmem : (a, w) ∈ l) (hapart : ∀ e ∈ l, e = (a, w) ∨ a + 4 ≤ e.1 ∨ e.1 + 4 ≤ a) :
    (h.wrWords l).rd8 (a + k) = BitVec.ofNat 8 (w.toNat / 256 ^ k) := by
  induction l generalizing h with
  | nil => simp at hmem
  | cons e l ih =>
    have hrest : ∀ e' ∈ l, e' = (a, w) ∨ a + 4 ≤ e'.1 ∨ e'.1 + 4 ≤ a :=
      fun e' he' => hapart e' (List.mem_cons_of_mem e he')
    rw [h.wrWords_cons]
    by_cases hl : (a, w) ∈ l
    · exact ih _ hl hrest
    · obtain rfl : (a, w) = e := (List.mem_cons.1 hmem).resolve_right hl
      rw [Hw.rd8_wrWords_other, h.rd8_wr32_stored a w k hk]
      intro e' he'
      rcases hrest e' he' with rfl | habove | hbelow
      · exact absurd he' hl
      · exact .inl (by omega)
      · exact .inr (by omega)

end Sys2Proof.Machine
end

section
/-! A store: the lanes of a bundle whose addresses are in their space and in memory (R68, R73). -/

namespace Sys2Proof.Machine

/-- The lanes land in some order, each of them, and turning the order draws at most a free value. -/
theorem Hw.storeOrder_cases (h : Hw) (lanes : List (Nat × Nat)) :
    ∃ ord x, h.storeOrder lanes = (ord, { h with fresh := x }) ∧ ∀ e, e ∈ ord ↔ e ∈ lanes := by
  unfold Hw.storeOrder
  split
  · exact ⟨lanes, h.fresh, rfl, fun _ => Iff.rfl⟩
  · refine ⟨_, _, rfl, fun e => ?_⟩
    simp only [List.rotateLeft]
    split
    · rfl
    · rw [List.mem_append, or_comm, ← List.mem_append, List.take_append_drop]

/-- Where a lane's address is in memory, its word is stored there. -/
theorem Hw.storeWord_placed (h : Hw) (n : Nat) (sp : Space) (i a b : Nat) (w : Word)
    (hb : h.storePlace n sp i a = some b) : h.storeWord n sp i a w = h.wr32 b w := by
  by_cases hfar : sp = .far
  · subst hfar
    simp only [Hw.storePlace, if_true] at hb
    simp only [Hw.storeWord, if_true]
    split at hb
    · next hp => rw [hp]; simpa using congrArg (h.wr32 · w) (Option.some.inj hb)
    · simp at hb
  · simp only [Hw.storePlace, if_neg hfar, Option.some.injEq] at hb
    simp only [Hw.storeWord, if_neg hfar, hb]

/-- The store of lanes in an order, each with its place in memory. -/
theorem Hw.foldl_storeWord (h : Hw) (n : Nat) (sp : Space) (data : Nat → Word) (place : Nat → Nat)
    (ord : List (Nat × Nat)) (hp : ∀ e ∈ ord, h.storePlace n sp e.1 e.2 = some (place e.1)) :
    ord.foldl (fun h e => h.storeWord n sp e.1 e.2 (data e.1)) h
      = h.wrWords (ord.map (fun e => (place e.1, data e.1))) := by
  induction ord generalizing h with
  | nil => rfl
  | cons e ord ih =>
    rw [List.foldl_cons, List.map_cons, h.wrWords_cons, h.storeWord_placed _ _ _ _ _ _ (hp e List.mem_cons_self)]
    exact ih (h.wr32 _ _) (fun e' he' => hp e' (List.mem_cons_of_mem e he'))

/-- A FAR address in memory answers no error (R73). -/
theorem Hw.farBad_placed (h : Hw) (n i a b : Nat) (hb : h.storePlace n .far i a = some b) :
    h.farBad n true a = false := by
  simp only [Hw.storePlace, if_true] at hb
  split at hb
  · next hp => simp [Hw.farBad, hp]
  · simp at hb

end Sys2Proof.Machine
end

section
/-! The end of a bundle that jumps nowhere, and stores of a core (R68, R73, R78, R88). -/

namespace Sys2Proof.Machine

@[simp] theorem Hw.setCore_tlEntry (h : Hw) (n m i : Nat) (c : Truss) :
    (h.setCore n c).tlEntry m i = h.tlEntry m i := rfl

theorem Hw.setCore_setCore (h : Hw) (n : Nat) (c c' : Truss) : (h.setCore n c).setCore n c' = h.setCore n c' := by
  simp only [Hw.setCore, Tab.put_put]

theorem Hw.ran_setCore (h : Hw) (n : Nat) (c c' : Truss) : (h.setCore n c).ran n c' = h.ran n c' :=
  h.setCore_setCore n c _

theorem Hw.haltDue_halted (h : Hw) (n : Nat) (hhalted : (h.core n).halted = true) : h.haltDue n = h := by
  simp [Hw.haltDue, hhalted]

theorem stepLoops_outside (pc : Nat) (ls : List LoopLevel) (hls : ls = []) : stepLoops pc ls = (none, ls) := by
  subst hls
  rfl

/-- Outside any loop and jump a bundle ends at the next one, where no task runs or a halted one keeps its budget. -/
theorem Hw.boundary_next (h : Hw) (n : Nat) (htrapped : (h.core n).trapped = false) (hloops : (h.core n).loops = [])
    (htask : ∀ i, (h.core n).entry = some i →
      (h.core n).halted = true ∧ (h.core n).cycles + 1 < (h.tlEntry n i).budget) :
    h.boundary n none = h.ran n (h.core n) := by
  have hruns : ¬ (h.core n).trapped = true := by simp [htrapped]
  cases hentry : (h.core n).entry with
  | none =>
    simp only [Hw.boundary, if_neg hruns, stepLoops_outside _ _ hloops, Hw.ran, hentry]
    rfl
  | some i =>
    obtain ⟨hhalted, hbudget⟩ := htask i hentry
    simp only [Hw.boundary, if_neg hruns, stepLoops_outside _ _ hloops, hentry, Hw.setCore_tlEntry,
      if_neg (Nat.not_le_of_lt hbudget), Hw.ran]
    refine Hw.haltDue_halted _ n ?_
    rw [Hw.core_setCore_same]
    exact hhalted

/-- What an address names rests on the cores' power gates alone among their state. -/
theorem Hw.place_setCore (h : Hw) (n : Nat) (c : Truss) (hgated : c.gated = (h.core n).gated) (m : Nat) (dealer : Bool)
    (a : Nat) : (h.setCore n c).place m dealer a = h.place m dealer a := by
  have hgates : ∀ k, ((h.setCore n c).core k).gated = (h.core k).gated := by
    intro k
    by_cases hk : k = n
    · rw [hk, h.core_setCore_same, hgated]
    · rw [h.core_setCore_ne n k c hk]
  have hbase : ∀ x, (h.setCore n c).placeBase m dealer x = h.placeBase m dealer x := by
    intro x
    simp only [Hw.placeBase, hgates]
    rfl
  simp only [Hw.place, hbase]
  rfl

theorem Hw.storePlace_setCore (h : Hw) (n : Nat) (c : Truss) (hgated : c.gated = (h.core n).gated) (m : Nat) (sp : Space)
    (i a : Nat) : (h.setCore n c).storePlace m sp i a = h.storePlace m sp i a := by
  simp only [Hw.storePlace, h.place_setCore n c hgated]

/-- g is h with the words of some lanes stored at their places. -/
structure Hw.Stored (h g : Hw) (lanes : List Nat) (place : Nat → Nat) (data : Nat → Word) : Prop where
  frame : ∃ m x, g = { h with mem := m, fresh := x }
  words : (∀ i ∈ lanes, ∀ j ∈ lanes, i ≠ j → place i + 4 ≤ place j ∨ place j + 4 ≤ place i) →
    ∀ i ∈ lanes, ∀ k < 4, g.rd8 (place i + k) = BitVec.ofNat 8 ((data i).toNat / 256 ^ k)
  others : ∀ x, (∀ i ∈ lanes, x < place i ∨ place i + 4 ≤ x) → g.rd8 x = h.rd8 x

/-- The registers of a core take no part in what a store leaves in memory. -/
theorem Hw.Stored.of_setCore {h g : Hw} {n : Nat} {c : Truss} {lanes : List Nat} {place : Nat → Nat}
    {data : Nat → Word} (hs : (h.setCore n c).Stored g lanes place data) :
    ∃ g', g = g'.setCore n c ∧ h.Stored g' lanes place data := by
  obtain ⟨m, x, hg⟩ := hs.frame
  have hwords := hs.words
  have hothers := hs.others
  subst hg
  exact ⟨{ h with mem := m, fresh := x }, rfl, ⟨m, x, rfl⟩, hwords, hothers⟩

/-- A store whose lanes all have places in memory: their words are stored, each of them, in some order. -/
theorem Hw.store_placed (h : Hw) (n : Nat) (a : MemAccess) (data : Nat → Word) (place : Nat → Nat)
    (hp : ∀ e ∈ a.lanes, h.storePlace n a.op.space e.1 e.2 = some (place e.1)) :
    ∃ (ord : List (Nat × Nat)) (x : Nat), (∀ e, e ∈ ord ↔ e ∈ a.lanes) ∧
      h.store n a data = ({ h with fresh := x } : Hw).wrWords (ord.map (fun e => (place e.1, data e.1))) := by
  obtain ⟨ord, x, hord, hperm⟩ : ∃ ord x, (if a.op.space = .ls then (a.lanes, h) else h.storeOrder a.lanes)
      = (ord, { h with fresh := x }) ∧ ∀ e, e ∈ ord ↔ e ∈ a.lanes := by
    split
    · exact ⟨a.lanes, h.fresh, rfl, fun _ => Iff.rfl⟩
    · exact h.storeOrder_cases a.lanes
  obtain ⟨m, hm⟩ := ({ h with fresh := x } : Hw).wrWords_frame (ord.map (fun e => (place e.1, data e.1)))
  have hbad : (a.op.space = .far && a.lanes.any (fun e => ({ h with mem := m, fresh := x } : Hw).farBad n true e.2))
      = false := by
    simp only [Bool.and_eq_false_imp, decide_eq_true_eq, List.any_eq_false]
    intro hfar e he
    exact Bool.eq_false_iff.1 (h.farBad_placed n e.1 e.2 (place e.1) (hfar ▸ hp e he))
  have hfold := ({ h with fresh := x } : Hw).foldl_storeWord n a.op.space data place ord
    (fun e he => hp e ((hperm e).1 he))
  refine ⟨ord, x, hperm, ?_⟩
  simp only [Hw.store, hord, hfold, hm, hbad]
  rfl

theorem Hw.store_stored (h : Hw) (n : Nat) (a : MemAccess) (data : Nat → Word) (lanes : List Nat)
    (addr place : Nat → Nat) (hlanes : a.lanes = lanes.map (fun i => (i, addr i)))
    (hp : ∀ i ∈ lanes, h.storePlace n a.op.space i (addr i) = some (place i)) :
    h.Stored (h.store n a data) lanes place data := by
  obtain ⟨ord, x, hperm, hstore⟩ := h.store_placed n a data place (by simpa [hlanes] using hp)
  obtain ⟨m, hm⟩ := ({ h with fresh := x } : Hw).wrWords_frame (ord.map (fun e => (place e.1, data e.1)))
  have hmem : ∀ e, e ∈ ord.map (fun e => (place e.1, data e.1)) ↔ ∃ i ∈ lanes, (place i, data i) = e := by
    intro e
    simp [hperm, hlanes]
  rw [hstore]
  refine ⟨⟨m, x, hm⟩, fun hapart i hi k hk => ?_, fun y hy => ?_⟩
  · refine Hw.rd8_wrWords_stored _ _ _ _ k hk ((hmem _).2 ⟨i, hi, rfl⟩) (fun e he => ?_)
    obtain ⟨j, hj, rfl⟩ := (hmem e).1 he
    by_cases hij : i = j
    · exact .inl (by rw [hij])
    · exact .inr (hapart i hi j hj hij)
  · refine Hw.rd8_wrWords_other _ _ y (fun e he => ?_)
    obtain ⟨j, hj, rfl⟩ := (hmem e).1 he
    exact hy j hj

/-! ### Bundles of a store alone -/

theorem Truss.access_any_bad (c : Truss) (b : Bundle) (hok : ∀ m ∈ b.mems, (c.access m).ok = true) :
    (b.mems.map c.access).any (fun a => !a.ok) = false := by
  simpa [List.any_eq_false] using hok

/-- A bundle whose addresses are in their spaces runs its slots. -/
theorem Hw.runBundle_exec (h : Hw) (n : Nat) (x : XOp) (m1 m2 : Option (Bool × MemOp)) (ecc : Option Bool)
    (hpend : (h.core n).pend = []) (hptr : (h.core n).ptrsLegal (.exec x m1 m2))
    (hok : ∀ m ∈ (Bundle.exec x m1 m2).mems, ((h.core n).access m).ok = true) :
    h.runBundle n (.exec x m1 m2) ecc
      = h.execBundle n x ((Bundle.exec x m1 m2).mems.map (h.core n).access) ecc := by
  simp only [Hw.runBundle, h.interlock_nothing_pending n _ _ hpend, (h.core n).ptrsLegal_any _ hptr,
    (h.core n).access_any_bad _ hok]
  rfl

theorem Hw.runBundle_ctl (h : Hw) (n : Nat) (op : Option COp) (m : Option (Bool × MemOp)) (ecc : Option Bool)
    (hpend : (h.core n).pend = []) (hptr : (h.core n).ptrsLegal (.ctl op m))
    (hok : ∀ m' ∈ (Bundle.ctl op m).mems, ((h.core n).access m').ok = true) :
    h.runBundle n (.ctl op m) ecc = h.ctlBundle n op ((Bundle.ctl op m).mems.map (h.core n).access) ecc := by
  simp only [Hw.runBundle, h.interlock_nothing_pending n _ _ hpend, (h.core n).ptrsLegal_any _ hptr,
    (h.core n).access_any_bad _ hok]
  rfl

theorem Hw.Stored.core {h g : Hw} {lanes : List Nat} {place : Nat → Nat} {data : Nat → Word}
    (hs : h.Stored g lanes place data) (n : Nat) : g.core n = h.core n := by
  obtain ⟨m, x, rfl⟩ := hs.frame
  rfl

theorem Hw.Stored.quiet {h g : Hw} {lanes : List Nat} {place : Nat → Nat} {data : Nat → Word}
    (hs : h.Stored g lanes place data) : g.quiet = h.quiet := by
  obtain ⟨m, x, rfl⟩ := hs.frame
  rfl

theorem Hw.Stored.posted {h g : Hw} {lanes : List Nat} {place : Nat → Nat} {data : Nat → Word}
    (hs : h.Stored g lanes place data) : g.posted = h.posted := by
  obtain ⟨m, x, rfl⟩ := hs.frame
  rfl

theorem Hw.Stored.regs {h g : Hw} {lanes : List Nat} {place : Nat → Nat} {data : Nat → Word}
    (hs : h.Stored g lanes place data) : g.regs = h.regs := by
  obtain ⟨m, x, rfl⟩ := hs.frame
  rfl

/-- The core after the post-modify of an access. -/
def Truss.postModified (c : Truss) (a : MemAccess) : Truss := c.pp a.op.ptr a.next

/-- A core outside any task and loop goes on to the next bundle. -/
theorem Hw.boundary_setCore (h : Hw) (n : Nat) (c : Truss) (htrapped : c.trapped = false) (hloops : c.loops = [])
    (hentry : c.entry = none) : (h.setCore n c).boundary n none = h.ran n c := by
  have hcore := h.core_setCore_same n c
  rw [Hw.boundary_next _ n (by rw [hcore, htrapped]) (by rw [hcore, hloops]) (by simp [hcore, hentry]), hcore,
    h.ran_setCore]

section
variable (h : Hw) (n : Nat) (a : MemAccess) (lanes : List Nat) (addr place : Nat → Nat) (hstore : a.store = true)
  (hb : h.bare n = true) (hlanes : a.lanes = lanes.map (fun i => (i, addr i)))
  (hp : ∀ i ∈ lanes, h.storePlace n a.op.space i (addr i) = some (place i))
include hstore hb hlanes hp

/-- In an execute bundle the pointer steps before the store acts. -/
theorem Hw.execBundle_stored : ∃ g, h.Stored g lanes place ((h.core n).vg a.op.v) ∧
    h.execBundle n .nop [a] none = g.ran n ((h.core n).postModified a) := by
  obtain ⟨htrapped, -, -, -, hentry, hloops⟩ := (h.bare_iff n).1 hb
  have hplaces : ∀ i ∈ lanes, (h.setCore n ((h.core n).postModified a)).storePlace n a.op.space i (addr i)
      = some (place i) :=
    fun i hi => (h.storePlace_setCore n ((h.core n).postModified a) rfl _ _ _ _).trans (hp i hi)
  obtain ⟨g, hg, hs⟩ := (Hw.store_stored _ n a ((h.core n).vg a.op.v) lanes addr place hlanes hplaces).of_setCore
  have hbundle : h.execBundle n .nop [a] none
      = ((h.setCore n ((h.core n).postModified a)).store n a ((h.core n).vg a.op.v)).boundary n none := by
    simp [Hw.execBundle, hstore, htrapped, Hw.modCore, XOp.effect, XOp.dest, XOp.run, Truss.postModified]
  exact ⟨g, hs, by rw [hbundle, hg, g.boundary_setCore n ((h.core n).postModified a) htrapped hloops hentry]⟩

/-- In a control bundle it steps after that. -/
theorem Hw.ctlBundle_stored : ∃ g, h.Stored g lanes place ((h.core n).vg a.op.v) ∧
    h.ctlBundle n none [a] none = g.ran n ((h.core n).postModified a) := by
  obtain ⟨htrapped, -, -, -, hentry, hloops⟩ := (h.bare_iff n).1 hb
  have hs := h.store_stored n a ((h.core n).vg a.op.v) lanes addr place hlanes hp
  have hcore := hs.core n
  have hbundle : h.ctlBundle n none [a] none
      = ((h.store n a ((h.core n).vg a.op.v)).setCore n ((h.core n).postModified a)).boundary n none := by
    simp [Hw.ctlBundle, hstore, hcore, htrapped, Hw.modCore, XOp.effect, XOp.dest, XOp.run, Truss.postModified]
  exact ⟨_, hs, by rw [hbundle, Hw.boundary_setCore _ n ((h.core n).postModified a) htrapped hloops hentry]⟩

end

/-- A store alone whose lanes have places in memory: their words are stored, the pointer steps, and the core goes on. -/
theorem Hw.opStore_stored (h : Hw) (n : Nat) (m : MemArgs) (o : MemOp) (md : PtrMode) (place : Nat → Nat)
    (hb : h.bare n = true) (hm : memDec m = some o) (hmd : ptrMode ((h.core n).lg o.ptr) = some md)
    (hok : ∀ i ∈ (h.core n).active 0, o.space.ok ((h.core n).laneAddr o md i) = true)
    (hp : ∀ i ∈ (h.core n).active 0, h.storePlace n o.space i ((h.core n).laneAddr o md i) = some (place i)) :
    ∃ g, h.Stored g ((h.core n).active 0) place ((h.core n).vg o.v) ∧
      h.opStore n m = g.ran n ((h.core n).postModified ((h.core n).access (true, o))) := by
  obtain ⟨-, -, -, hpend, -, -⟩ := (h.bare_iff n).1 hb
  obtain ⟨b, hbundle, hmems, hptrs, hform⟩ := memBundle_cases true m o hm
  have hptr : (h.core n).ptrsLegal b := by simp [Truss.ptrsLegal, hptrs, hmd]
  have hin : ∀ m' ∈ b.mems, ((h.core n).access m').ok = true := by
    simpa [hmems, (h.core n).access_ok_iff true o md hmd] using hok
  have hop : h.opStore n m = h.runBundle n b := by simp [Hw.opStore, Hw.opBundle, hbundle]
  have hlanes := (h.core n).access_lanes true o md hmd
  rw [hop]
  rcases hform with rfl | rfl | rfl
  · rw [h.runBundle_exec n _ _ _ _ hpend hptr hin, hmems]
    exact h.execBundle_stored n ((h.core n).access (true, o)) _ _ place rfl hb hlanes hp
  · rw [h.runBundle_exec n _ _ _ _ hpend hptr hin, hmems]
    exact h.execBundle_stored n ((h.core n).access (true, o)) _ _ place rfl hb hlanes hp
  · rw [h.runBundle_ctl n _ _ _ hpend hptr hin, hmems]
    exact h.ctlBundle_stored n ((h.core n).access (true, o)) _ _ place rfl hb hlanes hp

end Sys2Proof.Machine
end

section
/-! One step of a halted task: the execute slot alone and the immediate bundle (R100, R127, R128, R133). -/

namespace Sys2Proof.Machine

/-- What no execute slot changes: the core but for its V, A, P and Q registers and ST. -/
def Truss.control (c : Truss) : Truss := { c with v := [], a := [], p := [], q := [], st := 0 }

@[simp] theorem Truss.pp_control (c : Truss) (n : Nat) (w : Word) : (c.pp n w).control = c.control := rfl
@[simp] theorem Truss.qp_control (c : Truss) (n : Nat) (w : Word) : (c.qp n w).control = c.control := rfl
@[simp] theorem Truss.raise_control (c : Truss) (fl : Nat) : (c.raise fl).control = c.control := rfl
@[simp] theorem Truss.setStLane_control (c : Truss) (v : Nat) : (c.setStLane v).control = c.control := rfl

@[simp] theorem Truss.minBexp_control (c : Truss) (n : Nat) : (c.minBexp n).control = c.control := by
  unfold Truss.minBexp
  split <;> rfl

theorem Truss.foldl_control (f : Truss → Nat → Truss) (hf : ∀ t i, (f t i).control = t.control) (l : List Nat)
    (c : Truss) : (l.foldl f c).control = c.control := by
  induction l generalizing c with
  | nil => rfl
  | cons i l ih => rw [List.foldl_cons, ih, hf]

@[simp] theorem Truss.mapV_control (c : Truss) (d : Nat) (lanes : List Nat) (f : Nat → Word) :
    (c.mapV d lanes f).control = c.control :=
  Truss.foldl_control (fun t i => t.vp d i (f i)) (fun _ _ => rfl) lanes c

@[simp] theorem Truss.mapVF_control (c : Truss) (d : Nat) (lanes : List Nat) (f : Nat → Word × Nat) :
    (c.mapVF d lanes f).control = c.control :=
  Truss.foldl_control (fun t i => (t.vp d i (f i).1).raise (f i).2) (fun _ _ => rfl) lanes c

@[simp] theorem Truss.mapAF_control (c : Truss) (d : Nat) (lanes : List Nat) (f : Nat → Acc × Nat) :
    (c.mapAF d lanes f).control = c.control :=
  Truss.foldl_control (fun t i => (t.ap d i (f i).1).raise (f i).2) (fun _ _ => rfl) lanes c

@[simp] theorem Truss.redResult_control (c : Truss) (o : WOp) (w : Word) : (c.redResult o w).control = c.control := rfl

@[simp] theorem Truss.redSearch_control (c : Truss) (o : WOp) (empty : Word) (l : List (Nat × Word))
    (better : Word → Word → Bool) : (c.redSearch o empty l better).control = c.control := by
  unfold Truss.redSearch
  split <;> simp

@[simp] theorem Truss.red_control (c : Truss) (o : WOp) : (c.red o).control = c.control := by
  unfold Truss.red
  simp only
  split
  case h_6 => split_ifs <;> simp
  case h_7 => split_ifs <;> simp
  case h_8 => split_ifs <;> simp
  all_goals simp

theorem EKind.run_control (k : EKind) (o : EOp) (c : Truss) : (k.run o c).control = c.control := by
  cases k <;> simp [EKind.run]

theorem WKind.run_control (k : WKind) (o : WOp) (c : Truss) : (k.run o c).control = c.control := by
  cases k <;> simp [WKind.run]

theorem XOp.run_control (x : XOp) (c : Truss) : (x.run c).control = c.control := by
  cases x with
  | nop => rfl
  | e k o => exact k.run_control o c
  | w k o => exact k.run_control o c

/-- A core whose data registers alone have changed goes on to the next bundle, where its task, if it runs one, is halted
within its budget. -/
theorem Hw.boundary_control (h : Hw) (n : Nat) (c : Truss) (hc : c.control = (h.core n).control)
    (htrapped : (h.core n).trapped = false) (hloops : (h.core n).loops = [])
    (htask : ∀ i, (h.core n).entry = some i →
      (h.core n).halted = true ∧ (h.core n).cycles + 1 < (h.tlEntry n i).budget) :
    (h.setCore n c).boundary n none = h.ran n c := by
  have hcore := h.core_setCore_same n c
  have ctrapped : c.trapped = (h.core n).trapped := (congrArg Truss.trapped hc :)
  have cloops : c.loops = (h.core n).loops := (congrArg Truss.loops hc :)
  have centry : c.entry = (h.core n).entry := (congrArg Truss.entry hc :)
  have chalted : c.halted = (h.core n).halted := (congrArg Truss.halted hc :)
  have ccycles : c.cycles = (h.core n).cycles := (congrArg Truss.cycles hc :)
  rw [Hw.boundary_next _ n (by rw [hcore, ctrapped, htrapped]) (by rw [hcore, cloops, hloops]), hcore, h.ran_setCore]
  rw [hcore, centry, chalted, ccycles]
  exact htask

/-- The bundle of an execute slot alone. -/
theorem Hw.runBundle_execute_alone (h : Hw) (n : Nat) (x : XOp) (hpend : (h.core n).pend = [])
    (htrapped : (h.core n).trapped = false) (hptr : ∀ p ∈ x.ptrs, (ptrMode ((h.core n).lg p)).isSome = true) :
    h.runBundle n (.exec x none none) = (h.setCore n (x.run (h.core n))).boundary n none := by
  have hlegal : (h.core n).ptrsLegal (.exec x none none) := by simpa [Truss.ptrsLegal, Bundle.ptrs, Bundle.mems] using hptr
  rw [h.runBundle_exec n x none none none hpend hlegal (by simp [Bundle.mems])]
  simp [Bundle.mems, Hw.execBundle, htrapped, Hw.modCore, XOp.effect]

/-- An immediate bundle with a pointer register as its destination. -/
theorem Hw.runBundle_imm_pointer (h : Hw) (n d : Nat) (w : Word) (hpend : (h.core n).pend = []) (hd : d < 0x10) :
    h.runBundle n (.imm d w) = (h.setCore n ((h.core n).pp d w)).boundary n none := by
  simp [Hw.runBundle, h.interlock_nothing_pending n _ _ hpend, Bundle.mems, Bundle.ptrs, Hw.opImm, hd, Hw.modCore]

/-- TRUSS_CTRL.step is no field of the task list. -/
theorem Hw.budget_s1_step (h : Hw) (n i : Nat) :
    ((h.s1 (Reg.TRUSS_CTRL_step n)).tlEntry n i).budget = (h.tlEntry n i).budget := by
  refine h.g_s1_ne (Reg.TRUSS_CTRL_step n) (Reg.TRUSS_TL_ACT2_budget n i) ?_
  simp only [RFkey, Reg.TRUSS_CTRL_step, Reg.TRUSS_TL_ACT2_budget]
  omega

theorem Hw.trussStep_halted (h : Hw) (n i : Nat) (b : Bundle) (hhalted : (h.core n).halted = true)
    (hentry : (h.core n).entry = some i)
    (hdec : decBundle (h.rdN (0x21080000 + n * 0x100000 + 8 * (h.core n).pc) 8) = some b) :
    h.trussStep n = (h.runBundle n b).s0 (Reg.TRUSS_CTRL_step n) := by
  simp [Hw.trussStep, hhalted, hentry, Hw.bundle, hdec]

theorem Hw.trussStep_not_halted (h : Hw) (n : Nat) (hno : (h.core n).halted = false ∨ (h.core n).entry = none) :
    h.trussStep n = h.s0 (Reg.TRUSS_CTRL_step n) := by
  rcases hno with hrun | hnone
  · simp [Hw.trussStep, hrun]
  · simp [Hw.trussStep, hnone]

/-- A command that leaves the hardware quiet and posts no write answers its effect with the pins driven. -/
theorem donePosted_quiet (s : State) (h : Hw) (hq : h.quiet = true) (hp : h.posted = []) :
    donePosted s h = .next { s with hw := h.drive } :=
  (donePosted_none s h hp).trans (by rw [h.settle_quiet hq])

end Sys2Proof.Machine
end

section
/-! Register words written in the debug window (R264, R277). -/

namespace Sys2Proof.Machine

/-- A fold that may fail and does not: each element acts as g does while P holds. -/
theorem foldl_some {α β : Type} (F : Option β → α → Option β) (g : β → α → β) (P : β → Prop) (l : List α) (b : β)
    (hb : P b) (hF : ∀ e ∈ l, ∀ b, P b → F (some b) e = some (g b e) ∧ P (g b e)) :
    l.foldl F (some b) = some (l.foldl g b) := by
  induction l generalizing b with
  | nil => rfl
  | cons e l ih =>
    obtain ⟨hstep, hkept⟩ := hF e List.mem_cons_self b hb
    rw [List.foldl_cons, List.foldl_cons, hstep]
    exact ih (g b e) hkept (fun e' he' => hF e' (List.mem_cons_of_mem e he'))

/-- An aligned 32-bit write of a word in memory. -/
theorem Hw.masterWrite_word_mem (h : Hw) (m a b : Nat) (w : Word) (ha : a % 4 = 0) (hp : h.place m false a = .mem b) :
    h.masterWrite m .b32 a w.toNat = some (h.wr32 b w) := by
  have hw : w.toNat % 4294967296 = w.toNat := Nat.mod_eq_of_lt w.isLt
  simp [Hw.masterWrite, ha, hp, Hw.wr32, hw]

/-- An aligned 32-bit write of a register is one register bus write. -/
theorem Hw.masterWrite_word_reg (h : Hw) (m a b : Nat) (w : Word) (ha : a % 4 = 0) (hp : h.place m false a = .reg b) :
    h.masterWrite m .b32 a w.toNat = h.busWrite b w.toNat m := by
  have hw : w.toNat % 4294967296 = w.toNat := Nat.mod_eq_of_lt w.isLt
  simp [Hw.masterWrite, ha, hp, hw]

/-- A register write that the bus takes, that steps no core and starts no self-test, does what its block does with it. -/
theorem Hw.busWrite_rule (h : Hw) (b w m : Nat) (hstall : h.stalls b = false) (hrsv : h.rsvBad b w = false)
    (hstep : stepsCore b w = false) (hbist : b ≠ 0x40200000) : h.busWrite b w m = some (h.regRule b w m) := by
  simp [Hw.busWrite, Hw.wordWrite, hstall, hrsv, hstep, hbist]

/-- Successive words with their addresses. -/
theorem mem_wordsAt (a : Nat) (ws : List Word) (e : Nat × Word) :
    e ∈ ws.zipIdx.map (fun e => (a + 4 * e.2, e.1)) ↔ ∃ k, ∃ hk : k < ws.length, e = (a + 4 * k, ws[k]) := by
  simp only [List.mem_map, Prod.exists, List.mk_mem_zipIdx_iff_getElem?, List.getElem?_eq_some_iff]
  constructor
  · rintro ⟨w, k, ⟨hk, rfl⟩, rfl⟩
    exact ⟨k, hk, rfl⟩
  · rintro ⟨k, hk, rfl⟩
    exact ⟨ws[k], k, ⟨hk, rfl⟩, rfl⟩

theorem Hw.rd8_wordsAt_stored (h : Hw) (a : Nat) (ws : List Word) (k : Nat) (hk : k < ws.length) (j : Nat) (hj : j < 4) :
    (h.wrWords (ws.zipIdx.map (fun e => (a + 4 * e.2, e.1)))).rd8 (a + 4 * k + j)
      = BitVec.ofNat 8 (ws[k].toNat / 256 ^ j) := by
  refine h.rd8_wrWords_stored _ _ _ j hj ((mem_wordsAt a ws _).2 ⟨k, hk, rfl⟩) (fun e he => ?_)
  obtain ⟨i, hi, rfl⟩ := (mem_wordsAt a ws e).1 he
  by_cases hik : i = k
  · subst hik
    exact .inl rfl
  · exact .inr (by simp only; omega)

theorem Hw.rd8_wordsAt_other (h : Hw) (a : Nat) (ws : List Word) (x : Nat) (hx : x < a ∨ a + 4 * ws.length ≤ x) :
    (h.wrWords (ws.zipIdx.map (fun e => (a + 4 * e.2, e.1)))).rd8 x = h.rd8 x := by
  refine h.rd8_wrWords_other _ x (fun e he => ?_)
  obtain ⟨i, hi, rfl⟩ := (mem_wordsAt a ws e).1 he
  simp only
  omega

section
variable (h : Hw) (a : Nat) (ws : List Word) (r : MbxRun) (hrun : h.mbx.run = some r) (hop : r.opcode = 0xC02)
  (hwait : r.result = none)
include hrun hop hwait

theorem Hw.regWriteCmd_locked (hlock : h.g Reg.SYS_DEBUG_unlocked = 0) :
    h.regWriteCmd a ws = some (h.result 0x14 []) := by
  have hserving : h.serving 0xC02 = true := by simp [Hw.serving, hrun, hop, hwait]
  simp [Hw.regWriteCmd, hserving, Hw.b, hlock, sLocked]

/-- Words in memory are stored one after another, and the answer is S_OK. -/
theorem Hw.regWriteCmd_mem (hopen : h.g Reg.SYS_DEBUG_unlocked ≠ 0) (ha : a % 4 = 0)
    (hp : ∀ k < ws.length, h.place 0x0A false (a + 4 * k) = .mem (a + 4 * k)) :
    h.regWriteCmd a ws = some ((h.wrWords (ws.zipIdx.map (fun e => (a + 4 * e.2, e.1)))).result 0 []) := by
  have hserving : h.serving 0xC02 = true := by simp [Hw.serving, hrun, hop, hwait]
  have hplaced : ∀ e ∈ ws.zipIdx, h.place 0x0A false (a + 4 * e.2) = .mem (a + 4 * e.2) := by
    intro e he
    exact hp e.2 (by simpa using List.snd_lt_of_mem_zipIdx he)
  rw [Hw.regWriteCmd, if_neg (by simp [hserving]), if_neg (by simp [Hw.b, hopen]), if_neg (by simp [ha]), Hw.wrWords,
    List.foldl_map]
  refine congrArg (Option.map (fun g : Hw => g.result sOk [])) (foldl_some _ (fun g e => g.wr32 (a + 4 * e.2) e.1)
    (fun g => ∃ m, g = { h with mem := m }) ws.zipIdx h ⟨h.mem, rfl⟩ ?_)
  rintro e he _ ⟨m, rfl⟩
  exact ⟨Hw.masterWrite_word_mem _ _ _ _ _ (by omega) (hplaced e he), _, rfl⟩

/-- A word of a register is one register bus write, and the answer is S_OK. -/
theorem Hw.regWriteCmd_reg (w : Word) (b : Nat) (hopen : h.g Reg.SYS_DEBUG_unlocked ≠ 0) (ha : a % 4 = 0)
    (hp : h.place 0x0A false a = .reg b) (hstall : h.stalls b = false) (hrsv : h.rsvBad b w.toNat = false)
    (hstep : stepsCore b w.toNat = false) (hbist : b ≠ 0x40200000) :
    h.regWriteCmd a [w] = some ((h.regRule b w.toNat 0x0A).result 0 []) := by
  have hserving : h.serving 0xC02 = true := by simp [Hw.serving, hrun, hop, hwait]
  have hword : h.masterWrite 0x0A .b32 a w.toNat = some (h.regRule b w.toNat 0x0A) :=
    (h.masterWrite_word_reg _ a b w ha hp).trans (h.busWrite_rule b _ _ hstall hrsv hstep hbist)
  simp [Hw.regWriteCmd, hserving, Hw.b, hopen, ha, hword, sOk]

end

end Sys2Proof.Machine
end

section
/-! TRUSS_STORE, TRUSS_STEP, REG_WRITE and XBAR_PIECE_RESPONSE (R68, R73, R100, R264, R277, R292). -/

namespace Sys2Proof.Machine

/-- A task of core n stands halted outside any loop, with no load pending and a bundle left in its budget. -/
structure Hw.HaltedTask (h : Hw) (n i : Nat) : Prop where
  halted : (h.core n).halted = true
  entry : (h.core n).entry = some i
  trapped : (h.core n).trapped = false
  pend : (h.core n).pend = []
  loops : (h.core n).loops = []
  budget : (h.core n).cycles + 1 < (h.tlEntry n i).budget

/-- The write of TRUSS_CTRL.step leaves the halted task as it stands. -/
theorem Hw.HaltedTask.s1_step {h : Hw} {n i : Nat} (ht : h.HaltedTask n i) :
    (h.s1 (Reg.TRUSS_CTRL_step n)).HaltedTask n i :=
  ⟨ht.halted, ht.entry, ht.trapped, ht.pend, ht.loops, ht.budget.trans_eq (h.budget_s1_step n i).symm⟩

/-- A bundle that changes data registers alone leaves the task halted at the next bundle. -/
theorem Hw.HaltedTask.boundary {h : Hw} {n i : Nat} (ht : h.HaltedTask n i) (c : Truss)
    (hc : c.control = (h.core n).control) : (h.setCore n c).boundary n none = h.ran n c := by
  refine h.boundary_control n c hc ht.trapped ht.loops (fun k hk => ?_)
  obtain rfl : i = k := Option.some.inj (ht.entry.symm.trans hk)
  exact ⟨ht.halted, ht.budget⟩

theorem Hw.HaltedTask.step_execute {h : Hw} {n i : Nat} (ht : h.HaltedTask n i) (x : XOp)
    (hdec : decBundle (h.rdN (0x21080000 + n * 0x100000 + 8 * (h.core n).pc) 8) = some (.exec x none none))
    (hptr : ∀ p ∈ x.ptrs, (ptrMode ((h.core n).lg p)).isSome = true) :
    h.trussStep n = (h.ran n (x.run (h.core n))).s0 (Reg.TRUSS_CTRL_step n) := by
  rw [h.trussStep_halted n i _ ht.halted ht.entry hdec, h.runBundle_execute_alone n x ht.pend ht.trapped hptr,
    ht.boundary _ (x.run_control _)]

theorem Hw.HaltedTask.step_imm {h : Hw} {n i : Nat} (ht : h.HaltedTask n i) (d : Nat) (w : Word)
    (hdec : decBundle (h.rdN (0x21080000 + n * 0x100000 + 8 * (h.core n).pc) 8) = some (.imm d w)) (hd : d < 0x10) :
    h.trussStep n = (h.ran n ((h.core n).pp d w)).s0 (Reg.TRUSS_CTRL_step n) := by
  rw [h.trussStep_halted n i _ ht.halted ht.entry hdec, h.runBundle_imm_pointer n d w ht.pend hd,
    ht.boundary _ (Truss.pp_control _ d w)]

/-- TRUSS_STEP whose bundle leaves the hardware quiet and posts no write. -/
theorem exec_trussStep (s : State) (n : Fin 10) (h : Hw)
    (hstep : (s.hw.s1 (Reg.TRUSS_CTRL_step n.val)).trussStep n.val = h) (hq : h.quiet = true) (hp : h.posted = []) :
    exec (.trussStep n) s = .next { s with hw := h.drive } :=
  (congrArg (donePosted s) hstep).trans (donePosted_quiet s h hq hp)

theorem Truss.postModified_access (c : Truss) (store : Bool) (o : MemOp) (md : PtrMode)
    (hmd : ptrMode (c.lg o.ptr) = some md) :
    c.postModified (c.access (store, o)) = c.pp o.ptr
      (if o.post = .none then c.pg o.ptr else ptrPost md (c.pg o.ptr) (c.postAmount o.post)) := by
  simp [Truss.postModified, Truss.access, hmd]

/-- A piece in flight at a target of this engine completes by its place (R292). -/
theorem Hw.pieceResponse_local (h : Hw) (t : Nat) (ecc : Option Bool) (p : Piece)
    (hfly : (h.arb t).inFlight = some p) (ht : t ≠ 0x32) (hlen : p.len ≠ 0) :
    h.pieceResponse t ecc = (h.pieceAt t p ecc).map (Hw.remoteSend 4) := by
  simp [Hw.pieceResponse, hfly, ht, hlen]

/-- Settles O60: a store through the places of its lanes, a step through the frame of the execute slot, and a register
write and a piece through the place of their address. -/
theorem storeStepWritePiece : Obligations.StoreStepWritePiece := by
  intro s hq
  refine ⟨?store, ?idle, ?step, ?write, ?piece⟩
  case store =>
    intro n m o md place hb hposted hm hmd c hplaces
    obtain ⟨g, hs, hop⟩ := s.hw.opStore_stored n.val m o md place hb hm hmd (fun i hi => (hplaces i hi).1)
      (fun i hi => (hplaces i hi).2)
    have hrow := (s.hw.onCore_bare n.val (fun h => h.opStore n.val m) hb).trans hop
    refine ⟨_, (congrArg (donePosted s) hrow).trans
      (donePosted_quiet s _ (hs.quiet.trans hq) (hs.posted.trans hposted)), hs.words, hs.others, ?_, hs.regs, rfl⟩
    rw [← c.postModified_access true o md hmd]
    exact (g.core_setCore_same n.val _).trans (s.hw.core_setCore_same n.val _).symm
  case idle =>
    intro n hno hposted
    exact exec_trussStep s n _ (Hw.trussStep_not_halted _ n.val hno) hq hposted
  case step =>
    intro n i b hposted hhalted hentry htrapped hpend hloops hbudget hdec
    have htask : s.hw.HaltedTask n.val i := ⟨hhalted, hentry, htrapped, hpend, hloops, hbudget⟩
    refine ⟨?_, ?_⟩
    · rintro x rfl hptr
      exact exec_trussStep s n _ (htask.s1_step.step_execute x hdec hptr) hq hposted
    · rintro d w rfl hd
      exact exec_trussStep s n _ (htask.s1_step.step_imm d w hdec hd) hq hposted
  case write =>
    intro r a ws hrun hop hwait answer
    have hanswer : ∀ (h : Hw) (status : Nat), h.mbx = s.hw.mbx → h.result status [] = answer status h := by
      intro h status hmbx
      simp [Hw.result, hmbx, hrun, answer]
    refine ⟨fun hlock => ?_, fun hopen ha hp => ?_, fun w b hws hopen ha hp hstall hrsv hstep hbist => ?_⟩
    · have hcmd := s.hw.regWriteCmd_locked a.toNat ws r hrun hop hwait hlock
      rw [hanswer s.hw 0x14 rfl] at hcmd
      exact (doneIf_some s _ _ hcmd).trans (done_quiet s _ hq)
    · have hcmd := s.hw.regWriteCmd_mem a.toNat ws r hrun hop hwait hopen ha hp
      have hword := s.hw.rd8_wordsAt_stored a.toNat ws
      have hother := s.hw.rd8_wordsAt_other a.toNat ws
      obtain ⟨m, hm⟩ := s.hw.wrWords_frame (ws.zipIdx.map (fun e => (a.toNat + 4 * e.2, e.1)))
      rw [hm] at hcmd hword hother
      rw [hanswer { s.hw with mem := m } 0 rfl] at hcmd
      exact ⟨_, (doneIf_some s _ _ hcmd).trans (done_quiet s _ hq), rfl, hword, hother, rfl⟩
    · subst hws
      exact doneIf_some s _ _ (s.hw.regWriteCmd_reg a.toNat r hrun hop hwait w b hopen ha hp hstall hrsv hstep hbist)
  case piece =>
    intro n ecc
    refine ⟨fun hnone => ?_, fun p b hfly hn hlen hp => ⟨fun hwrite => ?_, fun hread hecc => ?_⟩⟩
    · exact (doneIf_some s _ s.hw (by simp [Hw.pieceResponse, hnone])).trans (done_quiet s _ hq)
    · refine doneIf_some s _ _ ((s.hw.pieceResponse_local n.val ecc p hfly hn hlen).trans ?_)
      simp [Hw.pieceAt, hp, hwrite]
    · refine doneIf_some s _ _ ((s.hw.pieceResponse_local n.val ecc p hfly hn hlen).trans ?_)
      simp [Hw.pieceAt, hp, hread, hecc]

end Sys2Proof.Machine
end

section
/-! Commands of one bundle on a core outside any task: the execute slot and the immediate bundle (R74, R80, R81, R127,
R128, R133). -/

namespace Sys2Proof.Machine

@[simp] theorem Hw.ran_quiet (h : Hw) (n : Nat) (c : Truss) : (h.ran n c).quiet = h.quiet := rfl

/-- A command of one bundle on a core outside any task. -/
theorem done_onCore_bare (s : State) (n : Nat) (f : Hw → Hw) (hb : s.hw.bare n = true) :
    done s (s.hw.onCore n f) = done s (f s.hw) :=
  congrArg (done s) (s.hw.onCore_bare n f hb)

/-- A bundle that takes a core outside any task to the next bundle changes that core and the output pins. -/
theorem done_ran (s : State) (n : Nat) (c : Truss) (hq : s.hw.quiet = true) :
    done s (s.hw.ran n c) = .next { s with hw := (s.hw.ran n c).drive } :=
  done_quiet s _ ((s.hw.ran_quiet n c).trans hq)

theorem exec_eInstr (s : State) (n : Fin 10) (x : EArgs) (k : EKind) :
    exec (eInstr n x k) s = done s (s.hw.onCore n.val (fun h => h.opE n.val k x)) := by
  cases k <;> rfl

theorem exec_wInstr (s : State) (n : Fin 10) (x : EWArgs) (k : WKind) :
    exec (wInstr n x k) s = done s (s.hw.onCore n.val (fun h => h.opW n.val k x)) := by
  cases k <;> rfl

/-- A bundle that uses a pointer whose L register has a reserved mode is illegal, whatever its slots (R74). -/
theorem Hw.runBundle_reserved_mode (h : Hw) (n : Nat) (b : Bundle) (p : Nat) (hpend : (h.core n).pend = [])
    (hp : p ∈ b.ptrs) (hmd : ptrMode ((h.core n).lg p) = none) : h.runBundle n b = h.trap n tIllegal := by
  have hany : b.ptrs.any (fun p => (ptrMode ((h.core n).lg p)).isNone) = true :=
    List.any_eq_true.2 ⟨p, hp, by simp [hmd]⟩
  simp only [Hw.runBundle, h.interlock_nothing_pending n _ _ hpend, hany]
  rfl

section
variable (h : Hw) (n : Nat) (hb : h.bare n = true)
include hb

/-- An execute slot alone, whose pointers have modes, leaves its result and the next bundle. -/
theorem Hw.runBundle_execute_bare (x : XOp) (hptr : ∀ p ∈ x.ptrs, (ptrMode ((h.core n).lg p)).isSome = true) :
    h.runBundle n (.exec x none none) = h.ran n (x.run (h.core n)) := by
  obtain ⟨htrapped, -, -, hpend, hentry, hloops⟩ := (h.bare_iff n).1 hb
  rw [h.runBundle_execute_alone n x hpend htrapped hptr]
  exact h.boundary_control n _ (x.run_control _) htrapped hloops (by simp [hentry])

theorem Hw.opE_legal (k : EKind) (x : EArgs) (hk : k.legal (eOp x) = true) :
    h.opE n k x = h.ran n (k.run (eOp x) (h.core n)) := by
  rw [Hw.opE, if_pos hk]
  exact h.runBundle_execute_bare n hb (.e k (eOp x)) (by simp [XOp.ptrs])

theorem Hw.opW_legal (k : WKind) (x : EWArgs) (hk : k.legal (wOp x) = true)
    (hptr : ∀ p ∈ (XOp.w k (wOp x)).ptrs, (ptrMode ((h.core n).lg p)).isSome = true) :
    h.opW n k x = h.ran n (k.run (wOp x) (h.core n)) := by
  rw [Hw.opW, if_pos hk]
  exact h.runBundle_execute_bare n hb (.w k (wOp x)) hptr

theorem Hw.opW_reserved_mode (k : WKind) (x : EWArgs) (p : Nat) (hk : k.legal (wOp x) = true)
    (hp : p ∈ (XOp.w k (wOp x)).ptrs) (hmd : ptrMode ((h.core n).lg p) = none) :
    h.opW n k x = h.trap n tIllegal := by
  obtain ⟨-, -, -, hpend, -, -⟩ := (h.bare_iff n).1 hb
  rw [Hw.opW, if_pos hk]
  exact h.runBundle_reserved_mode n _ p hpend hp hmd

/-- The register that an immediate bundle writes takes no part in where the core goes next. -/
theorem Hw.boundary_bare (c : Truss) (htrapped : c.trapped = (h.core n).trapped) (hloops : c.loops = (h.core n).loops)
    (hentry : c.entry = (h.core n).entry) : (h.setCore n c).boundary n none = h.ran n c := by
  obtain ⟨hruns, -, -, -, hnone, houtside⟩ := (h.bare_iff n).1 hb
  exact h.boundary_setCore n c (htrapped.trans hruns) (hloops.trans houtside) (hentry.trans hnone)

theorem Hw.opImm_pointer (d : Nat) (w : Word) (hd : d < 0x10) : h.opImm n d w = h.ran n ((h.core n).pp d w) := by
  rw [Hw.opImm, if_pos hd]
  exact h.boundary_bare n hb _ rfl rfl rfl

theorem Hw.opImm_modifier (d : Nat) (w : Word) (hlow : 0x10 ≤ d) (hd : d < 0x20) :
    h.opImm n d w = h.ran n ((h.core n).mp (d - 0x10) w) := by
  rw [Hw.opImm, if_neg (by omega), if_pos hd]
  exact h.boundary_bare n hb _ rfl rfl rfl

theorem Hw.opImm_length (d : Nat) (w : Word) (hlow : 0x20 ≤ d) (hd : d < 0x30) :
    h.opImm n d w = h.ran n ((h.core n).lp (d - 0x20) w) := by
  rw [Hw.opImm, if_neg (by omega), if_neg (by omega), if_pos hd]
  exact h.boundary_bare n hb _ rfl rfl rfl

end

theorem Hw.opE_illegal (h : Hw) (n : Nat) (k : EKind) (x : EArgs) (hk : k.legal (eOp x) = false) :
    h.opE n k x = h.trap n tIllegal := by
  simp [Hw.opE, hk, Hw.opBundle]

theorem Hw.opW_illegal (h : Hw) (n : Nat) (k : WKind) (x : EWArgs) (hk : k.legal (wOp x) = false) :
    h.opW n k x = h.trap n tIllegal := by
  simp [Hw.opW, hk, Hw.opBundle]

theorem Hw.opImm_reserved (h : Hw) (n d : Nat) (w : Word) (hlow : 0x30 ≤ d) : h.opImm n d w = h.trap n tIllegal := by
  rw [Hw.opImm, if_neg (by omega), if_neg (by omega), if_neg (by omega)]

/-- Settles O27: the bundle has one slot, which changes data registers alone, so the core goes on to the next bundle; a
field or a pointer mode that is not legal stops the bundle before its slot. -/
theorem executeSlotCompletes : Obligations.ExecuteSlotCompletes := by
  intro s n hq hb
  have hE := fun x k => (exec_eInstr s n x k).trans (done_onCore_bare s n.val _ hb)
  have hW := fun x k => (exec_wInstr s n x k).trans (done_onCore_bare s n.val _ hb)
  refine ⟨fun x k hk => ?_, fun x k hk hptr => ?_, fun x k hk => ?_, fun x k hbad => ?_⟩
  · rw [hE, s.hw.opE_legal n.val hb k x hk, done_ran s _ _ hq]
  · rw [hW, s.hw.opW_legal n.val hb k x hk hptr, done_ran s _ _ hq]
  · rw [hE, s.hw.opE_illegal n.val k x hk]
    rfl
  · have htrap : s.hw.opW n.val k x = s.hw.trap n.val tIllegal := by
      cases hk : k.legal (wOp x) with
      | false => exact s.hw.opW_illegal n.val k x hk
      | true =>
        obtain ⟨p, hp, hmd⟩ := hbad.resolve_left (by simp [hk])
        exact s.hw.opW_reserved_mode n.val hb k x p hk hp hmd
    rw [hW, htrap]
    rfl

/-- Settles O32: the destination code lies in one of four ranges, and none of the three files it names takes part in
where the core goes next. -/
theorem immediateBundle : Obligations.ImmediateBundle := by
  intro s n dest w hb c
  have hrow : exec (.immBundle n dest w) s = done s (s.hw.opImm n.val dest.toNat w) := done_onCore_bare s n.val _ hb
  rw [hrow]
  refine ⟨fun hq hd => ?_, fun hq hlow hd => ?_, fun hq hlow hd => ?_, fun hlow => ?_⟩
  · rw [s.hw.opImm_pointer n.val hb _ w hd, done_ran s _ _ hq]
  · rw [s.hw.opImm_modifier n.val hb _ w hlow hd, done_ran s _ _ hq]
  · rw [s.hw.opImm_length n.val hb _ w hlow hd, done_ran s _ _ hq]
  · rw [s.hw.opImm_reserved n.val _ w hlow]
    rfl

end Sys2Proof.Machine
end

section
/-! What an operation leaves in the lanes that it writes (R65, R108, R127). -/

namespace Sys2Proof.Machine

theorem Truss.vg_vp_same (c : Truss) (r i : Nat) (w : Word) : (c.vp r i w).vg r i = w := Tab.get_set_same _ _ _ _

theorem Truss.vg_vp_lane (c : Truss) (r i j : Nat) (w : Word) (hj : j ≠ i) : (c.vp r i w).vg r j = c.vg r j :=
  Tab.get_set_ne _ _ _ _ _ (by omega)

theorem Truss.ag_ap_same (c : Truss) (r i : Nat) (w : Acc) : (c.ap r i w).ag r i = w := Tab.get_set_same _ _ _ _

theorem Truss.ag_ap_lane (c : Truss) (r i j : Nat) (w : Acc) (hj : j ≠ i) : (c.ap r i w).ag r j = c.ag r j :=
  Tab.get_set_ne _ _ _ _ _ (by omega)

/-- A fold that writes one lane a step leaves in each lane of its list what it writes there. -/
theorem Truss.foldl_lanes {γ : Type} (F : Truss → Nat → Truss) (read : Truss → Nat → γ) (f : Nat → γ)
    (hsame : ∀ t i, read (F t i) i = f i) (hother : ∀ t i j, j ≠ i → read (F t i) j = read t j)
    (lanes : List Nat) (c : Truss) (i : Nat) : read (lanes.foldl F c) i = if i ∈ lanes then f i else read c i := by
  induction lanes generalizing c with
  | nil => rfl
  | cons j l ih =>
    rw [List.foldl_cons, ih]
    by_cases hij : i = j
    · subst hij
      simp [hsame]
    · simp [hij, hother _ _ _ hij]

section
variable (c : Truss) (d : Nat) {lanes : List Nat} {i : Nat} (hi : i ∈ lanes)
include hi

theorem Truss.vg_mapV (f : Nat → Word) : (c.mapV d lanes f).vg d i = f i :=
  (Truss.foldl_lanes (fun t i => t.vp d i (f i)) (fun t i => t.vg d i) f (fun t i => t.vg_vp_same d i _)
    (fun t i j hj => t.vg_vp_lane d i j _ hj) lanes c i).trans (if_pos hi)

theorem Truss.vg_mapVF (f : Nat → Word × Nat) : (c.mapVF d lanes f).vg d i = (f i).1 :=
  (Truss.foldl_lanes (fun t i => (t.vp d i (f i).1).raise (f i).2) (fun t i => t.vg d i) (fun i => (f i).1)
    (fun t i => t.vg_vp_same d i _) (fun t i j hj => t.vg_vp_lane d i j _ hj) lanes c i).trans (if_pos hi)

theorem Truss.ag_mapAF (f : Nat → Acc × Nat) : (c.mapAF d lanes f).ag d i = (f i).1 :=
  (Truss.foldl_lanes (fun t i => (t.ap d i (f i).1).raise (f i).2) (fun t i => t.ag d i) (fun i => (f i).1)
    (fun t i => t.ag_ap_same d i _) (fun t i j hj => t.ag_ap_lane d i j _ hj) lanes c i).trans (if_pos hi)

end

theorem Truss.mapV_st (c : Truss) (d : Nat) (lanes : List Nat) (f : Nat → Word) : (c.mapV d lanes f).st = c.st := by
  induction lanes generalizing c with
  | nil => rfl
  | cons i l ih => exact ih (c.vp d i (f i))

theorem res32_wrap_add (x y : Word) : (res32 false (x.toInt + y.toInt)).1 = x + y := by
  simp [res32, BitVec.ofInt_add]

theorem res32_wrap_sub (x y : Word) : (res32 false (x.toInt - y.toInt)).1 = x - y := by
  simp [res32, Int.sub_eq_add_neg, BitVec.ofInt_add, BitVec.ofInt_neg, BitVec.sub_eq_add_neg]

/-- Settles O29: each operation writes the lane once, from the operands as they stood before it. -/
theorem integerLanes : Obligations.IntegerLanes := by
  intro c d a b pq i hi o x y
  refine ⟨?add, ?sub, ?and, ?or, ?xor, ?min, ?max⟩
  case add => exact (c.vg_mapVF d.toNat hi _).trans (res32_wrap_add x y)
  case sub => exact (c.vg_mapVF d.toNat hi _).trans (res32_wrap_sub x y)
  case and => exact c.vg_mapV d.toNat hi _
  case or => exact c.vg_mapV d.toNat hi _
  case xor => exact c.vg_mapV d.toNat hi _
  case min => exact (c.vg_mapV d.toNat hi _).trans (by simp [o, x, y, eOp, EOp.second])
  case max => exact (c.vg_mapV d.toNat hi _).trans (by simp [o, x, y, eOp, EOp.second])

end Sys2Proof.Machine
end

section
/-! Accumulation: the 80-bit limits and ST.aov (R105, R106, R109). -/

namespace Sys2Proof.Machine

theorem bitOf_eq_testBit (v i : Nat) : bitOf v i = v.testBit i := by
  rw [Nat.testBit_eq_decide_div_mod_eq]
  rfl

/-- A sticky flag is set by what raises it, and stays otherwise. -/
theorem Truss.bitOf_st_raise (c : Truss) (fl j : Nat) (hj : j < 6) :
    bitOf (c.raise fl).st.toNat j = (bitOf c.st.toNat j || bitOf fl j) := by
  have hcut : (fl % 64).testBit j = fl.testBit j := by
    simpa [hj] using Nat.testBit_mod_two_pow fl 6 j
  simp only [bitOf_eq_testBit, Truss.raise, BitVec.toNat_or, Nat.testBit_or, BitVec.toNat_ofNat]
  rw [Nat.mod_eq_of_lt (by omega)]
  exact congrArg _ hcut

/-- A sticky flag stands after an operation where it stood before or some lane raised it. -/
theorem Truss.bitOf_st_mapAF (c : Truss) (d : Nat) (lanes : List Nat) (f : Nat → Acc × Nat) (j : Nat) (hj : j < 6) :
    bitOf (c.mapAF d lanes f).st.toNat j = true ↔
      bitOf c.st.toNat j = true ∨ ∃ i ∈ lanes, bitOf (f i).2 j = true := by
  induction lanes generalizing c with
  | nil => simp [Truss.mapAF]
  | cons i l ih =>
    have hstep : bitOf ((c.ap d i (f i).1).raise (f i).2).st.toNat j = (bitOf c.st.toNat j || bitOf (f i).2 j) :=
      Truss.bitOf_st_raise _ _ j hj
    have htail := ih ((c.ap d i (f i).1).raise (f i).2)
    rw [hstep] at htail
    exact htail.trans (by simp [or_assoc])

theorem accSat_toInt (x : Int) : (accSat x).1.toInt = max (-(2 ^ 79)) (min (2 ^ 79 - 1) x) := by
  have hexact : ∀ y : Int, -2 ^ 79 ≤ y → y < 2 ^ 79 → (BitVec.ofInt 80 y).toInt = y :=
    fun y => BitVec.toInt_ofInt_eq_self (w := 80) (by decide)
  unfold accSat accMax accMin
  split_ifs with habove hbelow
  · exact (hexact _ (by omega) (by omega)).trans (by omega)
  · exact (hexact _ (by omega) (by omega)).trans (by omega)
  · exact (hexact x (by omega) (by omega)).trans (by omega)

theorem accSat_aov (x : Int) : bitOf (accSat x).2 1 = true ↔ 2 ^ 79 - 1 < x ∨ x < -(2 ^ 79) := by
  unfold accSat accMax accMin
  split_ifs with habove hbelow
  · exact iff_of_true (by decide) (.inl habove)
  · exact iff_of_true (by decide) (.inr hbelow)
  · exact iff_of_false (by simp [bitOf]) (by omega)

section
variable (c : Truss) (d : Nat) (lanes : List Nat) (sum : Nat → Int)

theorem Truss.ag_accumulate {i : Nat} (hi : i ∈ lanes) :
    ((c.mapAF d lanes (fun i => accSat (sum i))).ag d i).toInt = max (-(2 ^ 79)) (min (2 ^ 79 - 1) (sum i)) := by
  rw [c.ag_mapAF d hi, accSat_toInt]

theorem Truss.aov_accumulate : bitOf (c.mapAF d lanes (fun i => accSat (sum i))).st.toNat 1 = true ↔
    bitOf c.st.toNat 1 = true ∨ ∃ i ∈ lanes, 2 ^ 79 - 1 < sum i ∨ sum i < -(2 ^ 79) := by
  simp only [c.bitOf_st_mapAF d lanes _ 1 (by decide), accSat_aov]

end

/-- Settles O30: both operations limit an exact sum in each lane, MSU that with the product's sign turned. -/
theorem accumulateSaturates : Obligations.AccumulateSaturates := by
  intro c d a b pq m o sum aov _
  have hmac : EKind.mac.run o c = c.mapAF d.toNat (c.active pq.toNat) (fun i => accSat (sum false i)) := by
    simp [EKind.run, o, sum, eOp, EOp.second]
  have hmsu : EKind.msu.run o c = c.mapAF d.toNat (c.active pq.toNat) (fun i => accSat (sum true i)) := by
    simp [EKind.run, o, sum, eOp, EOp.second, Int.sub_eq_add_neg]
  rw [hmac, hmsu]
  exact ⟨fun i hi => ⟨c.ag_accumulate _ _ _ hi, c.ag_accumulate _ _ _ hi⟩, c.aov_accumulate _ _ _,
    c.aov_accumulate _ _ _⟩

end Sys2Proof.Machine
end

section
/-! Block exponents: redundant sign bits and ST.bexp (R116, R118). -/

namespace Sys2Proof.Machine

/-- A word with its bits turned where it is negative: its leading zeros are the word's bits equal to its sign. -/
def signTurned (x : Word) : Word := if x.msb then ~~~x else x

theorem signTurned_getLsbD (x : Word) (j : Nat) (hj : j < 32) :
    (signTurned x).getLsbD j = (x.getLsbD j != x.getLsbD 31) := by
  have hsign : x.msb = x.getLsbD 31 := rfl
  rw [signTurned, hsign]
  cases x.getLsbD 31 with
  | false => simp
  | true => simp [hj]

theorem redundant_signTurned (x : Word) : redundant 32 x.toInt =
    if (signTurned x).toNat = 0 then 31 else 30 - (signTurned x).toNat.log2 := by
  have hmag : (if x.toInt < 0 then (-x.toInt - 1).toNat else x.toInt.toNat) = (signTurned x).toNat := by
    have hsign : x.msb = decide (x.toInt < 0) := BitVec.msb_eq_toInt
    have hval := BitVec.toInt_eq_toNat_cond x
    by_cases hneg : x.toInt < 0
    · rw [if_pos hneg, signTurned, if_pos (by simp [hsign, hneg]), BitVec.toNat_not]
      omega
    · rw [if_neg hneg, signTurned, if_neg (by simp [hsign, hneg])]
      omega
  simp only [redundant, hmag]

/-- The count is that of the bits below the sign that equal it (R116). -/
theorem redundant_counts (x : Word) :
    redundant 32 x.toInt ≤ 31 ∧
    (∀ j, 31 - redundant 32 x.toInt ≤ j → j ≤ 31 → x.getLsbD j = x.getLsbD 31) ∧
    (redundant 32 x.toInt < 31 → x.getLsbD (30 - redundant 32 x.toInt) ≠ x.getLsbD 31) := by
  have hbit := signTurned_getLsbD x
  rw [redundant_signTurned]
  split_ifs with hzero
  · refine ⟨le_rfl, fun j _ hj => ?_, fun h => absurd h (lt_irrefl _)⟩
    have := hbit j (by omega)
    simpa [BitVec.getLsbD, hzero] using this
  · have htop : (signTurned x).toNat.log2 < 31 := by
      have hsign : (signTurned x).getLsbD 31 = false := by simpa using hbit 31 (by omega)
      have hmsb := BitVec.toNat_lt_of_msb_false (x := signTurned x) hsign
      exact (Nat.log2_lt hzero).2 hmsb
    refine ⟨by omega, fun j hlow hj => ?_, fun _ => ?_⟩
    · have hclear : (signTurned x).getLsbD j = false :=
        Nat.testBit_lt_two_pow (Nat.lt_of_lt_of_le Nat.lt_log2_self (Nat.pow_le_pow_right (by decide) (by omega)))
      simpa [hclear] using hbit j (by omega)
    · have hset : (signTurned x).getLsbD (signTurned x).toNat.log2 = true := Nat.testBit_log2 hzero
      rw [show 30 - (30 - (signTurned x).toNat.log2) = (signTurned x).toNat.log2 by omega]
      simpa [hset] using hbit (signTurned x).toNat.log2 (by omega)

/-! ### ST.bexp -/

theorem getLsbD_setBits (x : Word) (lo w v j : Nat) (hw : lo + w ≤ 32) (hj : j < w) :
    (setBits x lo w v).getLsbD (j + lo) = v.testBit j := by
  have hin : j + lo < 32 := by omega
  have hmask : ((2 ^ w - 1) * 2 ^ lo).testBit (j + lo) = true := by simp [Nat.testBit_mul_two_pow, hj]
  have hnew : (v % 2 ^ w * 2 ^ lo).testBit (j + lo) = v.testBit j := by simp [Nat.testBit_mul_two_pow, hj]
  simp only [setBits, BitVec.getLsbD_or, BitVec.getLsbD_and, BitVec.getLsbD_not, BitVec.getLsbD_ofNat, hin, hmask, hnew]
  simp

theorem bitsOf_setBits_same (x : Word) (lo w v : Nat) (hw : lo + w ≤ 32) :
    bitsOf (setBits x lo w v).toNat lo w = v % 2 ^ w := by
  refine Nat.eq_of_testBit_eq (fun j => ?_)
  by_cases hj : j < w
  · have hbit : (setBits x lo w v).toNat.testBit (j + lo) = v.testBit j := getLsbD_setBits x lo w v j hw hj
    simpa [bitsOf, hj, Nat.testBit_div_two_pow] using hbit
  · simp [bitsOf, hj]

theorem Truss.bexp_minBexp (c : Truss) (n : Nat) (hn : n < 128) : (c.minBexp n).bexp = min c.bexp n := by
  unfold Truss.minBexp
  split_ifs with hless
  · rw [min_eq_right hless.le]
    exact (bitsOf_setBits_same c.st 9 7 n (by decide)).trans (Nat.mod_eq_of_lt hn)
  · exact (min_eq_left (Nat.le_of_not_lt hless)).symm

theorem Truss.bexp_lt (c : Truss) : c.bexp < 128 := Nat.mod_lt _ (by decide)

theorem Truss.vg_minBexp (c : Truss) (n r i : Nat) : (c.minBexp n).vg r i = c.vg r i := by
  rw [Truss.minBexp]
  split
  · rfl
  · rfl

/-- The least of a start and some counts is at most each of them, and one of them. -/
theorem leastOf_spec (n : Nat) (l : List Nat) :
    leastOf n l ≤ n ∧ (∀ k ∈ l, leastOf n l ≤ k) ∧ (leastOf n l = n ∨ leastOf n l ∈ l) := by
  induction l generalizing n with
  | nil => simp [leastOf]
  | cons k l ih =>
    obtain ⟨hstart, hall, hone⟩ := ih (min n k)
    have hcons : leastOf n (k :: l) = leastOf (min n k) l := rfl
    rw [hcons]
    refine ⟨hstart.trans (min_le_left n k), ?_, ?_⟩
    · rintro j hj
      rcases List.mem_cons.1 hj with rfl | hl
      · exact hstart.trans (min_le_right n j)
      · exact hall j hl
    · rcases hone with heq | hmem
      · rcases min_choice n k with hn | hk
        · exact .inl (heq.trans hn)
        · exact .inr (List.mem_cons.2 (.inl (heq.trans hk)))
      · exact .inr (List.mem_cons_of_mem k hmem)

/-- The count that BEXP takes of lane i of V register r (R116). -/
def Truss.signCount (c : Truss) (r i : Nat) : Nat := redundant 32 (c.vg r i).toInt

/-- The least of the counts over the active lanes, and 127 where none is active. -/
def Truss.leastCount (c : Truss) (r : Nat) (lanes : List Nat) : Nat := leastOf 127 (lanes.map (c.signCount r))

section
variable (c : Truss) (o : EOp)

theorem EKind.run_bexp : EKind.bexp.run o c =
    (c.mapV o.d (c.active o.pq) (fun i => BitVec.ofNat 32 (c.signCount o.a i))).minBexp
      (c.leastCount o.a (c.active o.pq)) := rfl

theorem Truss.vg_bexp_lane {i : Nat} (hi : i ∈ c.active o.pq) :
    (EKind.bexp.run o c).vg o.d i = BitVec.ofNat 32 (c.signCount o.a i) := by
  rw [EKind.run_bexp, Truss.vg_minBexp, c.vg_mapV o.d hi]

theorem Truss.vg_bexp_toNat {i : Nat} (hi : i ∈ c.active o.pq) :
    ((EKind.bexp.run o c).vg o.d i).toNat = c.signCount o.a i := by
  have hle : c.signCount o.a i ≤ 31 := (redundant_counts (c.vg o.a i)).1
  rw [c.vg_bexp_lane o hi, BitVec.toNat_ofNat, Nat.mod_eq_of_lt (by omega)]

theorem Truss.bexp_bexp : (EKind.bexp.run o c).bexp = min c.bexp (c.leastCount o.a (c.active o.pq)) := by
  have hleast : c.leastCount o.a (c.active o.pq) ≤ 127 := (leastOf_spec 127 _).1
  have hold : ∀ f, (c.mapV o.d (c.active o.pq) f).bexp = c.bexp := fun f =>
    congrArg (fun st : Word => bitsOf st.toNat 9 7) (c.mapV_st o.d _ f)
  rw [EKind.run_bexp, Truss.bexp_minBexp _ _ (by omega), hold]

end

/-- Settles O31: the counts are written lane by lane, and ST.bexp is the least of itself and all of them. -/
theorem bexpCounts : Obligations.BexpCounts := by
  intro c d a pq o c'
  have hbexp : c'.bexp = min c.bexp (c.leastCount o.a (c.active o.pq)) := c.bexp_bexp o
  have hcount : ∀ i ∈ c.active o.pq, (c'.vg o.d i).toNat = c.signCount o.a i := fun i hi => c.vg_bexp_toNat o hi
  obtain ⟨-, hall, hone⟩ := leastOf_spec 127 ((c.active o.pq).map (c.signCount o.a))
  refine ⟨fun i hi => ?_, by omega, fun i hi => ?_, ?_⟩
  · obtain ⟨hle, hsign, hfirst⟩ := redundant_counts (c.vg o.a i)
    exact ⟨c.signCount o.a i, hle, c.vg_bexp_lane o hi, hsign, hfirst⟩
  · calc c'.bexp ≤ c.leastCount o.a (c.active o.pq) := hbexp.trans_le (min_le_right _ _)
      _ ≤ c.signCount o.a i := hall _ (List.mem_map_of_mem hi)
      _ = (c'.vg o.d i).toNat := (hcount i hi).symm
  · rcases min_choice c.bexp (c.leastCount o.a (c.active o.pq)) with hkept | hless
    · exact .inl (hbexp.trans hkept)
    · rcases hone with hnone | hmem
      · have hfull : c.leastCount o.a (c.active o.pq) = 127 := hnone
        have := c.bexp_lt
        exact .inl (by omega)
      · obtain ⟨i, hi, heq⟩ := List.mem_map.1 hmem
        exact .inr ⟨i, hi, (hbexp.trans hless).trans (heq.symm.trans (hcount i hi).symm)⟩

end Sys2Proof.Machine
end

section
/-! Crosspoint and send terms and their accumulator (R143). -/

namespace Sys2Proof.Machine

theorem mixTerm_eq (x g : Int) : mixTerm x g = (x * g + 2 ^ 17) / 2 ^ 18 := rfl

/-- The product of an H32 sample and a G24 gain is at most 2^54 in magnitude, and the rounding does not carry past
the shifted bound. -/
theorem natAbs_mixTerm_le {x g : Int} (hx : x.natAbs ≤ 2 ^ 31) (hg : g.natAbs ≤ 2 ^ 23) :
    (mixTerm x g).natAbs ≤ 2 ^ 36 := by
  have hprod : (x * g).natAbs ≤ 2 ^ 54 := by
    calc (x * g).natAbs = x.natAbs * g.natAbs := Int.natAbs_mul x g
      _ ≤ 2 ^ 31 * 2 ^ 23 := Nat.mul_le_mul hx hg
  rw [mixTerm_eq]
  omega

theorem natAbs_sum_map_le {α : Type} (f : α → Int) (b : Nat) (l : List α) (hf : ∀ e ∈ l, (f e).natAbs ≤ b) :
    (l.map f).sum.natAbs ≤ l.length * b := by
  calc (l.map f).sum.natAbs ≤ ((l.map f).map Int.natAbs).sum :=
        List.le_sum_of_subadditive Int.natAbs rfl.le Int.natAbs_add_le _
    _ ≤ ((l.map f).map Int.natAbs).length • b := List.sum_le_card_nsmul _ b (by simpa using hf)
    _ = l.length * b := by simp

/-- The accumulator at sample k is the sum of the terms of its records there. -/
theorem Hw.nthI_accumulate (h : Hw) (table : Nat) (recs : List (Nat × XRec)) {k : Nat} (hk : k < h.bs) :
    nthI (h.accumulate table recs) k = (recs.map (fun e => mixTerm (nthI (h.source e.2.src) k)
      (h.gainAt (rampKey table e.1) e.2.gain (h.epoch.t + k)))).sum := by
  simp [nthI, Hw.accumulate, hk, List.sum_eq_foldl, List.foldl_map]

/-- Settles O26: a term is bounded by the widths of its sample and gain, and a sum by the number of its terms. -/
theorem mixTerm_spec : Obligations.MixTerm := by
  refine ⟨mixTerm_eq, rfl, fun h table recs k => h.nthI_accumulate table recs, fun l hlen hrange => ?_⟩
  have hterm : ∀ e ∈ l, (mixTerm e.1 e.2).natAbs ≤ 2 ^ 36 := by
    intro e he
    obtain ⟨hxl, hxh, hgl, hgh⟩ := hrange e he
    exact natAbs_mixTerm_le (by omega) (by omega)
  have hsum := natAbs_sum_map_le (fun e => mixTerm e.1 e.2) _ l hterm
  exact ⟨hterm, by omega, by omega, by omega⟩

end Sys2Proof.Machine
end

section
/-! Placement: ABORT of a prepared share (R219, R220), and the completion of the plan, deal, table, house, enrolment
and key commands (R213, R217, R221, R222, R368, R510). -/

namespace Sys2Proof.Machine

@[simp] theorem Hw.dropShare_quiet (h : Hw) : h.dropShare.quiet = h.quiet := rfl

/-- ABORT has an effect only under the number of the prepared share, before COMMIT. -/
theorem Hw.abort_prepared (h : Hw) (sh : Share) (number : Nat) (hprep : h.deal.prepared = some sh) :
    h.abort number = if number = sh.number ∧ h.deal.committed = false then h.dropShare else h := by
  simp [Hw.abort, hprep, eq_comm (a := number)]

theorem Hw.abort_quiet (h : Hw) (sh : Share) (number : Nat) (hprep : h.deal.prepared = some sh) :
    (h.abort number).quiet = h.quiet := by
  rw [h.abort_prepared sh number hprep]
  split
  · exact h.dropShare_quiet
  · rfl

/-- Settles O51: ABORT leaves quiet hardware quiet, so what it answers is its own effect with the pins driven. -/
theorem abortDiscards : Obligations.AbortDiscards := by
  intro s sh number hq hprep
  have habort : exec (.abort number) s = .next { s with hw := (s.hw.abort number).drive } :=
    done_quiet s _ ((s.hw.abort_quiet sh number hprep).trans hq)
  rw [habort, s.hw.abort_prepared sh number hprep]
  rfl

/-- Settles O56: the meaning of each row is `done` of its own operation, with no condition on the hardware. The rows
stand in the order of the statement: deals, topology and Proed messages, beats and freezes, health polls, fault reports,
causes and traces, houses, enrolment, peers and images, keys. -/
theorem dealTableComplete : Obligations.DealTableComplete := by
  intro s
  exact ⟨fun _ => rfl, fun _ _ => rfl, fun _ _ => rfl, rfl, fun _ => rfl, fun _ => rfl, fun _ _ => rfl, rfl, rfl, rfl,
    rfl,
    fun _ _ => rfl, rfl, fun _ _ => rfl, fun _ _ _ => rfl, fun _ _ _ _ _ _ => rfl,
    rfl, fun _ => rfl, fun _ _ _ _ => rfl, rfl, fun _ => rfl,
    fun _ => rfl, fun _ => rfl, fun _ => rfl,
    fun _ _ _ _ _ _ => rfl, fun _ _ _ => rfl, rfl, fun _ _ => rfl, fun _ => rfl, fun _ _ => rfl,
    fun _ _ => rfl, rfl, rfl, fun _ _ => rfl, rfl, rfl,
    fun _ _ => rfl, fun _ _ => rfl, fun _ _ _ _ _ _ => rfl, fun _ _ => rfl, fun _ => rfl,
    fun _ _ => rfl, fun _ => rfl, fun _ _ => rfl, rfl,
    rfl, rfl, fun _ => rfl⟩

end Sys2Proof.Machine
end

section
/-! The output pins and the posted writes between commands, and the interrupt pin of the host (R238, R240, R419, R474,
R493, R524). -/

namespace Sys2Proof.Machine

@[simp] theorem Hw.settle_posted (h : Hw) : h.settle.posted = [] := Hw.drive_posted _

/-- After a command no register write is left over, whatever was posted before it. -/
theorem exec_nonePosted {c : Instr} {s t : State} (he : exec c s = .next t) : t.nonePosted := by
  obtain ⟨h, rfl⟩ := exec_cases he
  exact h.settle_posted

/-- An idle cycle changes the clock alone, on which no pin's level rests. -/
theorem idle_keeps_pins {s : State} (hpins : s.pinsFollow) (hposted : s.nonePosted) :
    State.pinsFollow { s with hw := s.hw.idle } ∧ State.nonePosted { s with hw := s.hw.idle } :=
  ⟨hpins.trans s.hw.idle_levels.symm, hposted⟩

/-- Settles O3: an idle cycle changes the clock alone, and every command ends with its pins driven and its posted writes
carried out. -/
theorem pinsKept : Obligations.PinsKept := by
  rintro s t ⟨hpins, hposted⟩ hstep
  cases hqueue : s.pending with
  | nil =>
    obtain rfl : { s with hw := s.hw.idle } = t := Host.Outcome.next.inj ((step_empty s hqueue).symm.trans hstep)
    exact idle_keeps_pins hpins hposted
  | cons c cs =>
    have he : exec c { s with pending := cs } = .next t := (step_cons c cs s hqueue).symm.trans hstep
    exact ⟨exec_pinsFollow he, exec_nonePosted he⟩

theorem Hw.b_iff (h : Hw) (f : RF) : h.b f = true ↔ h.g f ≠ 0 := by
  simp [Hw.b]

/-- Interrupt i has bit i in both registers. -/
theorem Hw.hostIrq_iff (h : Hw) :
    h.hostIrq = true ↔ ∃ i < 10, h.g ⟨0x400F0020, i, 1, 0⟩ ≠ 0 ∧ h.g ⟨0x400F0024, i, 1, 0⟩ ≠ 0 := by
  have hbits : h.hostIrq =
      (List.range 10).any (fun i => h.b ⟨0x400F0020, i, 1, 0⟩ && h.b ⟨0x400F0024, i, 1, 0⟩) := rfl
  simp only [hbits, List.any_eq_true, List.mem_range, Bool.and_eq_true, Hw.b_iff]

/-- Settles O9: after a command the pin is at its level, which is low exactly for a common bit. -/
theorem hostIrqPin : Obligations.HostIrqPin := by
  intro c s t he
  have hlevel : t.hw.outs.hostIrqN = !t.hw.hostIrq := congrArg Outs.hostIrqN (exec_pinsFollow he)
  rw [hlevel, Bool.not_eq_false', t.hw.hostIrq_iff]

end Sys2Proof.Machine
end

section
/-! The completion of the power, epoch, host, transfer and Proed commands (R22, R83, R240, R243, R257, R264, R292, R492). -/

namespace Sys2Proof.Machine

/-- Settles O52: the meaning of each row is `done` of its own operation. The rows stand in the order of the statement: power,
resets and boot, the bridge, emergency controls, ticks and tasks, kitties and speculation, the trace, the Joinery. -/
theorem powerEpochComplete : Obligations.PowerEpochComplete := by
  intro s
  exact ⟨rfl, rfl, fun _ _ => rfl, rfl, rfl, rfl, rfl, rfl,
    fun _ _ => rfl, rfl, rfl, rfl, rfl,
    fun _ => rfl, fun _ => rfl, fun _ => rfl, fun _ => rfl,
    fun _ => rfl, fun _ => rfl, rfl, fun _ => rfl,
    fun _ _ _ _ => rfl, fun _ => rfl, fun _ _ _ => rfl, fun _ _ _ _ => rfl, rfl, fun _ => rfl, fun _ => rfl,
    rfl, rfl, rfl, rfl, rfl, rfl⟩

/-- Settles O54: HOST_WRITE, REGISTER_WRITE and XBAR_PIECE_RESPONSE have their condition; every other row is `done` of its
own operation. The rows stand in the order of the statement: the host port, the doors, the debug window and pins, the
register bus, the crossbar, the DMA. -/
theorem hostTransferComplete : Obligations.HostTransferComplete := by
  intro s
  exact ⟨fun _ _ => rfl, fun _ _ _ _ ho => doneIf_some s _ _ ho, fun _ => rfl,
    rfl, fun _ _ _ _ _ _ _ => rfl, fun _ _ _ _ => rfl, rfl, rfl,
    rfl, rfl, fun _ _ => rfl,
    fun _ _ _ _ _ ho => doneIf_some s _ _ ho, fun _ _ _ => rfl,
    fun _ _ _ _ _ _ _ => rfl, fun _ => rfl, fun _ _ _ ho => doneIf_some s _ _ ho, fun _ => rfl, fun _ _ => rfl,
    fun _ _ => rfl, fun _ => rfl, fun _ _ => rfl, fun _ => rfl,
    fun _ _ _ => rfl, fun _ => rfl, fun _ _ => rfl, fun _ _ _ _ _ => rfl, fun _ => rfl⟩

/-- Settles O55: REG_WRITE has its condition; every other row is `done` of its own operation. The rows stand in the order of
the statement: the system, plans and deals, parameters, meters, time and streams, the table and the twin, faults and the
trace, self-test and firmware, debug and registers, keys. -/
theorem proedComplete : Obligations.ProedComplete := by
  intro s
  exact ⟨rfl, rfl, fun _ => rfl,
    fun _ _ => rfl, rfl, fun _ => rfl, fun _ _ _ => rfl, fun _ => rfl, fun _ _ => rfl,
    fun _ _ => rfl, fun _ _ _ => rfl, fun _ _ => rfl, fun _ _ _ => rfl, fun _ _ _ => rfl,
    fun _ => rfl, fun _ => rfl, fun _ _ => rfl, fun _ _ _ => rfl,
    rfl, rfl, rfl, fun _ => rfl, fun _ => rfl,
    rfl, fun _ => rfl, rfl, rfl,
    rfl, fun _ => rfl, fun _ => rfl, rfl, rfl, fun _ => rfl,
    fun _ _ _ => rfl, fun _ => rfl, rfl,
    rfl, fun _ _ _ => rfl, fun _ _ => rfl, fun _ _ _ ho => doneIf_some s _ _ ho,
    fun _ => rfl, fun _ _ => rfl⟩

end Sys2Proof.Machine
end

section
/-! Commands that are refused with S_PARAM_RANGE (R257, R507, R512). -/

namespace Sys2Proof.Machine

/-- The outcome stands in the record of the running command, and nothing else changes. -/
theorem Hw.result_running (h : Hw) (r : MbxRun) (status : Nat) (body : List Byte) (hrun : h.mbx.run = some r) :
    h.result status body = { h with mbx := { h.mbx with run := some { r with result := some (status, body) } } } := by
  simp [Hw.result, hrun]

theorem Hw.serving_waiting (h : Hw) (r : MbxRun) (hrun : h.mbx.run = some r) (hwait : r.result = none) :
    h.serving r.opcode = true := by
  simp [Hw.serving, hrun, hwait]

/-- An owner key is burnt once (R507). -/
theorem Hw.ownerKey_again (h : Hw) (pub : List Byte) (hserving : h.serving 0xB05 = true) (hlen : pub.length = 64)
    (hset : h.ownerSet = true) : h.ownerKey pub = h.result sParamRange [] := by
  simp [Hw.ownerKey, hserving, hlen, hset]

/-- At most four keys are installed (R512). -/
theorem Hw.netKeySet_full (h : Hw) (keyId : Nat) (key : List Byte) (hserving : h.serving 0xB06 = true)
    (hlen : key.length = 16) (hfull : 4 ≤ (h.mbx.netKeys.filter (fun k => k.keyId != keyId)).length) :
    h.netKeySet keyId key = h.result sParamRange [] := by
  simp [Hw.netKeySet, hserving, hlen, hfull]

theorem Hw.planLoad_too_long (h : Hw) (off total : Nat) (hserving : h.serving 0x201 = true)
    (hthaw : h.frozenWorker = false) (hbulk : h.bulk.isSome = true) (htotal : 2097152 < total) :
    h.planLoad off total = h.result sParamRange [] := by
  obtain ⟨b, hb⟩ := Option.isSome_iff_exists.1 hbulk
  simp [Hw.planLoad, hserving, hthaw, hb, htotal]

/-- A Proed command whose one effect on quiet hardware is its outcome. -/
theorem done_result (s : State) (h : Hw) (r : MbxRun) (status : Nat) (body : List Byte) (hq : s.hw.quiet = true)
    (hrun : s.hw.mbx.run = some r) (heff : h = s.hw.result status body) :
    done s h = .next { s with hw :=
      ({ s.hw with mbx := { s.hw.mbx with run := some { r with result := some (status, body) } } } : Hw).drive } := by
  rw [heff, s.hw.result_running r status body hrun]
  exact done_quiet s _ hq

/-- Settles O48: each command meets its limit before it has changed anything. -/
theorem commandsOutOfRange : Obligations.CommandsOutOfRange := by
  intro s r hq hrun hwait answer
  have hserving := s.hw.serving_waiting r hrun hwait
  have hrefused : ∀ h : Hw, h = s.hw.result sParamRange [] → done s h = .next { s with hw := answer.drive } :=
    fun h => done_result s h r sParamRange [] hq hrun
  refine ⟨fun pub hop hlen hset => ?_, fun keyId key hop hlen hfull => ?_, fun off total hop hthaw hbulk htotal => ?_⟩
  · exact hrefused _ (s.hw.ownerKey_again pub (hop ▸ hserving) hlen hset)
  · exact hrefused _ (s.hw.netKeySet_full keyId.toNat key (hop ▸ hserving) hlen hfull)
  · exact hrefused _ (s.hw.planLoad_too_long off total (hop ▸ hserving) hthaw hbulk htotal)

end Sys2Proof.Machine
end

section
/-! The doorbell while MBX_STATUS.rejected is 1 (R243–R245). -/

namespace Sys2Proof.Machine

theorem Hw.g_inc_same (h : Hw) (f : RF) : (h.inc f).g f = (h.g f + 1) % 2 ^ f.w := h.g_p_same f _

theorem Hw.g_inc_ne (h : Hw) (f f' : RF) (hk : RFkey f' ≠ RFkey f) : (h.inc f).g f' = h.g f' := h.g_p_ne f f' _ hk

/-- The two counts of a discarded write of the host door, while rejected is 1 already. -/
theorem Hw.hostReject_again (h : Hw) (hrej : h.g Reg.MBX_STATUS_rejected ≠ 0) :
    h.hostReject = ((h.inc Reg.MBX_STATUS_reject_cnt).inc (Reg.MBX_DOOR_REJ_busy 0)).s1 Reg.MBX_STATUS_rejected := by
  have hkept : ((h.inc Reg.MBX_STATUS_reject_cnt).inc (Reg.MBX_DOOR_REJ_busy 0)).b Reg.MBX_STATUS_rejected = true := by
    rw [Hw.b_iff, Hw.g_inc_ne _ _ _ (by decide), Hw.g_inc_ne _ _ _ (by decide)]
    exact hrej
  simp [Hw.hostReject, Hw.setRejected, hkept]

/-- A ready mailbox discards the doorbell while rejected is 1, whether it is idle or not. -/
theorem Hw.doorbell_rejected (h : Hw) (hready : h.g Reg.MBX_STATUS_ready ≠ 0) (hrej : h.g Reg.MBX_STATUS_rejected ≠ 0) :
    h.doorbell = h.hostReject := by
  simp [Hw.doorbell, Hw.b, hready, hrej]

/-- Settles O16: the discarded doorbell counts in two registers and sets rejected again. -/
theorem doorbellRejected : Obligations.DoorbellRejected := by
  intro s hq hready hrej
  have heff := (s.hw.doorbell_rejected hready hrej).trans (s.hw.hostReject_again hrej)
  refine ⟨_, (congrArg (done s) heff).trans (done_quiet s _ hq), ?count, ?busyCount, ?rejected, ?busy, rfl, rfl, rfl⟩
  case rejected => exact Hw.g_s1_same _ _ (by decide)
  all_goals simp (disch := decide) only [Hw.drive_g, Hw.g_s1_ne, Hw.g_inc_same, Hw.g_inc_ne]

end Sys2Proof.Machine
end

section
/-! Mute at every sink (R239, R240, R493). -/

namespace Sys2Proof

theorem Tab.mem_put {α : Type} {t : Tab α} {n : Nat} {v : α} {e : Nat × α} (he : e ∈ t.put n v) :
    e = (n, v) ∨ e ∈ t := by
  induction t with
  | nil => simpa [Tab.put] using he
  | cons x t ih =>
    obtain ⟨k, w⟩ := x
    simp only [Tab.put] at he
    split at he
    · simpa using he
    · split at he
      · rcases List.mem_cons.1 he with heq | hmem
        · exact .inl heq
        · exact .inr (List.mem_cons_of_mem _ hmem)
      · rcases List.mem_cons.1 he with heq | hmem
        · exact .inr (heq ▸ List.mem_cons_self)
        · exact (ih hmem).imp_right (List.mem_cons_of_mem _)

theorem Tab.get_cases {α : Type} (d : α) (t : Tab α) (n : Nat) : t.get d n = d ∨ (n, t.get d n) ∈ t := by
  induction t with
  | nil => exact .inl rfl
  | cons x t ih =>
    obtain ⟨k, w⟩ := x
    simp only [Tab.get]
    split
    · next hk => exact .inr (hk ▸ List.mem_cons_self)
    · exact ih.imp_right (List.mem_cons_of_mem _)

end Sys2Proof

namespace Sys2Proof.Machine

/-- Mute comes into force or ends at the DAC input of one channel. -/
def Hw.muteAmp (on : Bool) (h : Hw) (c : Nat) : Hw :=
  h.setAmp c { h.ampSt c with
    mute := (h.ampSt c).mute.set on
    muteAt := if on && !(h.ampSt c).mute.muting then h.t64 else (h.ampSt c).muteAt }

theorem Hw.muteAll_eq (h : Hw) : h.muteAll = (List.range 16).foldl (Hw.muteAmp h.sinksOff) h.muteKitties := rfl

theorem Hw.ampSt_setAmp_same (h : Hw) (c : Nat) (a : AmpSt) : (h.setAmp c a).ampSt c = a := Tab.get_put_same _ _ _ _

theorem Hw.ampSt_setAmp_ne (h : Hw) (c d : Nat) (a : AmpSt) (hd : d ≠ c) : (h.setAmp c a).ampSt d = h.ampSt d :=
  Tab.get_put_ne _ _ _ _ _ hd

/-- Mute at some channels changes the state of the channels alone. -/
theorem Hw.foldl_muteAmp_frame (h : Hw) (on : Bool) (l : List Nat) :
    ∃ amps, l.foldl (Hw.muteAmp on) h = { h with sill := { h.sill with amps := amps } } := by
  induction l generalizing h with
  | nil => exact ⟨_, rfl⟩
  | cons c l ih =>
    obtain ⟨amps, hframe⟩ := ih (h.muteAmp on c)
    exact ⟨amps, hframe⟩

/-- Each channel named is muted once, and every other stays as it was. -/
theorem Hw.ampSt_mute_range (h : Hw) (on : Bool) (n c : Nat) :
    (((List.range n).foldl (Hw.muteAmp on) h).ampSt c).mute =
      if c < n then (h.ampSt c).mute.set on else (h.ampSt c).mute := by
  induction n with
  | zero => rfl
  | succ n ih =>
    rw [List.range_succ, List.foldl_append, List.foldl_cons, List.foldl_nil]
    by_cases hc : c = n
    · subst hc
      rw [if_neg (Nat.lt_irrefl c)] at ih
      rw [if_pos (Nat.lt_succ_self c), ← ih]
      exact congrArg AmpSt.mute (Hw.ampSt_setAmp_same _ c _)
    · have hlt : c < n + 1 ↔ c < n := by omega
      simp only [hlt, ← ih]
      exact congrArg AmpSt.mute (Hw.ampSt_setAmp_ne _ n c _ hc)

/-- The DAC input of a channel does not fall to zero now: it is not muted, or the fade has left zero already, or the fade
still runs. -/
def Hw.fadeWaits (h : Hw) (a : AmpSt) : Bool :=
  !a.mute.muting || (a.dac = 0 && decide (muteF h.fs ≤ a.mute.pos))
    || decide (h.t64 < a.muteAt + ceilDiv (muteF h.fs * 1000000000) h.fs)

theorem Hw.nothingDue_iff (h : Hw) :
    h.nothingDue = true ↔
      (List.range 2).all (fun b => (h.rail b).retune.all (fun t => decide (h.t64 ≤ t + 5000))) = true ∧
      (∀ e ∈ h.sill.amps, h.fadeWaits e.2 = true) ∧
      h.table.members.all (fun m => m.pollDue.all (fun t => decide (h.t64 < t))) = true := by
  have hall := List.all_eq_true (l := h.sill.amps) (p := fun e => h.fadeWaits e.2)
  simp only [Hw.nothingDue, Bool.and_eq_true, and_assoc, ← hall]
  rfl

theorem Hw.quiet_fadeWaits {h : Hw} (hq : h.quiet = true) : ∀ e ∈ h.sill.amps, h.fadeWaits e.2 = true := by
  obtain ⟨-, -, -, hdue⟩ := h.quiet_iff.1 hq
  obtain ⟨-, hamps, -⟩ := h.nothingDue_iff.1 hdue
  exact hamps

/-- Quiet hardware stays quiet under channels of which none falls to zero now. -/
theorem Hw.quiet_amps {h : Hw} (amps : Tab AmpSt) (hq : h.quiet = true) (hw : ∀ e ∈ amps, h.fadeWaits e.2 = true) :
    ({ h with sill := { h.sill with amps := amps } } : Hw).quiet = true := by
  obtain ⟨hqueue, hholds, htwin, hdue⟩ := h.quiet_iff.1 hq
  obtain ⟨hrails, -, hpolls⟩ := h.nothingDue_iff.1 hdue
  exact (Hw.quiet_iff _).2 ⟨hqueue, hholds, htwin, (Hw.nothingDue_iff _).2 ⟨hrails, hw, hpolls⟩⟩

theorem muteF_pos (c : Nat) : 0 < muteF (rateHz c) := by
  unfold rateHz
  split <;> decide

/-- A mute fade takes time. -/
theorem Hw.fade_pos (h : Hw) : 0 < ceilDiv (muteF h.fs * 1000000000) h.fs := by
  have hpos : 0 < muteF h.fs := muteF_pos _
  by_contra hzero
  have hnone := (ceilDiv_le_iff (rateHz_pos _) 0).1 (Nat.le_of_not_lt hzero)
  omega

/-- A channel that comes under mute starts its fade; one under mute goes on with its own. -/
theorem Hw.muteAmp_fadeWaits (h : Hw) (c : Nat) (hw : ∀ e ∈ h.sill.amps, h.fadeWaits e.2 = true) :
    ∀ e ∈ (h.muteAmp true c).sill.amps, h.fadeWaits e.2 = true := by
  intro e he
  rcases Tab.mem_put he with rfl | hold
  · by_cases hmuting : (h.ampSt c).mute.muting = true
    · have hmem : (c, h.ampSt c) ∈ h.sill.amps := by
        refine (Tab.get_cases {} h.sill.amps c).resolve_left (fun hdefault => ?_)
        rw [Hw.ampSt, hdefault] at hmuting
        exact Bool.false_ne_true hmuting
      simpa [Hw.fadeWaits, MuteSt.set, hmuting] using hw _ hmem
    · simp [Hw.fadeWaits, MuteSt.set, hmuting, h.fade_pos]
  · exact hw e hold

theorem Hw.foldl_muteAmp_fadeWaits (h : Hw) (l : List Nat) (hw : ∀ e ∈ h.sill.amps, h.fadeWaits e.2 = true) :
    ∀ e ∈ (l.foldl (Hw.muteAmp true) h).sill.amps, h.fadeWaits e.2 = true := by
  induction l generalizing h with
  | nil => exact hw
  | cons c l ih => exact ih (h.muteAmp true c) (h.muteAmp_fadeWaits c hw)

/-- Every output kitty with mute in force. -/
def Hw.mutedKitties (h : Hw) : Tab OutKitty := h.kout.map (fun e => (e.1, { e.2 with mute := e.2.mute.set true }))

section
variable {h : Hw} (hon : h.sinksOff = true)
include hon

theorem Hw.muteAll_on :
    h.muteAll = (List.range 16).foldl (Hw.muteAmp true) { h with kout := h.mutedKitties } := by
  rw [Hw.muteAll_eq, Hw.muteKitties, hon]
  rfl

/-- Mute that comes into force changes the kitties and the channels alone. -/
theorem Hw.muteAll_on_frame :
    ∃ amps, h.muteAll = { h with kout := h.mutedKitties, sill := { h.sill with amps := amps } } := by
  rw [Hw.muteAll_on hon]
  exact Hw.foldl_muteAmp_frame _ true _

theorem Hw.muteAll_on_ampSt (c : Nat) (hc : c < 16) : (h.muteAll.ampSt c).mute = (h.ampSt c).mute.set true := by
  rw [Hw.muteAll_on hon, Hw.ampSt_mute_range, if_pos hc]
  rfl

/-- Mute that comes into force leaves quiet hardware quiet: no fade that it starts is at its end. -/
theorem Hw.muteAll_on_quiet (hq : h.quiet = true) : h.muteAll.quiet = true := by
  have hwait := Hw.foldl_muteAmp_fadeWaits { h with kout := h.mutedKitties } (List.range 16) (Hw.quiet_fadeWaits hq)
  rw [← Hw.muteAll_on hon] at hwait
  obtain ⟨amps, hframe⟩ := Hw.muteAll_on_frame hon
  rw [hframe] at hwait ⊢
  exact Hw.quiet_amps (h := { h with kout := h.mutedKitties }) amps hq hwait

end

theorem Hw.sinksOff_of_hostMute (h : Hw) (hmute : h.g Reg.HOST_MUTE_mute = 1) : h.sinksOff = true := by
  simp [Hw.sinksOff, Hw.muteOn, Hw.b, hmute]

theorem Hw.levels_muteOutN (h : Hw) (hoff : h.sinksOff = true) : h.levels.muteOutN = false := by
  simp [Hw.levels, hoff]

/-- A write of 1 to HOST_MUTE.mute on quiet hardware. -/
theorem Hw.hostMute_on (h : Hw) (w : Nat) (hq : h.quiet = true) (hw : w % 2 = 1) :
    ∃ amps, h.hostMute w = { h.p Reg.HOST_MUTE_mute 1 with
        kout := h.mutedKitties, sill := { h.sill with amps := amps } } ∧
      (h.hostMute w).quiet = true ∧
      ∀ c < 16, ((h.hostMute w).ampSt c).mute = (h.ampSt c).mute.set true := by
  have hword : h.hostMute w = (h.p Reg.HOST_MUTE_mute 1).muteAll := by simp [Hw.hostMute, bitsOf, hw]
  have hon := Hw.sinksOff_of_hostMute _ (h.g_s1_same Reg.HOST_MUTE_mute (by decide))
  obtain ⟨amps, hframe⟩ := Hw.muteAll_on_frame hon
  rw [hword]
  exact ⟨amps, hframe, Hw.muteAll_on_quiet hon hq, Hw.muteAll_on_ampSt hon⟩

/-- Settles O18: the written field puts mute in force, and on quiet hardware nothing follows but the pins. -/
theorem hostMuteOn : Obligations.HostMuteOn := by
  intro s v hq hv
  obtain ⟨amps, hframe, hquiet, hamps⟩ := s.hw.hostMute_on v.toNat hq hv
  have hexec : exec (.hostMute v) s = .next { s with hw := (s.hw.hostMute v.toNat).drive } := done_quiet s _ hquiet
  rw [hframe] at hexec hamps
  have hfield := s.hw.g_s1_same Reg.HOST_MUTE_mute (by decide)
  exact ⟨_, hexec, hfield, Hw.levels_muteOutN _ (Hw.sinksOff_of_hostMute _ hfield), rfl, hamps, rfl, rfl⟩

end Sys2Proof.Machine
end

section
/-! The host port: words of the command and bulk buffers, and unmapped host addresses (R230–R235, R280, R281). -/

namespace Sys2Proof.Machine

/-! ### Access errors -/

/-- The bit of the kind of an access error, and the count of errors (R280). -/
def Hw.accCount (h : Hw) (kind : Nat) : Hw := (h.s1 (accErrBit kind)).inc Reg.SYS_ACC_ERR_CNT_count

/-- The address and the description of the first access error (R280). -/
def Hw.accInfo (h : Hw) (kind addr : Nat) (write : Bool) (size master : Nat) : Hw :=
  (((((h.p Reg.SYS_ACC_ERR_ADDR_addr addr).p Reg.SYS_ACC_ERR_INFO_kind kind).p
    Reg.SYS_ACC_ERR_INFO_write (b2n write)).p Reg.SYS_ACC_ERR_INFO_size size).p
    Reg.SYS_ACC_ERR_INFO_master master).s1 Reg.SYS_ACC_ERR_INFO_valid

/-- The registers after an access error is recorded: only the first is described (R281). -/
def Hw.accRecord (h : Hw) (kind addr : Nat) (write : Bool) (size master : Nat) : Hw :=
  if (h.accCount kind).b Reg.SYS_ACC_ERR_INFO_valid then h.accCount kind
  else (h.accCount kind).accInfo kind addr write size master

/-- An access error is recorded and raises source 0x30, whose context draws a free value. -/
theorem Hw.accErr_eq (h : Hw) (kind addr : Nat) (write : Bool) (size master : Nat) :
    h.accErr kind addr write size master =
      ((h.accRecord kind addr write size master).draw.2).raise 0x30 (Config.faultCode 0x30 % 256)
        ((h.accRecord kind addr write size master).draw.1 % 2 ^ 64) := rfl

theorem Hw.RegsFlt.accRecord (h : Hw) (kind addr : Nat) (write : Bool) (size master : Nat) :
    h.RegsFlt (h.accRecord kind addr write size master) := by
  have hcount : h.RegsFlt (h.accCount kind) := ((Hw.RegsFlt.refl h).p _ _).p _ _
  unfold Hw.accRecord
  split
  · exact hcount
  · exact (((((hcount.p _ _).p _ _).p _ _).p _ _).p _ _).p _ _

/-- An access error changes registers, the fault unit and the free values drawn. -/
theorem Hw.accErr_frame (h : Hw) (kind addr : Nat) (write : Bool) (size master : Nat) :
    ∃ r x n, h.accErr kind addr write size master = { h with regs := r, flt := x, fresh := n } := by
  obtain ⟨r, x, hrecord⟩ := Hw.RegsFlt.accRecord h kind addr write size master
  obtain ⟨r', x', hraise⟩ := (Hw.RegsFlt.refl (h.accRecord kind addr write size master).draw.2).raise 0x30
    (Config.faultCode 0x30 % 256) ((h.accRecord kind addr write size master).draw.1 % 2 ^ 64) 0xFFFFFFFF
  refine ⟨r', x', h.fresh + 1, ?_⟩
  rw [h.accErr_eq, hraise, Hw.draw, hrecord]

theorem accErrBit_field (kind : Nat) :
    (accErrBit kind).addr = 0x40000010 ∧ (accErrBit kind).lo < 32 ∧ (accErrBit kind).w = 1 := by
  unfold accErrBit
  split <;> decide

/-- An access error sets the bit of its kind: no other field that it writes, and none of the fault unit, is in that
register. -/
theorem Hw.g_accErr_bit (h : Hw) (kind addr : Nat) (write : Bool) (size master : Nat) :
    (h.accErr kind addr write size master).g (accErrBit kind) = 1 := by
  obtain ⟨haddr, hlo, hwidth⟩ := accErrBit_field kind
  have hother : ∀ (g : Hw) (f : RF) (v : Nat), f.lo < 32 → f.addr ≠ 0x40000010 →
      (g.p f v).g (accErrBit kind) = g.g (accErrBit kind) :=
    fun g f v hflo hfaddr => g.g_p_addr f _ v hflo hlo (by rw [haddr]; exact hfaddr.symm)
  have hcount : (h.accCount kind).g (accErrBit kind) = 1 :=
    (hother _ Reg.SYS_ACC_ERR_CNT_count _ (by decide) (by decide)).trans (h.g_s1_same (accErrBit kind) (by omega))
  have hrecord : (h.accRecord kind addr write size master).g (accErrBit kind) = 1 := by
    unfold Hw.accRecord
    split
    · exact hcount
    · simp (disch := decide) only [Hw.accInfo, Hw.s1, hother, hcount]
  rw [h.accErr_eq, Hw.g_raise_addr _ _ _ _ _ _ (by decide) hlo (by omega)]
  exact hrecord

/-! ### Places of host addresses -/

/-- The n bytes from host address a lie in the command buffer or in the bulk buffer (R235). -/
def inBuffer (a n : Nat) : Prop := 0x1000 ≤ a ∧ a + n ≤ 0x1400 ∨ 0x10000 ≤ a ∧ a + n ≤ 0x20000

theorem Hw.hostPlace_buffer (h : Hw) (a n : Nat) (hin : inBuffer a n) (hn : 0 < n) :
    h.hostPlace a = .cmdBuf ∨ h.hostPlace a = .bulk := by
  rcases hin with ⟨hlo, hhi⟩ | ⟨hlo, hhi⟩
  · left
    simp [Hw.hostPlace, show ¬ a < 0x1000 by omega, show a < 0x1400 by omega]
  · right
    simp [Hw.hostPlace, inRange, show ¬ a < 0x1000 by omega, show ¬ a < 0x1400 by omega, show ¬ a < 0x1800 by omega,
      hlo, show a ≤ 0x1FFFF by omega]

/-- A burst that starts and stays in a buffer reaches each of its words there. -/
theorem Hw.burstPlace_buffer (h : Hw) (start o n : Nat) (hin : inBuffer start n) (ho : o < n) :
    h.burstPlace start (start + o) = .cmdBuf ∨ h.burstPlace start (start + o) = .bulk := by
  have hend : start + o < hostEnd start := by
    rcases hin with ⟨hlo, hhi⟩ | ⟨hlo, hhi⟩
    · simp only [hostEnd, if_neg (show ¬ start < 0x1000 by omega), if_pos (show start < 0x1400 by omega)]
      omega
    · simp only [hostEnd, if_neg (show ¬ start < 0x1000 by omega), if_neg (show ¬ start < 0x1400 by omega),
        if_neg (show ¬ start < 0x1800 by omega), inRange, decide_eq_true hlo,
        decide_eq_true (show start ≤ 0x1FFFF by omega), Bool.and_self, if_true]
      omega
  rw [Hw.burstPlace, if_pos hend]
  refine h.hostPlace_buffer _ (n - o) ?_ (by omega)
  unfold inBuffer at hin ⊢
  omega

/-! ### Words written -/

/-- While no command runs, a word of a buffer is stored (R244). -/
theorem Hw.hostPut_buffer (h : Hw) (start a : Nat) (w : Word) (rejected : Bool)
    (hp : h.burstPlace start a = .cmdBuf ∨ h.burstPlace start a = .bulk) (hidle : h.g Reg.MBX_STATUS_busy = 0) :
    h.hostPut start a w.toNat rejected = some (h.wr32 (hostBase + a) w, rejected) := by
  rcases hp with hp | hp <;> simp [Hw.hostPut, hp, Hw.b, hidle, Hw.wr32]

/-- The words of a burst in a buffer are stored one after another. -/
theorem Hw.hostPuts_buffer (h : Hw) (start k : Nat) (ws : List Word) (hin : inBuffer start (4 * (k + ws.length)))
    (hidle : h.g Reg.MBX_STATUS_busy = 0) :
    h.hostPuts start (start + 4 * k) false (ws.map BitVec.toNat)
      = some (h.wrWords ((ws.zipIdx k).map (fun e => (hostBase + start + 4 * e.2, e.1)))) := by
  induction ws generalizing h k with
  | nil => rfl
  | cons w ws ih =>
    rw [List.length_cons] at hin
    have hput := h.hostPut_buffer start (start + 4 * k) w false
      (h.burstPlace_buffer start (4 * k) _ hin (by omega)) hidle
    have hrest := ih (h.wr32 (hostBase + start + 4 * k) w) (k + 1) (by rwa [Nat.add_right_comm k 1]) hidle
    rw [← Nat.add_assoc] at hput
    simp only [List.map_cons, Hw.hostPuts, hput, List.zipIdx_cons, Hw.wrWords_cons]
    exact hrest

/-- HOST_WRITE of whole words to a buffer. -/
theorem Hw.hostStore_buffer (h : Hw) (a : Nat) (ws : List Word) (hopen : h.boot.held = false) (halign : a % 4 = 0)
    (hin : inBuffer a (4 * ws.length)) (hidle : h.g Reg.MBX_STATUS_busy = 0) :
    h.hostStore a ws 0 = some (h.wrWords (ws.zipIdx.map (fun e => (hostBase + a + 4 * e.2, e.1)))) := by
  have hputs := h.hostPuts_buffer a 0 ws (by simpa using hin) hidle
  simp only [Nat.mul_zero, Nat.add_zero] at hputs
  simp [Hw.hostStore, Hw.hostWrite, hopen, halign, hputs]

/-- The bytes that a write burst to a buffer stores. -/
theorem exec_hostWrite_buffer (s : State) (a : BitVec 24) (ws : List Word) (hopen : s.hw.boot.held = false)
    (hq : s.hw.quiet = true) (hidle : s.hw.g Reg.MBX_STATUS_busy = 0) (halign : a.toNat % 4 = 0)
    (hin : inBuffer a.toNat (4 * ws.length)) :
    exec (.hostWrite a ws 0) s = .next { s with hw :=
      (s.hw.wrWords (ws.zipIdx.map (fun e => (hostBase + a.toNat + 4 * e.2, e.1)))).drive } := by
  have hstore := s.hw.hostStore_buffer a.toNat ws hopen halign hin hidle
  obtain ⟨m, hm⟩ := s.hw.wrWords_frame (ws.zipIdx.map (fun e => (hostBase + a.toNat + 4 * e.2, e.1)))
  rw [hm] at hstore ⊢
  exact (doneIf_some s _ _ hstore).trans (done_quiet s _ hq)

/-- Settles O13: a burst that stays in its buffer stores its words one after another and changes memory alone. -/
theorem hostWriteBuffer : Obligations.HostWriteBuffer := by
  intro s a ws hopen hq hposted hidle halign hin
  have hexec := exec_hostWrite_buffer s a ws hopen hq hidle halign hin
  obtain ⟨m, hm⟩ := s.hw.wrWords_frame (ws.zipIdx.map (fun e => (hostBase + a.toNat + 4 * e.2, e.1)))
  exact ⟨_, hexec, fun i hi j hj => s.hw.rd8_wordsAt_stored _ ws i hi j hj, s.hw.rd8_wordsAt_other _ ws,
    (congrArg Hw.regs hm :), rfl⟩

/-! ### Words read -/

theorem leNat_leBytes (n v : Nat) : leNat (leBytes n v) = v % 256 ^ n := by
  induction n generalizing v with
  | zero => simp [leBytes, leNat, Nat.mod_one]
  | succ n ih =>
    have hpow : 256 ^ (n + 1) = 2 ^ 8 * 256 ^ n := Nat.pow_succ'
    rw [leBytes, leNat, ih, BitVec.toNat_ofNat, hpow, Nat.mod_mul]
    rfl

theorem Hw.rdN_wr32 (h : Hw) (a : Nat) (w : Word) : (h.wr32 a w).rdN a 4 = w.toNat := by
  have hbytes : (h.wr32 a w).rdBytes a 4 = leBytes 4 w.toNat := by
    refine List.ext_getElem (by simp [Hw.rdBytes]) (fun i hi _ => ?_)
    have hi4 : i < 4 := by simpa [Hw.rdBytes] using hi
    simp only [Hw.rdBytes, List.getElem_map, List.getElem_range, h.rd8_wr32_stored a w i hi4, leBytes_getElem]
  rw [Hw.rdN, hbytes, leNat_leBytes]
  exact Nat.mod_eq_of_lt w.isLt

@[simp] theorem Hw.drive_rdN (h : Hw) (a n : Nat) : h.drive.rdN a n = h.rdN a n := rfl

/-- A burst of one word stores it at its host address. -/
theorem Hw.wrWords_single (h : Hw) (a : Nat) (w : Word) :
    h.wrWords ([w].zipIdx.map (fun e => (a + 4 * e.2, e.1))) = h.wr32 a w := rfl

/-- The host port drives data words and tokens. -/
def Hw.hostDrives (h : Hw) (ws tokens : List Nat) : Hw :=
  { h with mbx := { h.mbx with hostOut := ws, hostTokens := tokens } }

@[simp] theorem Hw.hostDrives_g (h : Hw) (ws tokens : List Nat) (f : RF) : (h.hostDrives ws tokens).g f = h.g f := rfl
@[simp] theorem Hw.hostDrives_mem (h : Hw) (ws tokens : List Nat) : (h.hostDrives ws tokens).mem = h.mem := rfl
@[simp] theorem Hw.hostDrives_quiet (h : Hw) (ws tokens : List Nat) : (h.hostDrives ws tokens).quiet = h.quiet := rfl

/-- A read of one word of the buffers gives the word in memory, behind the ready token (R231, R235). -/
theorem Hw.hostRead_buffer (h : Hw) (a : Nat) (halign : a % 4 = 0) (hin : inBuffer a 4) :
    h.hostRead a 1 = h.hostDrives [h.rdN (hostBase + a) 4] [0xA5] := by
  have hplace := h.hostPlace_buffer a 4 hin (by decide)
  have hburst := h.burstPlace_buffer a 0 4 hin (by decide)
  rw [Nat.add_zero] at hburst
  have hstalls : h.hostStalls a = false := by rcases hplace with hp | hp <;> simp [Hw.hostStalls, hp]
  have htokens : h.okTokens a 1 = [0xA5] := by rcases hplace with hp | hp <;> simp [Hw.okTokens, hp]
  have hword : h.hostWord (h.burstPlace a a) a = some (h.rdN (hostBase + a) 4) := by
    rcases hburst with hp | hp <;> simp [Hw.hostWord, hp]
  simp [Hw.hostDrives, Hw.hostRead, Hw.hostWords, halign, hstalls, htokens, hword]

theorem Hw.hostOpen_released (h : Hw) (f : Hw → Hw) (hopen : h.boot.held = false) : h.hostOpen f = f h := by
  simp [Hw.hostOpen, hopen]

/-- HOST_READ while the engine die is out of reset. -/
theorem exec_hostRead (s : State) (a : BitVec 24) (n : Nat) (hopen : s.hw.boot.held = false) :
    exec (.hostRead a n) s = done s (s.hw.hostRead a.toNat n) :=
  congrArg (done s) (s.hw.hostOpen_released (fun h => h.hostRead a.toNat n) hopen)

theorem exec_hostRead_buffer (s : State) (a : BitVec 24) (hopen : s.hw.boot.held = false) (hq : s.hw.quiet = true)
    (halign : a.toNat % 4 = 0) (hin : inBuffer a.toNat 4) :
    exec (.hostRead a 1) s =
      .next { s with hw := (s.hw.hostDrives [s.hw.rdN (hostBase + a.toNat) 4] [0xA5]).drive } := by
  rw [exec_hostRead s a 1 hopen, s.hw.hostRead_buffer a.toNat halign hin]
  exact done_quiet s _ ((s.hw.hostDrives_quiet _ _).trans hq)

/-- Settles O14: the read finds in memory the word that the write stored there. -/
theorem hostReadBack : Obligations.HostReadBack := by
  intro s t a w hopen hq hposted hidle halign hin hwrite
  have hin4 : inBuffer a.toNat 4 := by
    unfold inBuffer
    omega
  have hstored := exec_hostWrite_buffer s a [w] hopen hq hidle halign hin4
  obtain rfl := Host.Outcome.next.inj (hstored.symm.trans hwrite)
  have hback : (s.hw.wr32 (hostBase + a.toNat) w).drive.rdN (hostBase + a.toNat) 4 = w.toNat := by
    rw [Hw.drive_rdN, Hw.rdN_wr32]
  have hread := exec_hostRead_buffer { s with hw := (s.hw.wr32 (hostBase + a.toNat) w).drive } a hopen hq halign hin4
  rw [hback] at hread
  exact ⟨_, hread, rfl, rfl, rfl, rfl, rfl⟩

/-! ### Unmapped addresses -/

theorem Hw.hostErr_eq (h : Hw) (kind a : Nat) (write : Bool) :
    ∃ b, h.hostErr kind a write = h.accErr kind b write 4 0x3E := ⟨_, rfl⟩

/-- An error of the host port leaves memory and the mailbox unit. -/
theorem Hw.hostErr_keeps (h : Hw) (kind a : Nat) (write : Bool) :
    (h.hostErr kind a write).mem = h.mem ∧ (h.hostErr kind a write).mbx = h.mbx := by
  obtain ⟨b, herr⟩ := h.hostErr_eq kind a write
  obtain ⟨r, x, n, hframe⟩ := h.accErr_frame kind b write 4 0x3E
  rw [herr, hframe]
  exact ⟨rfl, rfl⟩

theorem Hw.g_hostErr_bit (h : Hw) (kind a : Nat) (write : Bool) : (h.hostErr kind a write).g (accErrBit kind) = 1 := by
  obtain ⟨b, herr⟩ := h.hostErr_eq kind a write
  rw [herr, h.g_accErr_bit]

section
variable (h : Hw) (a : Nat) (halign : a % 4 = 0) (hp : h.hostPlace a = .unmapped)
include halign hp

/-- A read of an unmapped word gives zero behind the ready token (R234). -/
theorem Hw.hostRead_unmapped :
    h.hostRead a 1 = (h.hostErr kDecode a false).hostDrives [0] [0xA5] := by
  simp [Hw.hostDrives, Hw.hostRead, Hw.hostWords, Hw.hostStalls, Hw.okTokens, Hw.burstPlace, Hw.hostWord, halign, hp]

/-- A write of an unmapped word is discarded (R234). -/
theorem Hw.hostStore_unmapped (w : Word) (hopen : h.boot.held = false) :
    h.hostStore a [w] 0 = some (h.hostErr kDecode a true) := by
  simp [Hw.hostStore, Hw.hostWrite, Hw.hostPuts, Hw.hostPut, Hw.burstPlace, hopen, halign, hp]

end

/-- Settles O15: both transfers do nothing but record the error, and the read drives zero behind its token. -/
theorem hostUnmapped : Obligations.HostUnmapped := by
  intro s a w hopen hposted halign hp
  have hread := s.hw.hostRead_unmapped a.toNat halign hp
  have hstore := s.hw.hostStore_unmapped a.toNat halign hp w hopen
  obtain ⟨hreadMem, -⟩ := s.hw.hostErr_keeps kDecode a.toNat false
  obtain ⟨hstoreMem, hstoreMbx⟩ := s.hw.hostErr_keeps kDecode a.toNat true
  have hreadBit := s.hw.g_hostErr_bit kDecode a.toNat false
  have hstoreBit := s.hw.g_hostErr_bit kDecode a.toNat true
  exact ⟨⟨_, (exec_hostRead s a 1 hopen).trans (congrArg (done s) hread), rfl, rfl,
      (Hw.hostDrives_g _ _ _ _).trans hreadBit, (Hw.hostDrives_mem _ _ _).trans hreadMem⟩,
    ⟨_, doneIf_some s _ _ hstore, hstoreMbx, hstoreBit, hstoreMem⟩⟩

end Sys2Proof.Machine
end

section
/-! Writes of 1, 2, 4 and 8 bytes that reach memory (R264, R274). -/

namespace Sys2Proof.Machine

/-- The bytes that a write of a size carries (R264). -/
def sizeBytes : Size → Nat
  | .b8 => 1
  | .b16 => 2
  | .b32 => 4
  | .b64 => 8

/-- An aligned write of any size to memory stores the low bytes of its value. -/
theorem Hw.masterWrite_mem (h : Hw) (m : Nat) (size : Size) (a v b : Nat) (ha : a % sizeBytes size = 0)
    (hp : h.place m false a = .mem b) :
    h.masterWrite m size a v = some (h.wrN b (sizeBytes size) (v % 256 ^ sizeBytes size)) := by
  cases size <;> simp only [sizeBytes] at ha <;> simp [Hw.masterWrite, sizeBytes, ha, hp]

/-- The low n bytes of a value do not depend on what stands above them. -/
theorem leBytes_mod (n v : Nat) : leBytes n (v % 256 ^ n) = leBytes n v := by
  induction n generalizing v with
  | zero => rfl
  | succ n ih =>
    have hhigh : v % 256 ^ (n + 1) / 256 = v / 256 % 256 ^ n := by
      rw [Nat.pow_succ', Nat.mod_mul_right_div_self]
    have hbyte : BitVec.ofNat 8 (v % 256 ^ (n + 1)) = BitVec.ofNat 8 v := BitVec.eq_of_toNat_eq (by simp)
    rw [leBytes, leBytes, hhigh, ih, hbyte]

theorem Hw.rd8_wrN_stored (h : Hw) (a n v i : Nat) (hi : i < n) :
    (h.wrN a n v).rd8 (a + i) = BitVec.ofNat 8 (v / 256 ^ i) := by
  have hlen : i < (leBytes n v).length := by rwa [leBytes_length]
  exact (h.rd8_wrBytes_stored a _ i hlen).trans (leBytes_getElem n v i hlen)

theorem Hw.rd8_wrN_other (h : Hw) (a n v x : Nat) (hx : x < a ∨ a + n ≤ x) : (h.wrN a n v).rd8 x = h.rd8 x :=
  h.rd8_wrBytes_other a _ x (by rwa [leBytes_length])

/-- REGISTER_WRITE to memory on quiet hardware. -/
theorem exec_registerWrite_mem (s : State) (m : Master) (size : Size) (a : Word) (v : BitVec 64) (b : Nat)
    (ha : a.toNat % sizeBytes size = 0) (hp : s.hw.place m.toNat false a.toNat = .mem b) (hq : s.hw.quiet = true) :
    exec (.registerWrite m size a v) s = .next { s with hw := (s.hw.wrN b (sizeBytes size) v.toNat).drive } := by
  have hwrite := s.hw.masterWrite_mem m.toNat size a.toNat v.toNat b ha hp
  rw [Hw.wrN, leBytes_mod] at hwrite
  exact (doneIf_some s _ _ hwrite).trans (done_quiet s _ hq)

/-- Settles O12: the write stores the bytes of its value at the place in memory, and on quiet hardware the pins alone
follow. -/
theorem memoryWrite : Obligations.MemoryWrite := by
  intro s m size a v n b hsize ha hp hq hposted
  obtain rfl : n = sizeBytes size := by
    rcases hsize with ⟨rfl, rfl⟩ | ⟨rfl, rfl⟩ | ⟨rfl, rfl⟩ | ⟨rfl, rfl⟩ <;> rfl
  exact ⟨_, exec_registerWrite_mem s m size a v b ha hp hq, s.hw.rd8_wrN_stored b _ v.toNat,
    s.hw.rd8_wrN_other b _ v.toNat, rfl, rfl, s.hw.wf_wrN b _ v.toNat⟩

end Sys2Proof.Machine
end

section
/-! A write of PINMUX_BALL for a ball that is not multiplexed (R273, R282, R529). -/

namespace Sys2Proof.Machine

/-- An access error writes the registers of R280 and of the fault unit alone. -/
theorem Hw.g_accErr_addr (h : Hw) (kind addr : Nat) (write : Bool) (size master : Nat) (f : RF) (hlo : f.lo < 32)
    (hacc : f.addr < 0x40000010 ∨ 0x40000020 ≤ f.addr) (hflt : f.addr < 0x400D0000 ∨ 0x400E0000 ≤ f.addr) :
    (h.accErr kind addr write size master).g f = h.g f := by
  have hother : ∀ (g : Hw) (e : RF) (v : Nat), e.lo < 32 → 0x40000010 ≤ e.addr → e.addr < 0x40000020 →
      (g.p e v).g f = g.g f :=
    fun g e v helo hmin hmax => g.g_p_addr e f v helo hlo (by omega)
  obtain ⟨hbit, hbitLo, -⟩ := accErrBit_field kind
  have hcount : (h.accCount kind).g f = h.g f :=
    (hother _ Reg.SYS_ACC_ERR_CNT_count _ (by decide) (by decide) (by decide)).trans
      (hother h (accErrBit kind) 1 hbitLo (by omega) (by omega))
  have hrecord : (h.accRecord kind addr write size master).g f = h.g f := by
    unfold Hw.accRecord
    split
    · exact hcount
    · simp (disch := decide) only [Hw.accInfo, Hw.s1, hother, hcount]
  rw [h.accErr_eq, Hw.g_raise_addr _ _ _ _ _ _ (by decide) hlo hflt]
  exact hrecord

theorem multiplexed_iff (b : Nat) : multiplexed b = true ↔ 184 ≤ b ∧ b ≤ 347 := by
  simp [multiplexed, inRange]

/-- A write of the register of a ball that is not multiplexed does nothing but record a value error. -/
theorem Hw.pinmuxWrite_fixed (h : Hw) (b w master : Nat) (hb : b < 1444) (hfixed : ¬(184 ≤ b ∧ b ≤ 347)) :
    h.pinmuxWrite (0x400C0000 + 4 * b) w master = h.valueErr (0x400C0000 + 4 * b) master := by
  have hball : (0x400C0000 + 4 * b - 0x400C0000) / 4 = b := by omega
  have hmux : multiplexed b = false := Bool.eq_false_iff.2 (mt (multiplexed_iff b).1 hfixed)
  rw [Hw.pinmuxWrite, if_pos (by omega), hball]
  simp [Hw.pinWrite, hmux]

/-- Settles O17: the owner field lies neither in the registers of access errors nor in those of the fault unit. -/
theorem pinmuxFixedBall : Obligations.PinmuxFixedBall := by
  intro s ball v hfixed
  have heff := s.hw.pinmuxWrite_fixed ball.val v.toNat 0x0A ball.isLt hfixed
  have hkeep : ∀ f : RF, f.lo < 32 → f.addr = 0x400C0000 + ball.val * 4 →
      (s.hw.valueErr (0x400C0000 + 4 * ball.val) 0x0A).g f = s.hw.g f :=
    fun f hlo haddr => s.hw.g_accErr_addr _ _ _ _ _ f hlo (by omega) (by omega)
  obtain ⟨r, x, n, hframe⟩ := s.hw.accErr_frame kValue (0x400C0000 + 4 * ball.val) true 2 0x0A
  exact ⟨_, congrArg (done s) heff, s.hw.g_accErr_bit kValue _ true 2 0x0A,
    hkeep _ (by decide : 0 < 32) rfl, hkeep _ (by decide : 8 < 32) rfl, (congrArg Hw.mem hframe :)⟩

end Sys2Proof.Machine
end

section
/-! Doorbells and triggers of a DMA channel that runs in mode 1 (R311, R313). -/

namespace Sys2Proof.Machine

theorem Hw.g_with_xbar (h : Hw) (x : Xbar) (f : RF) : ({ h with xbar := x } : Hw).g f = h.g f := rfl

/-- An event of a running channel in mode 1 is held, and dropped where one is held already. -/
theorem Hw.dmaEvent_running (h : Hw) (c : Nat) (hmode : h.g (Reg.DMA_CH_CFG_mode c) = 1)
    (hrun : h.g (Reg.DMA_CH_STAT_state c) = 1 ∨ h.g (Reg.DMA_CH_STAT_state c) = 2) :
    h.dmaEvent c =
      h.s1 (if h.g (Reg.DMA_CH_STAT_pend c) = 0 then Reg.DMA_CH_STAT_pend c else Reg.DMA_CH_STAT_trig_lost c) := by
  rcases hrun with hstate | hstate <;> by_cases hpend : h.g (Reg.DMA_CH_STAT_pend c) = 0 <;>
    simp [Hw.dmaEvent, Hw.dmaState, Hw.b, hstate, hmode, hpend]

section
variable (h : Hw) (c : Nat) (trig : Bool) (hen : h.g (Reg.DMA_CH_CFG_en c) ≠ 0)
include hen

/-- The second of a doorbell and a trigger at one T64 changes no register. -/
theorem Hw.dmaArrive_merged (hat : h.xbar.dmaAt.find? c = some (h.t64, !trig)) :
    ∃ x, h.dmaArrive c trig = { h with xbar := x } :=
  ⟨_, by simp only [Hw.dmaArrive, (h.b_iff _).2 hen, hat]; rfl⟩

/-- Any other doorbell or trigger of an enabled channel is an event of its own. -/
theorem Hw.dmaArrive_alone (hat : h.xbar.dmaAt.find? c ≠ some (h.t64, !trig)) :
    ∃ x, h.dmaArrive c trig = ({ h with xbar := x } : Hw).dmaEvent c :=
  ⟨_, by simp only [Hw.dmaArrive, (h.b_iff _).2 hen, hat]; rfl⟩

theorem Hw.dmaArrive_running (hat : h.xbar.dmaAt.find? c ≠ some (h.t64, !trig))
    (hmode : h.g (Reg.DMA_CH_CFG_mode c) = 1)
    (hrun : h.g (Reg.DMA_CH_STAT_state c) = 1 ∨ h.g (Reg.DMA_CH_STAT_state c) = 2) :
    ∃ x, h.dmaArrive c trig = ({ h with xbar := x } : Hw).s1
      (if h.g (Reg.DMA_CH_STAT_pend c) = 0 then Reg.DMA_CH_STAT_pend c else Reg.DMA_CH_STAT_trig_lost c) := by
  obtain ⟨x, harrive⟩ := h.dmaArrive_alone c trig hen hat
  exact ⟨x, harrive.trans (Hw.dmaEvent_running _ c hmode hrun)⟩

end

/-- Where the arrival of a doorbell changes registers and the crossbar's notes alone, the command does so too, and the
fields of DMA_CH_STAT stand as the arrival leaves them. -/
theorem exec_dmaDoorbell (s : State) (c : Fin 16) (hq : s.hw.quiet = true) {r : Tab Nat} {x : Xbar}
    (harrive : s.hw.dmaArrive c.val false = { s.hw with regs := r, xbar := x }) :
    ∃ t, exec (.dmaDoorbell c) s = .next t ∧
      (∀ f : RF, f.lo < 32 → f.addr = 0x4002010C + c.val * 0x20 → t.hw.g f = (s.hw.dmaArrive c.val false).g f) ∧
      t.hw.dma = s.hw.dma ∧ t.hw.mem = s.hw.mem := by
  have hquiet : (s.hw.dmaDoorbell c.val).quiet = true := by
    rw [Hw.dmaDoorbell, harrive]
    exact hq
  refine ⟨_, done_quiet s _ hquiet, fun f hlo haddr => ?_, ?_, ?_⟩
  · exact Hw.g_p_addr _ _ f 0 (by decide : 0 < 32) hlo (by simp [haddr, Reg.DMA_CH_DOORBELL_ring])
  all_goals
    rw [Hw.dmaDoorbell, harrive]
    rfl

/-- Settles O36: a doorbell that merges with a trigger changes no field; any other sets pend where it was clear, and
trig_lost where it was set. -/
theorem dmaDoorbellHeld : Obligations.DmaDoorbellHeld := by
  intro s c hq hen hmode hrun
  have pend_ne_lost : RFkey (Reg.DMA_CH_STAT_pend c.val) ≠ RFkey (Reg.DMA_CH_STAT_trig_lost c.val) := by
    simp [RFkey, Reg.DMA_CH_STAT_pend, Reg.DMA_CH_STAT_trig_lost]
  have state_ne_pend : RFkey (Reg.DMA_CH_STAT_state c.val) ≠ RFkey (Reg.DMA_CH_STAT_pend c.val) := by
    simp [RFkey, Reg.DMA_CH_STAT_pend, Reg.DMA_CH_STAT_state]
  have state_ne_lost : RFkey (Reg.DMA_CH_STAT_state c.val) ≠ RFkey (Reg.DMA_CH_STAT_trig_lost c.val) := by
    simp [RFkey, Reg.DMA_CH_STAT_state, Reg.DMA_CH_STAT_trig_lost]
  by_cases hat : s.hw.xbar.dmaAt.find? c.val = some (s.hw.t64, true)
  · obtain ⟨x, harrive⟩ := s.hw.dmaArrive_merged c.val false hen hat
    obtain ⟨t, hexec, hstat, hdma, hmem⟩ := exec_dmaDoorbell s c hq harrive
    have hkeep : ∀ f : RF, f.lo < 32 → f.addr = 0x4002010C + c.val * 0x20 → t.hw.g f = s.hw.g f :=
      fun f hlo haddr => (hstat f hlo haddr).trans (congrArg (·.g f) harrive)
    have hlost := hkeep (Reg.DMA_CH_STAT_trig_lost c.val) (by decide : 9 < 32) rfl
    exact ⟨t, hexec, absurd hat, fun _ => ⟨hkeep _ (by decide : 8 < 32) rfl, hlost⟩, fun _ => hlost,
      fun _ hne => absurd hat hne, hkeep _ (by decide : 0 < 32) rfl, hdma, hmem⟩
  · obtain ⟨x, harrive⟩ := s.hw.dmaArrive_running c.val false hen hat hmode hrun
    obtain ⟨t, hexec, hstat, hdma, hmem⟩ := exec_dmaDoorbell s c hq harrive
    have hpendStat := hstat (Reg.DMA_CH_STAT_pend c.val) (by decide : 8 < 32) rfl
    have hlostStat := hstat (Reg.DMA_CH_STAT_trig_lost c.val) (by decide : 9 < 32) rfl
    have hstateStat := hstat (Reg.DMA_CH_STAT_state c.val) (by decide : 0 < 32) rfl
    rw [harrive] at hpendStat hlostStat hstateStat
    refine ⟨t, hexec, fun _ => ?_, fun h => absurd h hat, fun hpend => ?_, fun hpend _ => ?_, ?_, hdma, hmem⟩
    · rw [hpendStat]
      split
      case isTrue => rw [Hw.g_s1_same _ _ (by decide : 0 < 1)]; decide
      case isFalse hpend => rwa [Hw.g_s1_ne _ _ _ pend_ne_lost]
    · rw [hlostStat, if_pos hpend, Hw.g_s1_ne _ _ _ pend_ne_lost.symm, Hw.g_with_xbar]
    · rw [hlostStat, if_neg (by omega), Hw.g_s1_same _ _ (by decide : 0 < 1)]
    · rw [hstateStat]
      split
      case isTrue => rw [Hw.g_s1_ne _ _ _ state_ne_pend, Hw.g_with_xbar]
      case isFalse => rw [Hw.g_s1_ne _ _ _ state_ne_lost, Hw.g_with_xbar]

end Sys2Proof.Machine
end

section
/-! The clock: a cycle with no command waiting (R338). -/

namespace Sys2Proof.Machine

/-- T64 with its fraction, in units of 2^−48 ns. -/
def Hw.clock (h : Hw) : Nat := h.t64 * 2 ^ 48 + h.sub

/-- The clock after 2 ns × (1 + rate), the rate in units of 2^−40. -/
def Hw.nextClock (h : Hw) : Int := (h.clock : Int) + (2 ^ 41 + 2 * h.time.rate) * 2 ^ 8

theorem Hw.idle_t64 (h : Hw) : h.idle.t64 = (h.nextClock / 2 ^ 48).toNat := rfl
theorem Hw.idle_sub (h : Hw) : h.idle.sub = (h.nextClock % 2 ^ 48).toNat := rfl

/-- A rate that does not turn the clock back loses nothing in the split into T64 and fraction. -/
theorem Hw.idle_clock (h : Hw) (hrate : -(2 ^ 40 : Int) ≤ h.time.rate) : (h.idle.clock : Int) = h.nextClock := by
  have hnonneg : 0 ≤ h.nextClock := by
    rw [Hw.nextClock]
    omega
  rw [Hw.clock, h.idle_t64, h.idle_sub]
  omega

theorem Hw.idle_sub_lt (h : Hw) : h.idle.sub < 2 ^ 48 := by
  rw [h.idle_sub]
  omega

theorem Hw.nextClock_eq (h : Hw) :
    h.nextClock = (h.clock : Int) + 2 * 2 ^ 48 + h.time.rate * 2 ^ 9 := by
  rw [Hw.nextClock]
  omega

/-- Settles O2: an empty queue is an idle cycle, which writes T64 and its fraction alone. -/
theorem idleStep : Obligations.IdleStep := by
  intro s hqueue hrate
  exact ⟨_, step_empty s hqueue, (s.hw.idle_clock hrate).trans s.hw.nextClock_eq, s.hw.idle_sub_lt, rfl⟩

end Sys2Proof.Machine
end

section
/-! Disabling the servo (R339, R344), and the clock state that follows it (R419). -/

namespace Sys2Proof.Machine

/-! ### Operations of the time unit -/

/-- g is h but for its registers, its time unit, its trace ring and its clock selection. -/
def Hw.TimeFrame (h g : Hw) : Prop := ∃ r t x c, g = { h with regs := r, time := t, ring := x, clk := c }

theorem Hw.TimeFrame.refl (h : Hw) : h.TimeFrame h := ⟨_, _, _, _, rfl⟩

section
variable {h g : Hw} (hg : h.TimeFrame g)
include hg

theorem Hw.TimeFrame.trans {k : Hw} (hk : g.TimeFrame k) : h.TimeFrame k := by
  obtain ⟨r, t, x, c, rfl⟩ := hg
  obtain ⟨r', t', x', c', rfl⟩ := hk
  exact ⟨_, _, _, _, rfl⟩

theorem Hw.TimeFrame.p (f : RF) (v : Nat) : h.TimeFrame (g.p f v) := hg.trans ⟨_, _, _, _, rfl⟩

theorem Hw.TimeFrame.t64 : g.t64 = h.t64 := by
  obtain ⟨r, t, x, c, rfl⟩ := hg
  rfl

theorem Hw.TimeFrame.mem : g.mem = h.mem := by
  obtain ⟨r, t, x, c, rfl⟩ := hg
  rfl

theorem Hw.TimeFrame.quiet : g.quiet = h.quiet := by
  obtain ⟨r, t, x, c, rfl⟩ := hg
  rfl

end

/-- An operation of the time unit leaves quiet hardware quiet, so its command answers it with the pins driven. -/
theorem done_timeFrame (s : State) {g : Hw} (hq : s.hw.quiet = true) (hg : s.hw.TimeFrame g) :
    done s g = .next { s with hw := g.drive } :=
  done_quiet s g (hg.quiet.trans hq)

/-! ### The state of the servo and its rate -/

/-- The servo stays in its state, or enters another: the time unit interrupts, and a record is written (R59, R238). -/
theorem Hw.setServo_cases (h : Hw) (s : Nat) :
    (h.servo = s ∧ h.setServo s = h) ∨
    ∃ t x, h.setServo s = { (h.p Reg.TIME_STAT_state s).s1 Reg.HOST_IRQ_STAT_time with time := t, ring := x } := by
  by_cases hs : h.servo = s
  · exact .inl ⟨hs, if_pos hs⟩
  · obtain ⟨x, hrecord⟩ := ((({ h.lockHistory with time := { h.lockHistory.time with inCnt := 0, outCnt := 0 } } :
      Hw).p Reg.TIME_STAT_state s).s1 Reg.HOST_IRQ_STAT_time).servoRecord_frame
    exact .inr ⟨_, x, (if_neg hs).trans hrecord⟩

theorem Hw.TimeFrame.setServo {h g : Hw} (hg : h.TimeFrame g) (s : Nat) : h.TimeFrame (g.setServo s) := by
  rcases g.setServo_cases s with ⟨-, heq⟩ | ⟨t, x, heq⟩
  · rwa [heq]
  · rw [heq]
    exact hg.trans ⟨_, _, _, _, rfl⟩

theorem Hw.g_setServo_state (h : Hw) (s : Nat) (hs : s < 4) : (h.setServo s).g Reg.TIME_STAT_state = s := by
  rcases h.setServo_cases s with ⟨hsame, heq⟩ | ⟨t, x, heq⟩
  · rw [heq]
    exact hsame
  · rw [heq]
    calc ((h.p Reg.TIME_STAT_state s).s1 Reg.HOST_IRQ_STAT_time).g Reg.TIME_STAT_state
        = (h.p Reg.TIME_STAT_state s).g Reg.TIME_STAT_state := Hw.g_s1_ne _ _ _ (by decide)
      _ = s % 2 ^ 2 := Hw.g_p_same _ _ _
      _ = s := Nat.mod_eq_of_lt hs

theorem Hw.g_setServo_addr (h : Hw) (s : Nat) (f : RF) (hlo : f.lo < 32) (hstat : f.addr ≠ 0x40030004)
    (hirq : f.addr ≠ 0x400F0020) : (h.setServo s).g f = h.g f := by
  rcases h.setServo_cases s with ⟨-, heq⟩ | ⟨t, x, heq⟩
  · rw [heq]
  · rw [heq]
    exact (Hw.g_p_addr _ Reg.HOST_IRQ_STAT_time f 1 (by decide) hlo hirq).trans
      (h.g_p_addr Reg.TIME_STAT_state f s (by decide) hlo hstat)

theorem Hw.TimeFrame.setRate {h g : Hw} (hg : h.TimeFrame g) (r : Int) : h.TimeFrame (g.setRate r) :=
  hg.trans ⟨_, _, _, _, rfl⟩

@[simp] theorem Hw.setRate_time_rate (h : Hw) (r : Int) : (h.setRate r).time.rate = r := rfl

theorem Hw.g_setRate_rate (h : Hw) (r : Int) : (h.setRate r).g Reg.TIME_RATE_rate = lowBits 32 r % 2 ^ 32 :=
  Hw.g_p_same _ _ _

theorem Hw.g_setRate_ne (h : Hw) (r : Int) (f : RF) (hk : RFkey f ≠ RFkey Reg.TIME_RATE_rate) :
    (h.setRate r).g f = h.g f := Hw.g_p_ne _ _ _ _ hk

/-! ### The clock state -/

/-- g is h but for its registers and its clock selection, and of the registers at most the interrupts of the host and
CLK_STAT differ. -/
def Hw.ClkFrame (h g : Hw) : Prop :=
  (∃ r c, g = { h with regs := r, clk := c }) ∧
  ∀ f : RF, f.lo < 32 → f.addr ≠ 0x400F0020 → f.addr ≠ 0x40100004 → g.g f = h.g f

theorem Hw.ClkFrame.trans {h g k : Hw} (hg : h.ClkFrame g) (hk : g.ClkFrame k) : h.ClkFrame k := by
  obtain ⟨⟨r, c, hgeq⟩, hgkeep⟩ := hg
  obtain ⟨⟨r', c', hkeq⟩, hkkeep⟩ := hk
  refine ⟨⟨r', c', ?_⟩, fun f hlo hirq hstat => (hkkeep f hlo hirq hstat).trans (hgkeep f hlo hirq hstat)⟩
  rw [hkeq, hgeq]

theorem Hw.ClkFrame.p (h : Hw) (f : RF) (v : Nat) (hlo : f.lo < 32) (ha : f.addr = 0x400F0020 ∨ f.addr = 0x40100004) :
    h.ClkFrame (h.p f v) :=
  ⟨⟨_, _, rfl⟩, fun f' hlo' _ _ => h.g_p_addr f f' v hlo hlo' (by omega)⟩

theorem Hw.ClkFrame.clk (h : Hw) (c : ClkSt) : h.ClkFrame { h with clk := c } := ⟨⟨_, _, rfl⟩, fun _ _ _ _ => rfl⟩

theorem Hw.ClkFrame.timeFrame {h g : Hw} (hg : h.ClkFrame g) : h.TimeFrame g := by
  obtain ⟨⟨r, c, rfl⟩, -⟩ := hg
  exact ⟨_, _, _, _, rfl⟩

theorem Hw.ClkFrame.time {h g : Hw} (hg : h.ClkFrame g) : g.time = h.time := by
  obtain ⟨⟨r, c, rfl⟩, -⟩ := hg
  rfl

theorem Hw.ClkFrame.g {h g : Hw} (hg : h.ClkFrame g) (f : RF) (hlo : f.lo < 32) (ha : f.addr < 0x400F0000) :
    g.g f = h.g f := by
  obtain ⟨-, hkeep⟩ := hg
  exact hkeep f hlo (by omega) (by omega)

/-- Setting the clock state interrupts where it changes, and shows the state and the quality that follows from it. -/
theorem Hw.setClk_frame (h : Hw) (s : Nat) : h.ClkFrame (h.setClk s) := by
  have hirq : h.ClkFrame (if h.clkState = s then h else h.s1 Reg.HOST_IRQ_STAT_ref) := by
    split
    · exact Hw.ClkFrame.clk h h.clk
    · exact Hw.ClkFrame.p h _ 1 (by decide) (by decide)
  exact ((hirq.trans (Hw.ClkFrame.clk _ _)).trans
    (Hw.ClkFrame.p _ Reg.CLK_STAT_state s (by decide) (by decide))).trans
    (Hw.ClkFrame.p _ Reg.CLK_STAT_quality _ (by decide) (by decide))

/-- That the servo has locked is noted once. -/
def Hw.lockSeen (h : Hw) : Hw := if h.servo = svLocked then { h with clk := { h.clk with everLocked := true } } else h

theorem Hw.lockSeen_frame (h : Hw) : h.ClkFrame h.lockSeen := by
  unfold Hw.lockSeen
  split
  · exact Hw.ClkFrame.clk h _
  · exact Hw.ClkFrame.clk h h.clk

theorem Hw.clkSync_eq (h : Hw) :
    h.clkSync = if h.lockSeen.clkState = ckAcquiring && h.lockSeen.servo = svLocked then h.lockSeen.setClk ckLocked
      else if h.lockSeen.clkState = ckLocked && h.lockSeen.servo != svLocked then h.lockSeen.setClk ckAcquiring
      else h.lockSeen := rfl

/-- The clock state follows the servo between locked and acquiring, or stays (R419). -/
theorem Hw.clkSync_frame (h : Hw) : h.ClkFrame h.clkSync := by
  rw [h.clkSync_eq]
  split
  · exact h.lockSeen_frame.trans (h.lockSeen.setClk_frame _)
  · split
    · exact h.lockSeen_frame.trans (h.lockSeen.setClk_frame _)
    · exact h.lockSeen_frame

/-! ### SERVO_ENABLE -/

/-- Disabling the servo: FREE at rate 0 (R339). -/
theorem Hw.servoEnable_false (h : Hw) :
    h.servoEnable false = ((h.p Reg.TIME_CTRL_servo_en 0).setServo svFree).setRate 0 := rfl

theorem Hw.servoEnable_false_frame (h : Hw) : h.TimeFrame (h.servoEnable false) :=
  (((Hw.TimeFrame.refl h).p Reg.TIME_CTRL_servo_en 0).setServo svFree).setRate 0

theorem Hw.servoEnable_false_rate (h : Hw) : (h.servoEnable false).time.rate = 0 := by
  rw [h.servoEnable_false, Hw.setRate_time_rate]

/-- The fields of the servo after it is disabled. -/
theorem Hw.g_servoEnable_false (h : Hw) :
    (h.servoEnable false).g Reg.TIME_CTRL_servo_en = 0 ∧ (h.servoEnable false).g Reg.TIME_STAT_state = 0 ∧
    (h.servoEnable false).g Reg.TIME_RATE_rate = 0 := by
  rw [h.servoEnable_false]
  refine ⟨?_, ?_, Hw.g_setRate_rate _ 0⟩
  · rw [Hw.g_setRate_ne _ _ _ (by decide), Hw.g_setServo_addr _ _ _ (by decide) (by decide) (by decide)]
    exact h.g_s0_same _
  · rw [Hw.g_setRate_ne _ _ _ (by decide)]
    exact Hw.g_setServo_state _ svFree (by decide)

/-- Settles O37: the clock state that follows writes no field of the time unit. -/
theorem servoDisabled : Obligations.ServoDisabled := by
  intro s hq
  have hsync := (s.hw.servoEnable false).clkSync_frame
  have hframe : s.hw.TimeFrame (s.hw.servoEnable false).clkSync := s.hw.servoEnable_false_frame.trans hsync.timeFrame
  have hkeep : ∀ f : RF, f.lo < 32 → f.addr < 0x40040000 →
      (s.hw.servoEnable false).clkSync.g f = (s.hw.servoEnable false).g f :=
    fun f hlo ha => hsync.g f hlo (by omega)
  obtain ⟨hen, hstate, hrate⟩ := s.hw.g_servoEnable_false
  have hrateNow := (congrArg TimeSt.rate hsync.time).trans s.hw.servoEnable_false_rate
  refine ⟨_, done_timeFrame s hq hframe, ?_⟩
  simp only [Hw.drive_g, Hw.drive_time, Hw.drive_t64, Hw.drive_mem]
  exact ⟨(hkeep _ (by decide) (by decide)).trans hen, (hkeep _ (by decide) (by decide)).trans hstate, hrateNow,
    (hkeep _ (by decide) (by decide)).trans hrate, hframe.t64, hframe.mem⟩

end Sys2Proof.Machine
end

section
/-! Event timers are armed (R342, R344). -/

namespace Sys2Proof.Machine

/-- The fields that a write of TIME_TMR_CTRL sets. -/
def Hw.tmrCtrl (h : Hw) (i w : Nat) : Hw :=
  (((h.p (Reg.TIME_TMR_CTRL_mode i) w).p (Reg.TIME_TMR_CTRL_irq i) (w / 4)).p
    (Reg.TIME_TMR_CTRL_pin i) (w / 8)).p (Reg.TIME_TMR_CTRL_width i) (w / 16)

/-- The status of timer i once its mode is written: armed, and late where mode 1 names an instant that has passed. -/
def Hw.tmrStatus (h : Hw) (i mode : Nat) : Hw :=
  let g := h.p (Reg.TIME_TMR_STAT_armed i) (b2n (mode != 0))
  if mode = 1 && g.tmrStart i ≤ g.t64 then g.s1 (Reg.TIME_TMR_STAT_late i) else g

theorem Hw.tmrStatus_cases (h : Hw) (i mode : Nat) :
    h.tmrStatus i mode = (h.p (Reg.TIME_TMR_STAT_armed i) (b2n (mode != 0))).s1 (Reg.TIME_TMR_STAT_late i) ∨
    h.tmrStatus i mode = h.p (Reg.TIME_TMR_STAT_armed i) (b2n (mode != 0)) :=
  ite_eq_or_eq _ _ _

theorem Hw.TimeFrame.tmrStatus {h g : Hw} (hg : h.TimeFrame g) (i mode : Nat) : h.TimeFrame (g.tmrStatus i mode) := by
  rcases g.tmrStatus_cases i mode with heq | heq
  all_goals
    rw [heq]
    exact hg.trans ⟨_, _, _, _, rfl⟩

theorem Hw.g_tmrStatus_armed (h : Hw) (i mode : Nat) :
    (h.tmrStatus i mode).g (Reg.TIME_TMR_STAT_armed i) = b2n (mode != 0) := by
  have hset : (h.p (Reg.TIME_TMR_STAT_armed i) (b2n (mode != 0))).g (Reg.TIME_TMR_STAT_armed i) = b2n (mode != 0) := by
    rw [Hw.g_p_same]
    cases mode != 0 <;> rfl
  have armed_ne_late : RFkey (Reg.TIME_TMR_STAT_armed i) ≠ RFkey (Reg.TIME_TMR_STAT_late i) := by
    simp [RFkey, Reg.TIME_TMR_STAT_armed, Reg.TIME_TMR_STAT_late]
  rcases h.tmrStatus_cases i mode with heq | heq
  · rw [heq, Hw.g_s1_ne _ _ _ armed_ne_late, hset]
  · rw [heq, hset]

theorem Hw.g_tmrStatus_addr (h : Hw) (i mode : Nat) (f : RF) (hlo : f.lo < 32) (ha : f.addr ≠ 0x40030110 + i * 0x20) :
    (h.tmrStatus i mode).g f = h.g f := by
  have harmed := h.g_p_addr (Reg.TIME_TMR_STAT_armed i) f (b2n (mode != 0)) (by decide : 0 < 32) hlo ha
  rcases h.tmrStatus_cases i mode with heq | heq
  · rw [heq]
    exact (Hw.g_p_addr _ (Reg.TIME_TMR_STAT_late i) f 1 (by decide : 1 < 32) hlo ha).trans harmed
  · rw [heq, harmed]

/-- The mode is the low field of the control word, and the fields above it leave it. -/
theorem Hw.g_tmrCtrl_mode (h : Hw) (i w : Nat) : (h.tmrCtrl i w).g (Reg.TIME_TMR_CTRL_mode i) = w % 4 := by
  simp (disch := simp only [RFkey, Reg.TIME_TMR_CTRL_mode, Reg.TIME_TMR_CTRL_irq, Reg.TIME_TMR_CTRL_pin,
    Reg.TIME_TMR_CTRL_width]; omega) only [Hw.tmrCtrl, Hw.g_p_ne, Hw.g_p_same]
  rfl

/-- What a write of TIME_TMR_CTRL leaves in the registers of timer i. -/
def Hw.tmrWritten (h : Hw) (i w : Nat) : Hw := (h.tmrCtrl i w).tmrStatus i (w % 4)

theorem Hw.tmrWritten_frame (h : Hw) (i w : Nat) : h.TimeFrame (h.tmrWritten i w) :=
  Hw.TimeFrame.tmrStatus ⟨_, _, _, _, rfl⟩ i (w % 4)

theorem Hw.g_tmrWritten_mode (h : Hw) (i w : Nat) : (h.tmrWritten i w).g (Reg.TIME_TMR_CTRL_mode i) = w % 4 :=
  (Hw.g_tmrStatus_addr _ i _ _ (by decide : 0 < 32) (by simp [Reg.TIME_TMR_CTRL_mode])).trans (h.g_tmrCtrl_mode i w)

theorem Hw.g_tmrWritten_armed (h : Hw) (i w : Nat) :
    (h.tmrWritten i w).g (Reg.TIME_TMR_STAT_armed i) = 1 ↔ w % 4 ≠ 0 := by
  rw [Hw.tmrWritten, Hw.g_tmrStatus_armed]
  by_cases hmode : w % 4 = 0 <;> simp [hmode, b2n]

/-- A function whose enable is written as it stands keeps its ball. -/
theorem Hw.fnSet_same (h : Hw) (f u : Nat) (on : Bool) : h.fnSet f u on on = h := if_pos rfl

/-- A write that leaves the pin field sets control and status, and plans the next firing. -/
theorem Hw.timerArm_pin_kept (h : Hw) (i w : Nat) (hi : i ≠ 0) (hpin : h.b (Reg.TIME_TMR_CTRL_pin i) = bitOf w 3) :
    ∃ t, h.timerArm i w = { h.tmrWritten i w with time := t } := by
  refine ⟨(h.timerArm i w).time, ?_⟩
  simp only [Hw.timerArm, if_neg hi, hpin, Hw.fnSet_same]
  rfl

/-- A field of one bit stands at the bit of the word where it equals it as a number. -/
theorem Hw.b_of_bitsOf (h : Hw) (f : RF) (w i : Nat) (hf : h.g f = bitsOf w i 1) : h.b f = bitOf w i := by
  rcases Nat.mod_two_eq_zero_or_one (w / 2 ^ i) with hbit | hbit <;> simp [Hw.b, hf, bitsOf, bitOf, hbit]

/-- Settles O38: timer 0 is passed over; for any other the mode and the armed bit stand as the word gives them. -/
theorem timerArmed : Obligations.TimerArmed := by
  intro s v hq
  refine ⟨done_quiet s _ hq, fun i hi hpin => ?_⟩
  have hi0 : i.val ≠ 0 := fun h => hi (Fin.ext h)
  obtain ⟨t, heff⟩ := s.hw.timerArm_pin_kept i.val v.toNat hi0 (s.hw.b_of_bitsOf _ _ _ hpin)
  have hframe : s.hw.TimeFrame { s.hw.tmrWritten i.val v.toNat with time := t } :=
    (s.hw.tmrWritten_frame i.val v.toNat).trans ⟨_, _, _, _, rfl⟩
  exact ⟨_, (congrArg (done s) heff).trans (done_timeFrame s hq hframe), s.hw.g_tmrWritten_mode i.val v.toNat,
    s.hw.g_tmrWritten_armed i.val v.toNat, hframe.t64, hframe.mem⟩

end Sys2Proof.Machine
end

section
/-! Edges of the capture inputs (R285, R343, R344). -/

namespace Sys2Proof.Machine

/-- What is shown of the head entry and the level: registers alone. -/
theorem Hw.captShow_frame (h : Hw) (j : Nat) : ∃ r, h.captShow j = { h with regs := r } := ⟨_, rfl⟩

theorem Hw.captShow_time (h : Hw) (j : Nat) : (h.captShow j).time = h.time := rfl

theorem Hw.g_captShow_level (h : Hw) (j : Nat) :
    (h.captShow j).g (Reg.TIME_CAP_STAT_level j)
      = (h.time.capt.get [] j).length % 2 ^ (Reg.TIME_CAP_STAT_level j).w := Hw.g_p_same _ _ _

/-- The FIFO of input j with the stamp T80 at its end; irq is what then waits for the time unit's interrupt. -/
def Hw.stamped (h : Hw) (j : Nat) (rise : Bool) (irq : List Nat) : Hw :=
  { h with time := { h.time with
    capt := h.time.capt.put j (h.time.capt.get [] j ++ [(h.t80, rise)])
    irq := irq } }

theorem Hw.captureEdge_inactive (h : Hw) (j : Nat) (rise : Bool) (hinactive : h.fnActive 0x02 j = false) :
    h.captureEdge j rise = h := by
  simp [Hw.captureEdge, hinactive]

section
variable (h : Hw) (j : Nat) (rise : Bool) (hactive : h.fnActive 0x02 j = true)
  (hedge : h.g (Reg.TIME_CAP_CTRL_edge j) = 3)
include hactive hedge

/-- A full FIFO loses the edge. -/
theorem Hw.captureEdge_full (hfull : 4 ≤ (h.time.capt.get [] j).length) :
    h.captureEdge j rise = h.s1 (Reg.TIME_CAP_STAT_ovf j) := by
  simp [Hw.captureEdge, hactive, hedge, hfull]

theorem Hw.captureEdge_room (hroom : (h.time.capt.get [] j).length < 4) :
    ∃ irq, h.captureEdge j rise = (h.stamped j rise irq).captShow j := by
  refine ⟨(h.captureEdge j rise).time.irq, ?_⟩
  simp only [Hw.captureEdge, hactive, hedge, if_neg (Nat.not_le.2 hroom)]
  rfl

end

theorem Hw.stamped_captShow_frame (h : Hw) (j : Nat) (rise : Bool) (irq : List Nat) :
    h.TimeFrame ((h.stamped j rise irq).captShow j) := by
  obtain ⟨r, heq⟩ := (h.stamped j rise irq).captShow_frame j
  rw [heq]
  exact ⟨_, _, _, _, rfl⟩

theorem Hw.stamped_capt_same (h : Hw) (j : Nat) (rise : Bool) (irq : List Nat) :
    (h.stamped j rise irq).time.capt.get [] j = h.time.capt.get [] j ++ [(h.t80, rise)] := Tab.get_put_same _ _ _ _

theorem Hw.stamped_capt_ne (h : Hw) (j : Nat) (rise : Bool) (irq : List Nat) (i : Nat) (hi : i ≠ j) :
    (h.stamped j rise irq).time.capt.get [] i = h.time.capt.get [] i := Tab.get_put_ne _ _ _ _ _ hi

/-- Settles O39: the three outcomes of an edge are no active ball, a full FIFO, and a stamp at its end. -/
theorem captureFifo : Obligations.CaptureFifo := by
  intro s j rise hq hedge
  refine ⟨fun hinactive => ?_, fun hactive => ?_⟩
  · have heff := s.hw.captureEdge_inactive j.val rise hinactive
    exact (congrArg (done s) heff).trans (done_quiet s _ hq)
  · by_cases hfull : 4 ≤ (s.hw.time.capt.get [] j.val).length
    · have heff := s.hw.captureEdge_full j.val rise hactive hedge hfull
      exact ⟨_, (congrArg (done s) heff).trans (done_p s hq (Reg.TIME_CAP_STAT_ovf j.val) 1),
        fun hroom => absurd hfull (Nat.not_le.2 hroom), fun _ => ⟨rfl, s.hw.g_s1_same _ (by decide : 0 < 1)⟩,
        fun _ _ => rfl, rfl⟩
    · obtain ⟨irq, heff⟩ := s.hw.captureEdge_room j.val rise hactive hedge (Nat.not_le.1 hfull)
      have hlevel := (s.hw.stamped j.val rise irq).g_captShow_level j.val
      have hstamp := s.hw.stamped_capt_same j.val rise irq
      rw [hstamp, List.length_append, List.length_singleton] at hlevel
      have hframe := s.hw.stamped_captShow_frame j.val rise irq
      refine ⟨_, (congrArg (done s) heff).trans (done_timeFrame s hq hframe), ?_⟩
      simp only [Hw.drive_time, Hw.drive_g, Hw.drive_mem, Hw.captShow_time]
      exact ⟨fun _ => ⟨hstamp, hlevel⟩, fun h => absurd h hfull, s.hw.stamped_capt_ne j.val rise irq, hframe.mem⟩

end Sys2Proof.Machine
end

section
/-! Frames outside the VID filter (R319–R322, R345). -/

namespace Sys2Proof.Machine

/-! ### Counts and descriptors of a port -/

@[simp] theorem Hw.macCount_macSt (h : Hw) (n k m : Nat) : (h.macCount n k).macSt m = h.macSt m := rfl

theorem Hw.macSt_setMac_same (h : Hw) (n : Nat) (m : MacSt) : (h.setMac n m).macSt n = m := Tab.get_put_same _ _ _ _

/-- A receive descriptor leaves the frames sent to each destination. -/
@[simp] theorem Hw.rxDescribe_dest (h : Hw) (n : Nat) (f : Frame) :
    ((h.rxDescribe n f).macSt n).dest = (h.macSt n).dest := by
  rw [Hw.rxDescribe, Hw.macSt_setMac_same]

/-- A count of a port is no field of the port below it. -/
theorem Hw.g_p_macCount (h : Hw) (n k v : Nat) (f : RF) (hlo : f.lo < 32) (ha : f.addr < 0x40040300 + n * 0x10000) :
    (h.p (Reg.MAC_CNT_count n k) v).g f = h.g f :=
  h.g_p_addr _ f v (by decide : 0 < 32) hlo (by simp only [Reg.MAC_CNT_count]; omega)

theorem Hw.b_p_macCount (h : Hw) (n k v : Nat) (f : RF) (hlo : f.lo < 32) (ha : f.addr < 0x40040300 + n * 0x10000) :
    (h.p (Reg.MAC_CNT_count n k) v).b f = h.b f := by
  simp only [Hw.b, h.g_p_macCount n k v f hlo ha]

/-- A count leaves what the VID filter admits. -/
theorem Hw.vidOk_p_macCount (h : Hw) (n k v : Nat) (f : Frame) :
    (h.p (Reg.MAC_CNT_count n k) v).vidOk n f = h.vidOk n f := by
  unfold Hw.vidOk
  split
  · exact h.b_p_macCount n k v _ (by decide : 4 < 32) (by simp [Reg.MAC_CTRL_untag_ok])
  · refine Bool.eq_iff_iff.2 ?_
    simp only [List.any_eq_true, List.mem_range]
    refine exists_congr fun j => and_congr_right fun hj => ?_
    rw [h.b_p_macCount n k v _ (by decide : 12 < 32) (by simp only [Reg.MAC_VID_FILT_en]; omega),
      h.g_p_macCount n k v _ (by decide : 0 < 32) (by simp only [Reg.MAC_VID_FILT_vid]; omega)]

/-- A count leaves the frame limit. -/
theorem Hw.frameMax_p_macCount (h : Hw) (n k v : Nat) : (h.p (Reg.MAC_CNT_count n k) v).frameMax n = h.frameMax n := by
  rw [Hw.frameMax, h.b_p_macCount n k v _ (by decide : 3 < 32) (by simp [Reg.MAC_CTRL_jumbo]), Hw.frameMax]

/-- The codewords corrected are counted, or RS-FEC does not run. -/
theorem Hw.fecCount_cases (h : Hw) (n : Nat) (f : Frame) :
    (∃ v, h.fecCount n f = h.p (Reg.MAC_CNT_count n 5) v) ∨ h.fecCount n f = h :=
  (ite_eq_or_eq _ _ _).imp_left fun heq => ⟨_, heq⟩

theorem Hw.fecCount_frame (h : Hw) (n : Nat) (f : Frame) : ∃ r, h.fecCount n f = { h with regs := r } := by
  rcases h.fecCount_cases n f with ⟨v, heq⟩ | heq
  · exact ⟨_, heq⟩
  · exact ⟨_, heq⟩

theorem Hw.fecCount_vidOk (h : Hw) (n : Nat) (f e : Frame) : (h.fecCount n f).vidOk n e = h.vidOk n e := by
  rcases h.fecCount_cases n f with ⟨v, heq⟩ | heq
  · rw [heq, Hw.vidOk_p_macCount]
  · rw [heq]

theorem Hw.fecCount_frameMax (h : Hw) (n : Nat) (f : Frame) : (h.fecCount n f).frameMax n = h.frameMax n := by
  rcases h.fecCount_cases n f with ⟨v, heq⟩ | heq
  · rw [heq, Hw.frameMax_p_macCount]
  · rw [heq]

/-! ### NET_FRAME_RECEIVE -/

/-- A frame that the MAC has accepted: it is counted and described. -/
def Hw.frameTaken (h : Hw) (n : Nat) (f : Frame) : Hw := ((h.fecCount n f).macCount n 1).rxDescribe n f

theorem Hw.frameTaken_vidOk (h : Hw) (n : Nat) (f : Frame) : (h.frameTaken n f).vidOk n f = h.vidOk n f :=
  ((h.fecCount n f).vidOk_p_macCount n 1 _ f).trans (h.fecCount_vidOk n f f)

theorem Hw.frameTaken_dest (h : Hw) (n : Nat) (f : Frame) : ((h.frameTaken n f).macSt n).dest = (h.macSt n).dest := by
  obtain ⟨r, hframe⟩ := h.fecCount_frame n f
  rw [Hw.frameTaken, Hw.rxDescribe_dest, Hw.macCount_macSt, hframe]
  rfl

/-- Taking a frame and counting it changes registers and the ports alone. -/
theorem Hw.frameTaken_macCount_frame (h : Hw) (n k : Nat) (f : Frame) :
    ∃ r m, (h.frameTaken n f).macCount n k = { h with regs := r, mac := m } := by
  obtain ⟨r, hframe⟩ := h.fecCount_frame n f
  rw [Hw.frameTaken, hframe]
  exact ⟨_, _, rfl⟩

/-- A frame accepted by the MAC and refused by the VID filter is counted as VID_DROP. -/
theorem Hw.frameReceive_vid_drop (h : Hw) (p : Port) (f : Frame) (hen : h.g (Reg.MAC_CTRL_en (pn p)) ≠ 0)
    (hfcs : f.fcsOk = true) (hfec : f.fecOk = true) (hmin : 64 ≤ f.length) (hmax : f.length ≤ h.frameMax (pn p))
    (hkind : f.kind ≠ .pause) (hvid : h.vidOk (pn p) f = false) :
    h.frameReceive p f = (h.frameTaken (pn p) f).macCount (pn p) 6 := by
  have hb := (h.b_iff _).2 hen
  have hlen : ¬(f.length < 64 ∨ (h.fecCount (pn p) f).frameMax (pn p) < f.length) := by
    rw [h.fecCount_frameMax]
    omega
  have hdrop : (((h.fecCount (pn p) f).macCount (pn p) 1).rxDescribe (pn p) f).vidOk (pn p) f = false :=
    (h.frameTaken_vidOk (pn p) f).trans hvid
  -- The match on the kind takes its second arm by `hkind`.
  simp only [Hw.frameReceive, hb, hfcs, hfec, hdrop, Bool.not_true, Bool.not_false, Bool.or_self, Bool.false_eq_true,
    Bool.or_eq_true, decide_eq_true_eq, gt_iff_lt, if_neg hlen, if_false, if_true]
  rfl

/-- A frame that does not reach order 4 of R320 is none of the Gnogo controller's. -/
theorem Hw.netFrame_of_dest (h : Hw) (p : Port) (f : Frame)
    (hdest : ((h.frameReceive p f).macSt (pn p)).dest = (h.macSt (pn p)).dest) : h.netFrame p f = h.frameReceive p f := by
  unfold Hw.netFrame
  split
  · exact if_pos (congrArg (Tab.get 0 · 4) hdest)
  · rfl

/-- Settles O40: the frame is counted, described and counted again, and nothing passes it on. -/
theorem vidDrop : Obligations.VidDrop := by
  intro s p f hq hen hfcs hfec hmin hmax hkind hvid
  have hreceive := s.hw.frameReceive_vid_drop p f hen hfcs hfec hmin hmax hkind hvid
  have hdest : ((s.hw.frameReceive p f).macSt (pn p)).dest = (s.hw.macSt (pn p)).dest := by
    rw [hreceive, Hw.macCount_macSt, Hw.frameTaken_dest]
  have heff := (s.hw.netFrame_of_dest p f hdest).trans hreceive
  obtain ⟨r, m, hframe⟩ := s.hw.frameTaken_macCount_frame (pn p) 6 f
  have hquiet : ((s.hw.frameTaken (pn p) f).macCount (pn p) 6).quiet = true := by
    rw [hframe]
    exact hq
  exact ⟨_, (congrArg (done s) heff).trans (done_quiet s _ hquiet), rfl, (congrArg Hw.kin hframe :),
    (congrArg Hw.mem hframe :), (congrArg Hw.sent hframe :)⟩

end Sys2Proof.Machine
end

section
/-! The completion of the network port, PTP, time unit, serial lane and Gnogo link commands (R319, R335, R338, R342, R348,
R356, R381). -/

namespace Sys2Proof.Machine

/-- Settles O57: the meaning of each row is `done` of its own operation, with no condition on the hardware. The rows stand in
the order of the statement: the network ports, PTP, the servo, re-timing, timers and captures, lanes, Gnogo links. -/
theorem netTimeLinkComplete : Obligations.NetTimeLinkComplete := by
  intro s
  exact ⟨fun _ _ => rfl, fun _ => rfl, fun _ _ _ _ => rfl, fun _ => rfl, fun _ => rfl, fun _ => rfl,
    fun _ _ => rfl, fun _ => rfl, fun _ _ => rfl,
    fun _ => rfl, rfl, fun _ => rfl, fun _ => rfl,
    rfl, rfl, rfl,
    fun _ _ => rfl, fun _ => rfl, fun _ _ => rfl, fun _ => rfl,
    fun _ _ => rfl, fun _ => rfl, fun _ _ => rfl,
    fun _ _ => rfl, fun _ _ _ _ => rfl, fun _ => rfl, fun _ => rfl,
    fun _ _ _ _ => rfl, fun _ _ _ _ _ _ => rfl, fun _ _ _ _ _ _ => rfl, fun _ _ _ _ => rfl, fun _ => rfl,
    fun _ _ => rfl, fun _ => rfl, fun _ _ _ _ _ => rfl, fun _ => rfl, fun _ _ => rfl, fun _ _ _ => rfl⟩

end Sys2Proof.Machine
end

section
/-! The completion of the audio port, rate converter, reference, media clock, amplifier and boost commands (R387, R393,
R399, R407, R414, R429, R430, R434). -/

namespace Sys2Proof.Machine

/-- Settles O58: the meaning of each row is `done` of its own operation, with no condition on the hardware. The rows stand in
the order of the statement: SAP ports and groups, AES receivers and transmitters, rate converters, references, the media
clock, amplifier channels, boost groups. -/
theorem portClockAmpComplete : Obligations.PortClockAmpComplete := by
  intro s
  exact ⟨fun _ _ => rfl, fun _ _ _ _ => rfl, fun _ => rfl, fun _ _ => rfl, fun _ => rfl, fun _ => rfl, fun _ => rfl,
    fun _ _ _ _ _ _ _ _ _ _ _ _ _ => rfl, fun _ => rfl, fun _ => rfl, fun _ => rfl, fun _ => rfl,
    fun _ _ => rfl, fun _ _ => rfl, fun _ _ => rfl,
    fun _ => rfl, fun _ => rfl, fun _ => rfl, rfl, fun _ => rfl, rfl,
    rfl, fun _ => rfl, fun _ => rfl, fun _ _ => rfl, rfl,
    fun _ _ => rfl, fun _ => rfl, fun _ => rfl, fun _ => rfl, fun _ => rfl, fun _ => rfl, fun _ => rfl,
    fun _ => rfl, fun _ => rfl, fun _ => rfl, fun _ => rfl, fun _ => rfl, fun _ => rfl,
    fun _ => rfl, fun _ => rfl, fun _ => rfl, fun _ => rfl, fun _ => rfl, fun _ => rfl⟩

end Sys2Proof.Machine
end

section
/-! Steps of the queue (spec/95_what_each_step_holds.md), and the invariant of the output pins at reset. -/

namespace Sys2Proof.Machine

/-- Settles O1: a step takes the front of the queue apart. -/
theorem stepFront : Obligations.StepFront := fun c s => step_cons c s.pending _ rfl

/-- Settles O5: an idle cycle leaves the empty queue, and a command the rest that it was given. -/
theorem queueShrinks : Obligations.QueueShrinks := by
  intro s t hstep
  cases hqueue : s.pending with
  | nil =>
    obtain rfl : { s with hw := s.hw.idle } = t := Host.Outcome.next.inj ((step_empty s hqueue).symm.trans hstep)
    exact hqueue
  | cons c cs =>
    obtain ⟨h, rfl⟩ := exec_cases ((step_cons c cs s hqueue).symm.trans hstep)
    rfl

/-- Settles O4: the levels of a file without entries are those of the reset values. -/
theorem pinsAtReset : Obligations.PinsAtReset := ⟨rfl, rfl⟩

end Sys2Proof.Machine
end

section
/-! The clock status pins, the time-uncertain flag and FAULT_N after a command (R57, R419, R474). -/

namespace Sys2Proof.Machine

/-- The clock status pins are low until CLK_STAT is first updated. -/
theorem Hw.levels_clk_hidden (h : Hw) (hshown : h.clk.shown = false) :
    h.levels.clkLock = false ∧ h.levels.clkHold = false ∧ h.levels.clkFree = false := by
  simp [Hw.levels, hshown]

/-- Once CLK_STAT is updated, its state drives the clock status pins. -/
theorem Hw.levels_clk_shown (h : Hw) (hshown : h.clk.shown = true) :
    (h.levels.clkFree = true ↔ h.g Reg.CLK_STAT_state = 0) ∧
    (h.levels.clkLock = true ↔ h.g Reg.CLK_STAT_state = 2) ∧
    (h.levels.clkHold = true ↔ h.g Reg.CLK_STAT_state ∈ [1, 3, 4, 5]) := by
  simp [Hw.levels, hshown, or_assoc]

theorem Hw.uncertain_iff (h : Hw) :
    h.uncertain = true ↔ h.g Reg.TIME_STAT_state ≠ 2 ∨ h.g Reg.CLK_STAT_state ≠ 2 := by
  simp [Hw.uncertain]

/-- Bit 1 of the flags of a record says that its time is uncertain. -/
theorem bitOf_rflags_uncertain (conseq uncertain : Bool) : bitOf (b2n conseq + 2 * b2n uncertain) 1 = uncertain := by
  cases conseq <;> cases uncertain <;> rfl

/-- The record that a ring takes while it is not frozen carries the flag of the state in which it is written. -/
theorem Hw.trace_flag (h : Hw) (ty : Nat) (pl : List Byte) (r : TraceRec) (hf : h.ring.postFreeze ≠ 0)
    (hr : (h.trace ty pl).ring.recs.find? h.ring.writeIdx = some r) : bitOf r.rflags 1 = h.uncertain := by
  obtain rfl := Option.some.inj ((h.traceAt_stored h.t64 ty false pl hf).symm.trans hr)
  exact bitOf_rflags_uncertain false h.uncertain

/-- Settles O7: the pins stand at their levels, and the flag of a record is that of its state. -/
theorem clockPins : Obligations.ClockPins := by
  intro c s t he
  have houts : t.hw.outs = t.hw.levels := exec_pinsFollow he
  rw [houts]
  refine ⟨t.hw.levels_clk_hidden, t.hw.levels_clk_shown, fun ty pl r hf hr => ?_⟩
  rw [t.hw.trace_flag ty pl r hf hr, ← Bool.not_eq_true, t.hw.uncertain_iff]
  exact ⟨Or.inr, fun hclk hservo => by simp [hclk, hservo]⟩

/-- A set bit makes its register other than zero. -/
theorem ne_zero_of_bitOf {v i : Nat} (hbit : bitOf v i = true) : v ≠ 0 := by
  rintro rfl
  simp [bitOf] at hbit

/-- No source that drives the pin has its sticky bit set. -/
theorem Hw.faultPin_eq_false_iff (h : Hw) :
    h.faultPin = false ↔ ∀ k < 8, ∀ j < 32, bitOf (h.g (Reg.FAULT_STICKY_bit k)) j = true →
      h.g (Reg.FAULT_CLASS_pin (32 * k + j)) = 0 := by
  simp only [Hw.faultPin, List.any_eq_false, List.mem_range, Bool.and_eq_true, List.any_eq_true, Hw.bit, Hw.b_iff]
  constructor
  · intro hnone k hk j hj hbit
    by_contra hpin
    exact hnone k hk ⟨ne_zero_of_bitOf hbit, j, hj, hbit, hpin⟩
  · rintro hall k hk ⟨-, j, hj, hbit, hpin⟩
    exact hpin (hall k hk j hj hbit)

/-- Settles O8: FAULT_N stands at its level, whose three conditions are those of R474. -/
theorem faultPin : Obligations.FaultPin := by
  intro c s t he
  have hlevel : t.hw.outs.faultN = t.hw.levels.faultN := congrArg Outs.faultN (exec_pinsFollow he)
  rw [hlevel, ← t.hw.faultPin_eq_false_iff]
  simp [Hw.levels, Hw.b_iff, and_assoc]

end Sys2Proof.Machine
end

section
/-! The sticky bit of a fault event, and the queue of the fault unit (R460, R476). -/

namespace Sys2Proof.Machine

/-- A bit that is set stands set, whatever the field held. -/
theorem Hw.bit_setBit_true (h : Hw) (f : RF) (i : Nat) (hi : i < f.w) : (h.setBit f i true).bit f i = true := by
  by_cases hset : h.bit f i = true
  · rwa [Hw.setBit, if_pos hset]
  · have hclear : (h.g f).testBit i = false := by
      rwa [Hw.bit, bitOf_eq_testBit, Bool.not_eq_true] at hset
    rw [Hw.setBit, if_neg hset, if_pos rfl, Hw.bit, Hw.g_p_same, bitOf_eq_testBit, Nat.testBit_mod_two_pow, Nat.add_comm,
      Nat.testBit_two_pow_add_eq, hclear]
    simpa using hi

theorem insertEvent_length (e : FaultEvent) (q : List FaultEvent) : (insertEvent e q).length = q.length + 1 := by
  induction q with
  | nil => rfl
  | cons x q ih =>
    simp only [insertEvent]
    split
    · rfl
    · rw [List.length_cons, ih, List.length_cons]

theorem Hw.enqueue_queue_length (h : Hw) (e : FaultEvent) : (h.enqueue e).flt.queue.length ≤ 16 := by
  rw [h.enqueue_queue, List.length_take]
  exact Nat.min_le_left _ _

/-- A full queue drops one event and counts it. -/
theorem Hw.g_enqueue_full (h : Hw) (e : FaultEvent) (hfull : h.flt.queue.length = 16) :
    (h.enqueue e).g Reg.FAULT_LOST_count = (h.g Reg.FAULT_LOST_count + 1) % 2 ^ Reg.FAULT_LOST_count.w ∧
    (h.enqueue e).g Reg.FAULT_STAT_ovf = 1 := by
  have hover : ¬(insertEvent e h.flt.queue).length ≤ 16 := by
    rw [insertEvent_length]
    omega
  simp only [Hw.enqueue, if_neg hover]
  exact ⟨(Hw.g_s1_ne _ _ _ (by decide)).trans (Hw.g_inc_same _ _), Hw.g_s1_same _ _ (by decide)⟩

/-- A queue with room drops nothing. -/
theorem Hw.g_enqueue_room (h : Hw) (e : FaultEvent) (f : RF) (hroom : h.flt.queue.length < 16) :
    (h.enqueue e).g f = h.g f := by
  have hfits : (insertEvent e h.flt.queue).length ≤ 16 := by
    rw [insertEvent_length]
    omega
  simp only [Hw.enqueue, if_pos hfits]
  rfl

/-- Settles O35: the sticky bit is set before the event enters the queue, which writes other registers. -/
theorem stickyBeforeQueue : Obligations.StickyBeforeQueue := by
  intro h src code ctx hsrc hm _
  have hqueue := h.setBit_flt (Reg.FAULT_STICKY_bit (src / 32)) (src % 32) true
  have hlost := h.g_setBit_addr (Reg.FAULT_STICKY_bit (src / 32)) Reg.FAULT_LOST_count (src % 32) true
    (by decide : 0 < 32) (by decide) (by simp only [Reg.FAULT_LOST_count, Reg.FAULT_STICKY_bit]; omega)
  have hmem := ((Hw.RegsFlt.refl h).raise src code ctx 0xFFFFFFFF).mem
  simp only [h.raise_unmasked src code ctx _ hm] at hmem ⊢
  refine ⟨?sticky, Hw.enqueue_queue_length _ _, fun hfull => ?full, fun hroom => ?room, hmem⟩
  case sticky =>
    rw [Hw.g_enqueue_addr _ _ _ (by decide : 0 < 32) (by simp only [Reg.FAULT_STICKY_bit]; omega)
      (by simp only [Reg.FAULT_STICKY_bit]; omega)]
    exact h.bit_setBit_true _ _ (Nat.mod_lt _ (by decide))
  case full =>
    rw [← hlost]
    exact Hw.g_enqueue_full _ _ (by rwa [hqueue])
  case room =>
    rw [← hlost]
    exact Hw.g_enqueue_room _ _ _ (by rwa [hqueue])

end Sys2Proof.Machine
end

section
/-! The idle-frequency band of an amplifier channel (R426). -/

namespace Sys2Proof.Machine

/-- The frequencies barred by a carrier: a sub-multiple within the guard, in units of 1/60 kHz. -/
def barredBy (freq guard : Nat) : List (Nat × Nat) :=
  [1, 2, 3, 4, 5].map (fun k => ((freq - guard) * 60 / k, (freq + guard) * 60 / k))

/-- The frequencies that the enabled carriers bar. -/
def Hw.barred (h : Hw) : List (Nat × Nat) :=
  (List.range 16).flatMap (fun i =>
    if h.b (Reg.AMP_CARRIER_en i) then barredBy (h.g (Reg.AMP_CARRIER_freq i)) (h.g (Reg.AMP_CARRIER_guard i)) else [])

/-- The lower end of the clear run about f, not below the floor. -/
def clearFrom (barred : List (Nat × Nat)) (f floor : Nat) : Nat :=
  barred.foldl (fun m e => if e.2 < f then max m e.2 else m) floor

/-- The upper end of the clear run about f. -/
def clearTo (barred : List (Nat × Nat)) (f : Nat) : Nat :=
  barred.foldl (fun m e => if f < e.1 then min m e.1 else m) 36000

/-- The floor of the channel enters the lower end as one bound more. -/
theorem clearFrom_eq_max (barred : List (Nat × Nat)) (f floor : Nat) :
    clearFrom barred f floor = max floor (clearFrom barred f 0) := by
  induction barred using List.reverseRecOn with
  | nil => simp [clearFrom]
  | append_singleton l e ih =>
    simp only [clearFrom, List.foldl_append, List.foldl_cons, List.foldl_nil] at ih ⊢
    rw [ih]
    split <;> omega

/-- The band of a channel whose idle frequency f, in units of 1/60 kHz, is clear. -/
theorem Hw.bandOf_clear (h : Hw) (c f floor : Nat) (hidle : 60 * h.g (Reg.AMP_OSC_f_idle c) = f)
    (hfloor : 60 * h.g (Reg.AMP_OSC_f_floor c) = floor) (hfirst : floor ≤ f) (hlast : f ≤ 36000)
    (hclear : ∀ e ∈ h.barred, ¬(e.1 ≤ f ∧ f ≤ e.2)) :
    h.bandOf c =
      (ceilDiv (clearFrom h.barred f floor * 1000) (60 * 998), clearTo h.barred f * 1000 / (60 * 1002)) := by
  subst hidle hfloor
  refine if_neg ?_
  simp only [Bool.or_eq_true, decide_eq_true_eq, List.any_eq_true, Bool.and_eq_true]
  rintro ((hlow | hhigh) | ⟨e, he, hin⟩)
  · omega
  · omega
  · exact hclear e he hin

/-- The carriers of the worked example bar the sub-multiples of 693, 909 and 1,089 kHz, each with its guard of 10 kHz. -/
theorem Hw.barred_example (h : Hw) (hen : ∀ i < 16, h.g (Reg.AMP_CARRIER_en i) = if i < 3 then 1 else 0)
    (hfreq : h.g (Reg.AMP_CARRIER_freq 0) = 693 ∧ h.g (Reg.AMP_CARRIER_freq 1) = 909 ∧
      h.g (Reg.AMP_CARRIER_freq 2) = 1089)
    (hguard : ∀ i < 3, h.g (Reg.AMP_CARRIER_guard i) = 10) :
    h.barred = barredBy 693 10 ++ barredBy 909 10 ++ barredBy 1089 10 := by
  obtain ⟨hfirst, hsecond, hthird⟩ := hfreq
  have hon : ∀ i < 16, h.b (Reg.AMP_CARRIER_en i) = decide (i < 3) := fun i hi => by
    by_cases hlt : i < 3 <;> simp [Hw.b, hen i hi, hlt]
  simp [Hw.barred, List.range_succ, hon, hfirst, hsecond, hthird, hguard]

/-- Settles O50: below 400 kHz the last barred edge is 1,099 / 3 kHz, above it the first is 899 / 2 kHz. -/
theorem bandExample : Obligations.BandExample := by
  intro h hen hfirst hsecond hthird hguard c hidle hfloor
  have hbarred := h.barred_example hen ⟨hfirst, hsecond, hthird⟩ hguard
  have hlow : clearFrom h.barred 24000 (60 * h.g (Reg.AMP_OSC_f_floor c)) = 21980 := by
    have hedge : clearFrom h.barred 24000 0 = 21980 := by
      rw [hbarred]
      decide
    rw [clearFrom_eq_max, hedge]
    omega
  have hhigh : clearTo h.barred 24000 = 26970 := by
    rw [hbarred]
    decide
  have hclear : ∀ e ∈ h.barred, ¬(e.1 ≤ 24000 ∧ 24000 ≤ e.2) := by
    rw [hbarred]
    decide
  rw [h.bandOf_clear c 24000 _ (by omega) rfl (by omega) (by decide) hclear, hlow, hhigh]
  decide

end Sys2Proof.Machine
end

section
/-! Commands that carry the clock to their deadline: the open-loop hold of a channel, and the keys of a table (R429, R452,
R509; log entry 9). -/

namespace Sys2Proof.Machine

/-- Carrying the clock forward writes T64 and its fraction alone. -/
theorem Hw.advanceTo_frame (h : Hw) (t : Nat) : ∃ t' u, h.advanceTo t = { h with t64 := t', sub := u } := by
  unfold Hw.advanceTo
  split
  · exact ⟨_, _, rfl⟩
  · exact ⟨_, _, rfl⟩

theorem Hw.le_advanceTo_t64 (h : Hw) (t : Nat) : t ≤ (h.advanceTo t).t64 := by
  unfold Hw.advanceTo
  split
  · exact le_rfl
  · next hpast => exact Nat.not_lt.1 hpast

/-- No amplifier of a still state is muted. -/
theorem Hw.still_not_muting {h : Hw} (hs : h.still = true) : ∀ e ∈ h.sill.amps, e.2.mute.muting = false := by
  simp only [Hw.still, Bool.and_eq_true, List.all_eq_true, Bool.not_eq_true'] at hs
  obtain ⟨⟨-, hamps⟩, -⟩ := hs
  exact hamps

theorem Hw.still_ampSt_not_muting {h : Hw} (hs : h.still = true) (c : Nat) : (h.ampSt c).mute.muting = false := by
  rcases Tab.get_cases {} h.sill.amps c with hdefault | hmem
  · rw [Hw.ampSt, hdefault]
  · exact Hw.still_not_muting hs _ hmem

@[simp] theorem Hw.p_ampSt (h : Hw) (f : RF) (v c : Nat) : (h.p f v).ampSt c = h.ampSt c := rfl
@[simp] theorem Hw.drive_ampSt (h : Hw) (c : Nat) : h.drive.ampSt c = h.ampSt c := rfl

@[simp] theorem Hw.advanceTo_ampSt (h : Hw) (t c : Nat) : (h.advanceTo t).ampSt c = h.ampSt c := by
  obtain ⟨t', u, hframe⟩ := h.advanceTo_frame t
  rw [hframe]
  rfl

/-- A still state is quiet at any time from now on, with one of its channels in another step. -/
theorem Hw.still_setAmp_quiet {h : Hw} (hs : h.still = true) (t c : Nat) (a : AmpSt) (ha : a.mute.muting = false) :
    ((h.advanceTo t).setAmp c a).quiet = true := by
  refine Hw.quiet_amps _ (h.still_advance hs t) (fun e he => ?_)
  obtain ⟨t', u, hframe⟩ := h.advanceTo_frame t
  rw [hframe] at he
  have hmuting : e.2.mute.muting = false := by
    rcases Tab.mem_put he with rfl | hold
    · exact ha
    · exact Hw.still_not_muting hs e hold
  simp [Hw.fadeWaits, hmuting]

/-- The instant at which the open-loop hold of a channel ends (R429, R452). -/
def Hw.holdDue (h : Hw) (c : Nat) : Nat := (h.ampSt c).t0 + if (h.ampSt c).quick then 500000 else 2000000

/-- A channel that waits for the zero crossing since an instant. -/
def AmpSt.zeroFrom (a : AmpSt) (t : Nat) : AmpSt := { a with step := .zero, t0 := t }

/-- The hardware at the end of the hold of a channel, but for the state that AMP_STAT shows. -/
def Hw.holdOver (h : Hw) (c : Nat) : Hw :=
  (h.advanceTo (h.holdDue c)).setAmp c ((h.ampSt c).zeroFrom (h.advanceTo (h.holdDue c)).t64)

theorem Hw.ampHoldEnd_hold (h : Hw) (c : Nat) (hhold : (h.ampSt c).step = .hold) :
    h.ampHoldEnd c = (h.holdOver c).p (Reg.AMP_STAT_state c) 1 := by
  simp only [Hw.ampHoldEnd, if_pos hhold, Hw.ampStep, Hw.advanceTo_ampSt]
  rfl

theorem Hw.holdOver_ampSt_same (h : Hw) (c : Nat) :
    (h.holdOver c).ampSt c = (h.ampSt c).zeroFrom (h.holdOver c).t64 := Hw.ampSt_setAmp_same _ c _

theorem Hw.holdOver_ampSt_ne (h : Hw) (c k : Nat) (hk : k ≠ c) : (h.holdOver c).ampSt k = h.ampSt k :=
  (Hw.ampSt_setAmp_ne _ c k _ hk).trans (h.advanceTo_ampSt _ k)

theorem Hw.holdOver_mem (h : Hw) (c : Nat) : (h.holdOver c).mem = h.mem := by
  obtain ⟨t, u, hframe⟩ := h.advanceTo_frame (h.holdDue c)
  exact (congrArg Hw.mem hframe :)

/-- Settles O44: the clock stands at the end of the hold or later, and the step of the one channel changes with its
instant. -/
theorem openLoopHold : Obligations.OpenLoopHold := by
  intro s c hs hhold
  have hquiet : (s.hw.holdOver c.val).quiet = true :=
    Hw.still_setAmp_quiet hs _ _ _ (Hw.still_ampSt_not_muting hs c.val)
  have hexec : exec (.ampOpenLoopHoldEnd c) s =
      .next { s with hw := ((s.hw.holdOver c.val).p (Reg.AMP_STAT_state c.val) 1).drive } :=
    (congrArg (done s) (s.hw.ampHoldEnd_hold c.val hhold)).trans (done_quiet s _ hquiet)
  refine ⟨_, hexec, ?_⟩
  simp only [Hw.drive_ampSt, Hw.p_ampSt, Hw.drive_mem, Hw.p_mem, Hw.drive_t64, Hw.p_t64, s.hw.holdOver_ampSt_same]
  exact ⟨rfl, rfl, s.hw.le_advanceTo_t64 _, fun k _ hk => s.hw.holdOver_ampSt_ne c.val k hk, s.hw.holdOver_mem c.val⟩

/-- The keys of the table once k is active. -/
def TableSt.activated (t : TableSt) (k : KeyRec) : TableSt := { t with keys := k :: t.keys.take 1, nextKey := none }

/-- The next key becomes active at its activation time. -/
theorem Hw.keyActivate_frame (h : Hw) (k : KeyRec) (hk : h.table.nextKey = some k) :
    ∃ t u, h.advanceTo k.active = { h with t64 := t, sub := u } ∧
      h.keyActivate = { h with t64 := t, sub := u, table := h.table.activated k } := by
  obtain ⟨t, u, hframe⟩ := h.advanceTo_frame k.active
  refine ⟨t, u, hframe, ?_⟩
  simp only [Hw.keyActivate, hk, hframe]
  rfl

/-- Settles O41: the key's activation time is the deadline to which the clock is carried, and no member's poll waits on the
keys. -/
theorem tableKeyActive : Obligations.TableKeyActive := by
  intro s k hs hk
  obtain ⟨t, u, hframe, heff⟩ := s.hw.keyActivate_frame k hk
  have hquiet := s.hw.still_advance hs k.active
  have hdue := s.hw.le_advanceTo_t64 k.active
  rw [hframe] at hquiet hdue
  exact ⟨_, (congrArg (done s) heff).trans (done_quiet s _ hquiet), rfl, rfl, hdue, rfl, rfl⟩

end Sys2Proof.Machine
end

section
/-! Power-on, and the release of an engine reset (R487, R492, R498–R501). -/

namespace Sys2Proof.Machine

/-- Nothing waits after power-on. -/
theorem Hw.powerReset_quiet (h : Hw) : h.powerReset.quiet = true := rfl

/-- Settles O19: power-on empties the register file, and the sill die is in sill safe state. -/
theorem powerOnResets : Obligations.PowerOnResets := by
  intro s
  obtain ⟨hgates, -⟩ := s.hw.powerReset.levels_gates_low (.inl rfl)
  exact ⟨_, done_quiet s _ s.hw.powerReset_quiet, fun _ => rfl, rfl, rfl, rfl, rfl, rfl, rfl, hgates, rfl⟩

/-! ### The straps -/

/-- The straps stand at the pins and in their registers, and the engine is out of reset (R441, R498). -/
def Hw.strapped (h : Hw) (st : Straps) : Hw :=
  ((({ h with
    pins := { h.pins with resetN := true, bootMode := st.bootMode.val, pmbAvs := st.pmbAvs, twinSeat := st.twinSeat }
    boot := { held := false } } : Hw).p Reg.SYS_STATE_boot_mode st.bootMode.val).p Reg.TWIN_STAT_seat (b2n st.twinSeat))

/-- The security unit shows what it finds at the release (R505–R507). -/
def Hw.identified (h : Hw) (pufOk : Bool) : Hw :=
  (((h.p Reg.SEC_STAT_puf_fail (b2n !pufOk)).p Reg.SEC_STAT_identity (b2n (pufOk && rdOtp h 0x500 2 != [0, 0]))).p
    Reg.SEC_STAT_owner (b2n h.ownerSet)).p Reg.SEC_ROLLBACK_value h.rollback

theorem Hw.resetRelease_eq (h : Hw) (st : Straps) (pufOk : Bool) :
    h.resetRelease st pufOk =
      if st.bootMode.val = 0 then ((h.strapped st).identified pufOk).bootFlash else (h.strapped st).identified pufOk := rfl

theorem Hw.g_strapped (h : Hw) (st : Straps) :
    (h.strapped st).g Reg.SYS_STATE_boot_mode = st.bootMode.val ∧
    (h.strapped st).g Reg.TWIN_STAT_seat = b2n st.twinSeat := by
  refine ⟨?_, ?_⟩
  · rw [Hw.strapped, Hw.g_p_ne _ _ _ _ (by decide), Hw.g_p_same]
    exact Nat.mod_eq_of_lt st.bootMode.isLt
  · rw [Hw.strapped, Hw.g_p_same]
    cases st.twinSeat <;> rfl

/-! ### The boot from flash -/

/-- g is h but for what the boot ROM writes: registers of the security unit, dealer and peg memory, and the image that
boot keeps. -/
def Hw.BootFrame (h g : Hw) : Prop :=
  (∃ r m i b, g = { h with regs := r, mem := m, boot := { h.boot with image := i, running := b } }) ∧
  (∀ f : RF, f.lo < 32 → f.addr < 0x40210000 ∨ 0x40220000 ≤ f.addr → g.g f = h.g f) ∧
  ∀ x, ofFirmware x = false → g.rd8 x = h.rd8 x

theorem Hw.BootFrame.refl (h : Hw) : h.BootFrame h := ⟨⟨_, _, _, _, rfl⟩, fun _ _ _ => rfl, fun _ _ => rfl⟩

theorem Hw.BootFrame.trans {h g k : Hw} (hg : h.BootFrame g) (hk : g.BootFrame k) : h.BootFrame k := by
  obtain ⟨⟨r, m, i, b, rfl⟩, hregs, hmem⟩ := hg
  obtain ⟨⟨r', m', i', b', rfl⟩, hregs', hmem'⟩ := hk
  exact ⟨⟨_, _, _, _, rfl⟩, fun f hlo ha => (hregs' f hlo ha).trans (hregs f hlo ha),
    fun x hx => (hmem' x hx).trans (hmem x hx)⟩

theorem Hw.BootFrame.p {h g : Hw} (hg : h.BootFrame g) (f : RF) (v : Nat) (hlo : f.lo < 32)
    (hsec : 0x40210000 ≤ f.addr ∧ f.addr < 0x40220000) : h.BootFrame (g.p f v) := by
  obtain ⟨⟨r, m, i, b, rfl⟩, hregs, hmem⟩ := hg
  exact ⟨⟨_, _, _, _, rfl⟩, fun f' hlo' ha => (Hw.g_p_addr _ f f' v hlo hlo' (by omega)).trans (hregs f' hlo' ha), hmem⟩

theorem Hw.BootFrame.identified {h g : Hw} (hg : h.BootFrame g) (pufOk : Bool) : h.BootFrame (g.identified pufOk) :=
  (((hg.p _ _ (by decide) (by decide)).p _ _ (by decide) (by decide)).p _ _ (by decide) (by decide)).p _ _ (by decide)
    (by decide)

theorem ofFirmware_eq_false_iff (x : Nat) : ofFirmware x = false ↔ x < 0x30000000 ∨ 0x3017FFFF < x := by
  simp [ofFirmware, inRange, imp_iff_not_or]

theorem lenOk_le {n : Nat} (hn : lenOk n = true) : n ≤ 0x80000 := by
  simp only [lenOk, Bool.and_eq_true, decide_eq_true_eq] at hn
  exact hn.1

/-- The declared lengths of the three payloads of an image are valid (R501). -/
def imgLensOk (im : Nat → Byte) : Bool := lenOk (imgField im 20 4) && lenOk (imgField im 24 4) && lenOk (imgField im 28 4)

/-- An image that passes the checks of R501 passes the first, that of its header. -/
theorem Hw.imgLensOk_of_checkImage (h : Hw) (recovery : Bool) (im : Nat → Byte) (hok : h.checkImage recovery im = 0) :
    imgLensOk im = true := by
  by_contra hbad
  have hfirst : h.checkImage recovery im = 1 := by
    refine if_pos ?_
    simp only [imgLensOk, Bool.and_eq_true, not_and_or, Bool.not_eq_true] at hbad
    rcases hbad with (hlen | hlen) | hlen <;> simp [hlen]
  omega

/-- A payload of valid lengths lies in dealer and peg memory (R499). -/
theorem Hw.rd8_payloadIn (h : Hw) (im : Nat → Byte) (hlens : imgLensOk im = true) (x : Nat) (hx : ofFirmware x = false) :
    (h.payloadIn im).rd8 x = h.rd8 x := by
  simp only [imgLensOk, Bool.and_eq_true] at hlens
  obtain ⟨⟨hcode, hdata⟩, hpeg⟩ := hlens
  have hcode := lenOk_le hcode
  have hdata := lenOk_le hdata
  have hpeg := lenOk_le hpeg
  have hout := (ofFirmware_eq_false_iff x).1 hx
  have hlength : ∀ o n, (imgBytes im o n).length = n := fun o n => by simp [imgBytes]
  simp only [Hw.payloadIn]
  rw [Hw.rd8_wrBytes_other _ _ _ _ (by rw [hlength]; omega), Hw.rd8_wrBytes_other _ _ _ _ (by rw [hlength]; omega),
    Hw.rd8_wrBytes_other _ _ _ _ (by rw [hlength]; omega)]

theorem Hw.BootFrame.imageIn {h g : Hw} (hg : h.BootFrame g) (im : Nat → Byte) (hlens : imgLensOk im = true) :
    h.BootFrame (g.imageIn im) := by
  have hpayload := g.rd8_payloadIn im hlens
  obtain ⟨⟨r, m, i, b, rfl⟩, hregs, hmem⟩ := hg
  exact ⟨⟨_, _, _, _, rfl⟩, hregs, fun x hx => (hpayload x hx).trans (hmem x hx)⟩

/-- The boot ROM takes a slot whose image is valid, or records why it takes none (R500). -/
theorem Hw.bootFlash_cases (h : Hw) :
    (∃ b, h.checkImage false (h.slotImage b) = 0 ∧
      h.bootFlash = (h.p Reg.SEC_STAT_slot (b2n b)).imageIn (h.slotImage b)) ∨
    ∃ e, h.bootFlash = h.p Reg.SEC_STAT_boot_err e := by
  by_cases hfirst : h.checkImage false (h.slotImage h.slotBFirst) = 0
  · exact .inl ⟨_, hfirst, if_pos hfirst⟩
  · by_cases hsecond : h.checkImage false (h.slotImage !h.slotBFirst) = 0
    · exact .inl ⟨_, hsecond, (if_neg hfirst).trans (if_pos hsecond)⟩
    · exact .inr ⟨_, (if_neg hfirst).trans (if_neg hsecond)⟩

theorem Hw.bootFlash_frame (h : Hw) : h.BootFrame h.bootFlash := by
  rcases h.bootFlash_cases with ⟨b, hvalid, heq⟩ | ⟨e, heq⟩
  · rw [heq]
    exact ((Hw.BootFrame.refl h).p _ _ (by decide) (by decide)).imageIn _ (h.imgLensOk_of_checkImage _ _ hvalid)
  · rw [heq]
    exact (Hw.BootFrame.refl h).p _ _ (by decide) (by decide)

/-- After the straps, the release leaves everything but what the boot ROM writes. -/
theorem Hw.resetRelease_frame (h : Hw) (st : Straps) (pufOk : Bool) :
    (h.strapped st).BootFrame (h.resetRelease st pufOk) := by
  have hidentified := (Hw.BootFrame.refl (h.strapped st)).identified pufOk
  rw [h.resetRelease_eq]
  split
  · exact hidentified.trans (Hw.bootFlash_frame _)
  · exact hidentified

/-- Settles O21: the straps are sampled before the boot ROM runs, which writes neither register, and memory only for the
firmware of a boot from flash. -/
theorem resetReleaseStraps : Obligations.ResetReleaseStraps := by
  intro s st ok hq
  obtain ⟨⟨r, m, i, b, hframe⟩, hregs, hmem⟩ := s.hw.resetRelease_frame st ok
  obtain ⟨hmode, hseat⟩ := s.hw.g_strapped st
  have hquiet : (s.hw.resetRelease st ok).quiet = true := by
    rw [hframe]
    exact hq
  have hnoFlash : st.bootMode.val ≠ 0 → (s.hw.resetRelease st ok).mem = s.hw.mem := fun hother =>
    (congrArg Hw.mem ((s.hw.resetRelease_eq st ok).trans (if_neg hother)) :)
  exact ⟨_, done_quiet s _ hquiet, (hregs _ (by decide) (by decide)).trans hmode,
    (hregs _ (by decide) (by decide)).trans hseat, (congrArg (fun g : Hw => g.boot.held) hframe :),
    (congrArg (fun g : Hw => g.pins.resetN) hframe :), hmem, hnoFlash, (congrArg Hw.otp hframe :),
    (congrArg Hw.flash hframe :), rfl⟩

end Sys2Proof.Machine
end

section
/-! The monitors, built-in self-test and the test access port (R484, R524, R526, R547). -/

namespace Sys2Proof.Machine

/-- The tolerance of the 0.9 V rail. -/
theorem railOk_900 (mv : Nat) : railOk 4 mv = true ↔ 873 ≤ mv ∧ mv ≤ 927 := by
  simp only [railOk, Bool.and_eq_true, decide_eq_true_eq]
  omega

/-- A rail within its range raises nothing. -/
theorem Hw.monSupply_inRange (h : Hw) (k mv : Nat) (hok : railOk k mv = true) :
    h.monSupply k mv = (h.p (Reg.MON_RAIL_mv k) mv).p (Reg.MON_RAIL_out k) 0 := if_pos hok

/-- Settles O49: 873 to 927 mV is the range of 3% about 0.9 V. -/
theorem railInRange : Obligations.RailInRange := by
  intro s mv hq hmin hmax
  have heff := s.hw.monSupply_inRange 4 mv ((railOk_900 mv).2 ⟨hmin, hmax⟩)
  exact (congrArg (done s) heff).trans (done_quiet s _ hq)

/-- A start while a test runs does nothing but record a value error. -/
theorem Hw.bistStart_running (h : Hw) (full : Bool) (master : Nat) (hrun : h.g Reg.BIST_STAT_state = 1) :
    h.bistStart full master = h.valueErr 0x40200000 master := if_pos hrun

/-- Settles O46: the fields of the test lie neither in the registers of access errors nor in those of the fault unit. -/
theorem bistBusy : Obligations.BistBusy := by
  intro s m full hrun
  have hkeep : ∀ f : RF, f.lo < 32 → 0x40200000 ≤ f.addr →
      (s.hw.valueErr 0x40200000 m.toNat).g f = s.hw.g f :=
    fun f hlo ha => s.hw.g_accErr_addr _ _ _ _ _ f hlo (by omega) (by omega)
  obtain ⟨r, x, n, hframe⟩ := s.hw.accErr_frame kValue 0x40200000 true 2 m.toNat
  exact ⟨_, congrArg (done s) (s.hw.bistStart_running full m.toNat hrun), s.hw.g_accErr_bit kValue _ true 2 m.toNat,
    (hkeep _ (by decide) (by decide)).trans hrun, hkeep _ (by decide) (by decide), (congrArg Hw.deal hframe :)⟩

/-- The captured word ends in the manufacturer and a 1 (R524, R528). -/
theorem idcodeWord_fields : idcodeWord % 2 = 1 ∧ idcodeWord / 2 % 2 ^ 11 = 0x6F1 := by decide

/-- A command whose effect on quiet hardware is the state of the test access port. -/
theorem done_tap (s : State) (hq : s.hw.quiet = true) (p : Tap) :
    done s { s.hw with tap := p } = .next { s with hw := ({ s.hw with tap := p } : Hw).drive } := done_quiet s _ hq

/-- An instruction that drives the pins holds every gate low. -/
theorem Hw.tap_gates_low (h : Hw) (p : Tap) (hp : p.ir = .extest ∨ p.ir = .clamp ∨ p.ir = .highz) :
    ({ h with tap := p } : Hw).drive.outs.ampGates = [] ∧ ({ h with tap := p } : Hw).drive.outs.boostGates = [] :=
  Hw.levels_gates_low _ (.inr ((Hw.tapDrives_iff _).2 hp))

/-- Settles O47: each instruction changes the port alone, and the three that drive the pins mask the gates. -/
theorem testPort : Obligations.TestPort := by
  intro s hq
  have hport := done_tap s hq
  obtain ⟨hlast, hmanufacturer⟩ := idcodeWord_fields
  obtain ⟨hampExtest, hboostExtest⟩ := s.hw.tap_gates_low { s.hw.tap with ir := .extest, out := 0 } (.inl rfl)
  obtain ⟨hampClamp, hboostClamp⟩ := s.hw.tap_gates_low { s.hw.tap with ir := .clamp, out := 0 } (.inr (.inl rfl))
  obtain ⟨hampHighz, hboostHighz⟩ := s.hw.tap_gates_low { s.hw.tap with ir := .highz, out := 0 } (.inr (.inr rfl))
  exact ⟨⟨_, hport _, rfl, hlast, hmanufacturer, rfl⟩, ⟨_, hport _, rfl, rfl⟩,
    ⟨_, hport _, rfl, hampExtest, hboostExtest, rfl⟩, ⟨_, hport _, rfl, hampClamp, hboostClamp, rfl⟩,
    ⟨_, hport _, rfl, hampHighz, hboostHighz, rfl⟩, fun _ => ⟨_, hport _, rfl, rfl, rfl⟩, hport {}⟩

end Sys2Proof.Machine
end

section
/-! The completion of the twin, fault, adaptive voltage, monitor, self-test and test access port commands (R442, R453, R460,
R466, R484, R489, R521, R524). -/

namespace Sys2Proof.Machine

/-- Settles O59: the meaning of each row is `done` of its own operation, with no condition on the hardware. The rows stand in
the order of the statement: the twin, faults, adaptive voltage, monitors, self-test, the test access port. -/
theorem twinFaultMonitorComplete : Obligations.TwinFaultMonitorComplete := by
  intro s
  exact ⟨fun _ _ => rfl, rfl, rfl, rfl, fun _ _ => rfl, rfl, rfl, fun _ _ => rfl, rfl, fun _ _ _ => rfl,
    fun _ _ => rfl, fun _ _ => rfl, rfl, fun _ _ _ _ => rfl, fun _ _ _ _ _ _ => rfl,
    fun _ _ _ => rfl, fun _ => rfl, fun _ _ => rfl, fun _ _ => rfl, fun _ => rfl, fun _ => rfl,
    fun _ _ _ _ => rfl, fun _ _ _ => rfl, fun _ => rfl,
    fun _ _ => rfl, fun _ => rfl, fun _ => rfl, fun _ => rfl,
    fun _ _ => rfl, fun _ _ => rfl,
    rfl, rfl, fun _ => rfl, rfl, rfl, rfl, fun _ _ _ => rfl, rfl, rfl⟩

end Sys2Proof.Machine
end
